-- ==== Sys2Proof/Word.lean ====
section
/-!
DEFINITION. The word types: the 36-bit register and data word of the FY524 (R10) and the byte.
-/
namespace Sys2Proof

/-- A register or data word: 36 bits (R10). -/
abbrev Word := BitVec 36

/-- A byte. -/
abbrev Byte := BitVec 8

end Sys2Proof
end

