-- ==== Sys2Proof/Syntax.lean ====
section
/-!
DEFINITION. The commands of the FY524 block: one constructor for each row of spec/opcode_table.json, in the table's
order, with the row's operands. Unit numbers are bounded by the unit counts of R27, R184 and R303.
-/
namespace Sys2Proof

/-- The three ports of Toreb packets (R381, R386, R388). -/
inductive Port | host | service | partner
  deriving DecidableEq, Repr

/-- What a request's header carries beside its opcode and length (R377, R378). -/
structure Hdr where
  tag : BitVec 10
  flags : BitVec 6
  deriving DecidableEq, Repr

/-- How an expansion or an area check ends: what a fault of the unit adds to its sum, 0 for a unit that works (DESIGN CHOICE, log 12), and
whether a LOAF_ABORT of the tile's loaf takes effect in the same epoch (R112). -/
structure UnitEnd where
  err : Int
  aborted : Bool
  deriving DecidableEq, Repr

/-- A physical lane of an output group (R342). -/
structure PhysLane where
  group : Fin 4
  phys : Fin 9
  deriving DecidableEq, Repr

/-- The result of a flash operation (R527). -/
inductive FlashEnd | ok | error
  deriving DecidableEq, Repr

/-- A PTP Sync with its delay measurement as they arrive (R270 to R272): the port, the domain, the transport and the master's identity;
the Sync's ingress stamp in quarter ns before the trim; the master's origin and receive times in ns, and the correctionFields of Sync
(with its Follow_Up) and Delay_Resp in units of 2^-16 ns. -/
structure SyncMsg where
  port : Fin 2
  domain : BitVec 8
  udp : Bool
  identity : BitVec 64
  ingress : Nat
  origin : Nat
  correction : Int
  received : Nat
  respCorrection : Int
  deriving DecidableEq, Repr

/-- A character that a back-channel receives (R362): a data byte, a control character Kx.y, or one that the code tables or the running disparity
do not allow. -/
inductive BcChar
  | d (b : Byte)
  | k (x y : Nat)
  | bad
  deriving DecidableEq, Repr

/-- What the camera port shows at an edge of CAM_PCLK (R418): a falling or a rising one, CAM_FVAL, CAM_LVAL and CAM_D. -/
structure CamEdge where
  falling : Bool
  fval : Bool
  lval : Bool
  d : BitVec 14
  deriving DecidableEq, Repr

/-- The fields of an Announce message by which masters are compared (R271). -/
structure AnnounceMsg where
  domain : BitVec 8
  udp : Bool
  prio1 : BitVec 8
  clockClass : BitVec 8
  accuracy : BitVec 8
  variance : BitVec 16
  prio2 : BitVec 8
  identity : BitVec 64
  steps : BitVec 16
  deriving DecidableEq, Repr

/-- A frame on a timing port as the transparent clock treats it (R269). -/
structure EthFrame where
  fcsOk : Bool
  /-- Sync or Delay_Req of PTP. -/
  event : Bool
  udp : Bool
  /-- correctionField in units of 2^-16 ns. -/
  correction : Int
  /-- The UDP checksum, of a frame over UDP. -/
  checksum : BitVec 16
  bytes : List Byte
  deriving DecidableEq, Repr

/-- The commands. An operand `hw` or `takenOut` names what the hardware sets in the same handshake epoch (R14, R129, R416); a row of
the test access port names the instruction selected. -/
inductive Instr
  | nop (p : Port) (h : Hdr) (w : List Word)
  | regRead (p : Port) (h : Hdr) (w : List Word)
  | regWrite (p : Port) (h : Hdr) (w : List Word)
  | regModify (p : Port) (h : Hdr) (w : List Word)
  | jobOpen (p : Port) (h : Hdr) (w : List Word)
  | jobClose (p : Port) (h : Hdr) (w : List Word)
  | loafLoad (p : Port) (h : Hdr) (w : List Word)
  | loafArm (p : Port) (h : Hdr) (w : List Word)
  | loafStart (p : Port) (h : Hdr) (w : List Word)
  | loafStop (p : Port) (h : Hdr) (w : List Word)
  | loafAbort (p : Port) (h : Hdr) (w : List Word)
  | journalRead (p : Port) (h : Hdr) (w : List Word)
  | lockAcquire (p : Port) (h : Hdr) (w : List Word)
  | lockRelease (p : Port) (h : Hdr) (w : List Word)
  | leaseRenew (p : Port) (h : Hdr) (w : List Word)
  | move (p : Port) (h : Hdr) (w : List Word)
  | home (p : Port) (h : Hdr) (w : List Word)
  | stopAxis (p : Port) (h : Hdr) (w : List Word)
  | calCaptureDark (p : Port) (h : Hdr) (w : List Word)
  | calCaptureFlat (p : Port) (h : Hdr) (w : List Word)
  | calCaptureBeams (p : Port) (h : Hdr) (w : List Word)
  | calCaptureRxOff (p : Port) (h : Hdr) (w : List Word)
  | calCaptureOsc (p : Port) (h : Hdr) (w : List Word)
  | calApply (p : Port) (h : Hdr) (w : List Word)
  | nvmStore (p : Port) (h : Hdr) (w : List Word) (sense : Nat)
  | nvmStoreCompact (p : Port) (h : Hdr) (w : List Word) (sense : Nat)
  | nvmLoad (p : Port) (h : Hdr) (w : List Word)
  | linkTrain (p : Port) (h : Hdr) (w : List Word)
  | linkLoopback (p : Port) (h : Hdr) (w : List Word)
  | memRetrain (p : Port) (h : Hdr) (w : List Word)
  | join (h : Hdr) (w : List Word)
  | partnerJoin (h : Hdr) (w : List Word)
  | beat (p : Port) (h : Hdr) (w : List Word)
  | traj (p : Port) (h : Hdr) (w : List Word)
  | mark (p : Port) (h : Hdr) (w : List Word)
  | tile (p : Port) (h : Hdr) (w : List Word)
  | slice (p : Port) (h : Hdr) (w : List Word)
  | jnl (p : Port) (h : Hdr) (w : List Word)
  | leave (p : Port) (h : Hdr) (w : List Word)
  | handover (p : Port) (h : Hdr) (w : List Word)
  | pairTakeover (p : Port) (h : Hdr) (w : List Word)
  | eventRead (p : Port) (h : Hdr) (w : List Word)
  | resetSoft (p : Port) (h : Hdr) (w : List Word)
  | nonAlignedWrite (addr : BitVec 19) (len : Nat)
  | outOfBlockWrite (addr : BitVec 19) (v : Word)
  | malformedRead (addr : BitVec 19) (len : Nat)
  | registerWrite (p : Port) (addr : BitVec 19) (v : Word)
  | w1cFlagClear (p : Port) (addr : BitVec 19) (v hw : Word)
  | counterClear (p : Port) (addr : BitVec 19) (v hw : Word)
  | recordClear (p : Port) (addr : BitVec 19) (v : Word)
  | tbTimeLoRead (p : Port)
  | camFstat0Read (p : Port)
  | tbIncWrite (p : Port) (v : Word)
  | tbStep (p : Port) (v : Word)
  | ringEnable (p : Port) (v : Word)
  | ringDisable (p : Port) (v : Word)
  | cmdCqHeadWrite (p : Port) (v : Word)
  | cmdGrantWrite (p : Port) (v : Word)
  | clusterReturn (p : Port) (hi : Bool) (v takenOut : Word)
  | faultCauseClear (p : Port) (axis : Fin 4) (v : Word)
  | offlineRequest (p : Port) (cluster : Fin 64) (v : Word)
  | go (p : Port) (v : Word)
  | release (p : Port) (v : Word)
  | calTrimDataWrite (p : Port) (v : Word)
  | read (p : Port)
  | program (p : Port)
  | erase (p : Port)
  | flashOperationDone (r : FlashEnd) (sense : Nat)
  | bistGo (p : Port) (v : Word)
  | bistEnd (banks : BitVec 4) (clusters : BitVec 64)
  | hostRequestTake (ring : List Byte)
  | ringAccessFault
  | hostLinkReset (d3 : Bool := false)
  | serviceFrame (bytes : List Byte)
  | serviceByteGap
  | lineBreak
  | partnerReply (h : Hdr) (opcode : BitVec 8) (w : List Word)
  | leaseExpire (cal : Bool)
  | doughSegmentLoad (data : List Byte)
  | tileDispatch
  | kneaderTake (c : Fin 64)
  | expansionDone (k : Fin 1024) (r : UnitEnd)
  | areaCheckDone (c : Fin 64) (r : UnitEnd)
  | clusterOfflineBoundary (c : Fin 64)
  | compressionStart (c : Fin 64) (inOrder : Bool)
  | proofPageRequest (c : Fin 64) (inBytes : Fin 99073)
  | compressorResume
  | tileComplete (ks : List (Fin 1024))
  | waitWatchdogExpire
  | rateMeasure (c : Fin 64)
  | windowFillRow (filler : Fin 16) (next : Bool)
  | segmentRebuild (filler : Fin 16)
  | transactionAccept (pc : Fin 64) (port : Fin 7) (addr : BitVec 30) (bursts : Nat) (deadline : Nat) (write : Bool)
  | selfRefreshExitDone (failed : BitVec 64)
  | busSlotStart (pc : Fin 64)
  | refreshDue (pc : Fin 64)
  | refreshDone (pc : Fin 64)
  | transactionComplete (pc : Fin 64)
  | errorSeverityReport (pc : Fin 64) (uncorrectable : Bool)
  | parityError (pc : Fin 64)
  | stackTemperatureReadout (stack : Fin 2) (t : BitVec 9)
  | retrainingStart
  | retrainingDone (ok : Bool)
  | selfRefreshEntry
  | sliceBuild
  | laneSliceStart (lane : Fin 32)
  | notReady (lane : Fin 32)
  | sliceLaunch
  | positionWord (axis : Fin 4) (encoder : Bool) (frame : BitVec 40) (arrival : Nat)
  | crossingTimeout
  | posLost (axis : Fin 4)
  | timeWordDue (lane : PhysLane)
  | laneIdDue (lane : PhysLane)
  | setpointFrameSend
  | plannerStep
  | slowHoldExpire
  | sync (m : SyncMsg)
  | announce (port : Fin 2) (m : AnnounceMsg)
  | delayReqSend
  | holdover
  | transparentClockForward (port : Fin 2) (f : EthFrame) (ingress egress : Nat)
  | limitEdge (axis : Fin 4) (pos : Bool) (asserted : Bool)
  | limitDebounce (axis : Fin 4) (pos : Bool)
  | moveSettled
  | stopEnd
  | resumeApproachDone
  | homingTimeout
  | status (g : Fin 4) (chars : List BcChar)
  | discard (g : Fin 4) (chars : List BcChar)
  | laneFault (g : Fin 4) (chars : List BcChar)
  | token (g : Fin 4) (chars : List BcChar)
  | backChannelSilent (g : Fin 4)
  | clkFirstDecide
  | clkReportTimeout
  | trainingPhaseEnd (g : Fin 5) (failed : BitVec 9)
  | trainingPhaseTimeout (g : Fin 5) (late : BitVec 9)
  | linkLoopbackEnd
  | laneDriverSetOn
  | pairLink (mask : BitVec 4) (clk : Bool)
  | pairLinkDown
  | beatSend
  | tokenLeaseExpire
  | peerOwnNChange (asserted : Bool)
  | tokenGapExpire
  | takeoverReplyTimeout
  | standbyTakeTimeout
  | tokenFrameTimeout
  | loafStartHoldTimeout
  | joinTimeout
  | handoverTimeout
  | resetN
  | power
  | wdogReset
  | boot (vout : Option (BitVec 8)) (ack : Bool) (hbmFailed : BitVec 64)
  | journalMarkDone
  | clusterEnableStep
  | interlockN
  | interlockDeassert
  | pwrFail
  | journalDump
  | journalDumpEnd
  | coreUv (raw : Nat)
  | bankSensorReading (bank : Fin 4) (raw : Int)
  | avsPeriod (rates : List Nat) (ack : Bool)
  | pmbusStatusPoll (status : Option (BitVec 16))
  | idleOff
  | frameStart
  | frameEnd (edges : List CamEdge)
  | frameWatchdog
  | camTrigFall
  | noFrameTimeout
  | extest
  | samplePreload
  | idcode
  | jtagClamp
  | highz
  | extestPulse
  | extestTrain
  | bypass
  | testLogicReset
  | hostMemoryReadFault (data : List Byte) (timeout : Bool)
  | rxOffMeasurementDone
  | coreUvClear (raw : Nat)
  | pairLaneBlockLockLoss (lane : Fin 4)
  | timingPortBlockLock (port : Fin 2) (up : Bool)
  | takeoverLFirstReached
  deriving DecidableEq, Repr

end Sys2Proof
end

