-- ==== Sys2Proof/Machine/Bits.lean ====
section
/-!
DEFINITION. Helpers over bits, bytes and lists that the meanings share: fields of a word (R6), two's complement
(R8), the word packing of R48, the CRC-32C of R56, exact rounding (R23), and the association list in one canonical
form in which sparse stores are held.
-/
namespace Sys2Proof.Machine

/-- Bits `hi` down to `lo` of a number (R6). -/
def bitsOf (n hi lo : Nat) : Nat := n / 2 ^ lo % 2 ^ (hi + 1 - lo)

/-- Bits `hi` down to `lo` of a word (R6). -/
def wbits (w : Word) (hi lo : Nat) : Nat := bitsOf w.toNat hi lo

/-- The word with bits `hi` down to `lo` replaced by `v`. -/
def setBits (w : Word) (hi lo v : Nat) : Word :=
  let n := w.toNat
  BitVec.ofNat 36 (n - bitsOf n hi lo * 2 ^ lo + v % 2 ^ (hi + 1 - lo) * 2 ^ lo)

/-- The signed value of an `n`-bit field (R8). -/
def sext (n v : Nat) : Int := if v % 2 ^ n < 2 ^ (n - 1) then (v % 2 ^ n : Nat) else (v % 2 ^ n : Nat) - (2 ^ n : Nat)

/-- The `n`-bit two's complement code of an integer (R8). -/
def twos (n : Nat) (i : Int) : Nat := (i % (2 ^ n : Nat)).toNat

/-- A number held within an unsigned range (R23 clamp at the top). -/
def satU (n v : Nat) : Nat := min v (2 ^ n - 1)

/-- A signed number held within an `n`-bit range (R23). -/
def satS (n : Nat) (v : Int) : Int := max (-(2 ^ (n - 1) : Nat)) (min v ((2 ^ (n - 1) : Nat) - 1))

/-- `clamp` of R23. -/
def clampI (x lo hi : Int) : Int := if x < lo then lo else if hi < x then hi else x

/-- `round_half_up` of a quotient (R23): floor(n / d + 1/2). -/
def roundHalfUp (n : Int) (d : Nat) : Int := (2 * n + d).fdiv (2 * d)

/-- `round_half_up` of a rational (R23). -/
def ratRound (q : Rat) : Int := (q + 1 / 2).floor

/-- Rounding up of a quotient. -/
def ceilDiv (n d : Nat) : Nat := (n + d - 1) / d

/-- Rounding up of a rational. -/
def ratCeil (q : Rat) : Int := -((-q).floor)

/-- The two words of a 9-byte group (R48). -/
def unpackGroup (b : List Byte) : List Word :=
  let v := b.foldr (fun x acc => x.toNat + 256 * acc) 0
  [BitVec.ofNat 36 (v % 2 ^ 36), BitVec.ofNat 36 (v / 2 ^ 36)]

/-- The whole words of a byte sequence (R48); bytes after the last whole group are not words. -/
def unpackWords : Nat → List Byte → List Word
  | 0, _ => []
  | fuel + 1, b => if b.length < 9 then [] else unpackGroup (b.take 9) ++ unpackWords fuel (b.drop 9)

/-- The words of a byte sequence. -/
def wordsOf (b : List Byte) : List Word := unpackWords b.length b

/-- Bytes of a number, least significant first. -/
def leBytes : Nat → Nat → List Byte
  | 0, _ => []
  | n + 1, v => BitVec.ofNat 8 v :: leBytes n (v / 256)

/-- The number of a byte list, least significant first. -/
def leNat (b : List Byte) : Nat := b.foldr (fun x acc => x.toNat + 256 * acc) 0

/-- The 9-byte group of two words (R48). -/
def packGroup (e o : Word) : List Byte := leBytes 9 (e.toNat + 2 ^ 36 * o.toNat)

/-- The groups of a word sequence (R48); an odd last word stands beside a zero word (R381). -/
def packWords : List Word → List Byte
  | [] => []
  | [e] => packGroup e 0
  | e :: o :: r => packGroup e o ++ packWords r

/-- One byte through the CRC-32C (R56), reflected polynomial 0x82F6_3B78. -/
def crcByte (c : BitVec 32) (b : Byte) : BitVec 32 :=
  (List.range 8).foldl (fun x _ => if x.getLsbD 0 then (x >>> 1) ^^^ 0x82F63B78#32 else x >>> 1) (c ^^^ b.setWidth 32)

/-- The CRC-32C of a byte sequence (R56). -/
def crc32c (b : List Byte) : BitVec 32 := b.foldl crcByte 0xFFFFFFFF#32 ^^^ 0xFFFFFFFF#32

/-- Bits of a byte sequence, least significant bit of each byte first (RFC 1951, R154). -/
def bitsOfBytes (b : List Byte) : List Bool := b.flatMap fun x => (List.range 8).map x.getLsbD

/-- The number of a bit list, first bit least significant. -/
def natOfBits (l : List Bool) : Nat := l.foldr (fun b n => (if b then 1 else 0) + 2 * n) 0

/-- `n` bits of a number, least significant first. -/
def bitsLsb (n v : Nat) : List Bool := (List.range n).map v.testBit

/-- `n` bits of a number, most significant first. -/
def bitsMsb (n v : Nat) : List Bool := (bitsLsb n v).reverse

/-- Bytes of a bit list, padded with zero bits to the next byte boundary. -/
def bytesOfBits : Nat → List Bool → List Byte
  | 0, _ => []
  | fuel + 1, l => if l.isEmpty then [] else BitVec.ofNat 8 (natOfBits (l.take 8)) :: bytesOfBits fuel (l.drop 8)

/-- The largest `n ≤ fuel` reached by counting up while `p` holds. -/
def countWhile (p : Nat → Bool) : Nat → Nat → Nat
  | 0, n => n
  | fuel + 1, n => if p n then countWhile p fuel (n + 1) else n

/-- Remove the elements that stand twice, keeping the first. -/
def dedup {α : Type} [DecidableEq α] (l : List α) : List α := l.foldl (fun acc x => if acc.contains x then acc else acc ++ [x]) []

/-- Replace the first element that satisfies `p`. -/
def updateFirst {α : Type} (p : α → Bool) (f : α → α) : List α → List α
  | [] => []
  | x :: r => if p x then f x :: r else x :: updateFirst p f r

/-- Remove the first element that satisfies `p`. -/
def removeFirst {α : Type} (p : α → Bool) : List α → List α
  | [] => []
  | x :: r => if p x then r else x :: removeFirst p r

/-- The element of a list at an index, or a default. -/
def nth {α : Type} (d : α) (l : List α) (i : Nat) : α := (l[i]?).getD d

/-- The list with its element at an index replaced; unchanged where the index is outside the list. -/
def setNth {α : Type} (l : List α) (i : Nat) (v : α) : List α := l.set i v

/-- The least element under a strict order, the first among equals. -/
def leastBy {α : Type} (lt : α → α → Bool) : List α → Option α
  | [] => none
  | x :: r => some (r.foldl (fun best y => if lt y best then y else best) x)

/-! Association lists in canonical form: keys strictly rising, no entry equal to what an unlisted key reads as. -/

/-- The value at a key; an unlisted key reads as `d` gives. -/
def amGet {α : Type} (d : Nat → α) : List (Nat × α) → Nat → α
  | [], k => d k
  | (k', v) :: r, k => if k' = k then v else amGet d r k

/-- Insert an entry at its place. -/
def amInsert {α : Type} (k : Nat) (v : α) : List (Nat × α) → List (Nat × α)
  | [] => [(k, v)]
  | (k', v') :: r => if k < k' then (k, v) :: (k', v') :: r else if k = k' then (k, v) :: r else (k', v') :: amInsert k v r

/-- Remove the entries of a key. -/
def amErase {α : Type} (k : Nat) (m : List (Nat × α)) : List (Nat × α) := m.filter fun e => e.1 != k

/-- Write a value at a key, keeping the canonical form. -/
def amPut {α : Type} [DecidableEq α] (d : Nat → α) (m : List (Nat × α)) (k : Nat) (v : α) : List (Nat × α) :=
  if v = d k then amErase k m else amInsert k v m

/-- The canonical form. -/
def amWf {α : Type} [DecidableEq α] (d : Nat → α) : List (Nat × α) → Bool
  | [] => true
  | (k, v) :: r => decide (v ≠ d k) && (r.all fun e => decide (k < e.1)) && amWf d r

/-- Write successive values from a key on. -/
def amPutList {α : Type} [DecidableEq α] (d : Nat → α) (m : List (Nat × α)) (k : Nat) : List α → List (Nat × α)
  | [] => m
  | v :: r => amPutList d (amPut d m k v) (k + 1) r

/-- Read successive values from a key on. -/
def amGetList {α : Type} (d : Nat → α) (m : List (Nat × α)) (k n : Nat) : List α := (List.range n).map fun i => amGet d m (k + i)

end Sys2Proof.Machine
end

