-- ==== Sys2Proof/Machine/Inflate.lean ====
section
/-!
DEFINITION. The DEFLATE decoder of the dough loader and the window fillers (R45, R171; RFC 1951): stored,
fixed-Huffman and dynamic-Huffman blocks in any mix, distances up to 32,768, lengths 3 to 258.
-/
namespace Sys2Proof.Machine

/-- Why a stream stops. -/
inductive InfErr
  | bad
  | short
  deriving DecidableEq, Repr

/-- A decoder's outcome: the bytes produced, in order, the bits consumed, and the fault if there was one. -/
structure InfRes where
  out : List Byte
  used : Nat
  err : Option InfErr
  deriving DecidableEq, Repr

/-- The decoder's state: bits still to read, number consumed, output and history newest first, and bytes produced. -/
structure Inf where
  bits : List Bool
  used : Nat
  out : List Byte
  n : Nat
  deriving DecidableEq, Repr

/-- Take `k` bits as a number, first bit least significant. -/
def Inf.take (s : Inf) (k : Nat) : Except InfErr (Nat × Inf) :=
  if s.bits.length < k then .error .short
  else .ok (natOfBits (s.bits.take k), { s with bits := s.bits.drop k, used := s.used + k })

/-- One entry of a Huffman code: length, code, symbol. -/
abbrev Huff := List (Nat × Nat × Nat)

/-- Codes of one length, in ascending symbol order, starting at `code`. -/
def huffLen (len : Nat) : Nat → List (Nat × Nat) → Huff
  | _, [] => []
  | code, (sym, l) :: r => if l = len then (len, code, sym) :: huffLen len (code + 1) r else huffLen len code r

/-- The canonical code of a list of code lengths (RFC 1951, 3.2.2). -/
def huffGo (syms : List (Nat × Nat)) : Nat → Nat → Nat → Huff
  | 0, _, _ => []
  | fuel + 1, len, code =>
    let here := huffLen len code syms
    here ++ huffGo syms fuel (len + 1) ((code + here.length) * 2)

/-- The canonical code of a list of code lengths. -/
def huffOf (lens : List Nat) : Huff := huffGo ((List.range lens.length).zip lens) 15 1 0

/-- More codes than the lengths leave room for. -/
def overSubscribed (lens : List Nat) : Bool := decide (2 ^ 15 < (lens.map fun l => if l = 0 then 0 else 2 ^ (15 - l)).sum)

/-- Decode one symbol; a code that stands for nothing is undecodable (R80 DEFLATE_BAD). -/
def Inf.sym (h : Huff) : Nat → Nat → Nat → Inf → Except InfErr (Nat × Inf)
  | 0, _, _, _ => .error .bad
  | fuel + 1, len, code, s => do
    let (b, s) ← s.take 1
    let code := code * 2 + b
    match h.find? (fun e => e.1 == len + 1 && e.2.1 == code) with
    | some e => .ok (e.2.2, s)
    | none => Inf.sym h fuel (len + 1) code s

/-- Decode one symbol of a code. -/
def Inf.symOf (h : Huff) (s : Inf) : Except InfErr (Nat × Inf) := s.sym h 15 0 0

/-- Length codes 257 to 285: base and extra bits (RFC 1951, 3.2.5). -/
def lenTable : List (Nat × Nat) :=
  [(3, 0), (4, 0), (5, 0), (6, 0), (7, 0), (8, 0), (9, 0), (10, 0), (11, 1), (13, 1), (15, 1), (17, 1), (19, 2), (23, 2), (27, 2),
   (31, 2), (35, 3), (43, 3), (51, 3), (59, 3), (67, 4), (83, 4), (99, 4), (115, 4), (131, 5), (163, 5), (195, 5), (227, 5), (258, 0)]

/-- Distance codes 0 to 29: base and extra bits (RFC 1951, 3.2.5). -/
def distTable : List (Nat × Nat) :=
  [(1, 0), (2, 0), (3, 0), (4, 0), (5, 1), (7, 1), (9, 2), (13, 2), (17, 3), (25, 3), (33, 4), (49, 4), (65, 5), (97, 5), (129, 6),
   (193, 6), (257, 7), (385, 7), (513, 8), (769, 8), (1025, 9), (1537, 9), (2049, 10), (3073, 10), (4097, 11), (6145, 11),
   (8193, 12), (12289, 12), (16385, 13), (24577, 13)]

/-- Copy `k` bytes from `d` bytes back (R45); a distance beyond the output and history fails. -/
def Inf.copy : Nat → Nat → Inf → Except InfErr Inf
  | 0, _, s => .ok s
  | k + 1, d, s =>
    match s.out[d - 1]? with
    | none => .error .bad
    | some b => Inf.copy k d { s with out := b :: s.out, n := s.n + 1 }

/-- Decoder progress with the state reached when a fault stopped it, so that output before a fault is counted (R84). -/
abbrev InfStep := Inf × Option InfErr

/-- What a symbol of the literal and length code stands for (RFC 1951, 3.2.5). -/
inductive SymKind | literal | endOfBlock | length
  deriving DecidableEq, Repr

/-- The kind of a symbol. -/
def symKind (c : Nat) : SymKind := if c < 256 then .literal else if c = 256 then .endOfBlock else .length

/-- Read the extra bits of a table's entry and give the value they make with its base. -/
def Inf.extra (e : Option (Nat × Nat)) (s : Inf) : Except InfErr (Nat × Inf) :=
  match e with
  | none => .error .bad
  | some (base, bits) => (s.take bits).map fun x => (base + x.1, x.2)

/-- A length and distance pair whose length symbol has been read (RFC 1951, 3.2.5). -/
def Inf.backRef (dist : Huff) (c : Nat) (s : Inf) : Except InfErr Inf := do
  let (len, s2) ← s.extra lenTable[c - 257]?
  let (dc, s3) ← s2.symOf dist
  let (d, s4) ← s3.extra distTable[dc]?
  s4.copy len d

/-- Decode one symbol of a compressed block: the state in which the block goes on, or how it ends. -/
def Inf.symbol (lit dist : Huff) (s : Inf) : Sum Inf InfStep :=
  match s.symOf lit with
  | .error e => .inr (s, some e)
  | .ok (c, s1) => match symKind c with
    | .literal => .inl { s1 with out := BitVec.ofNat 8 c :: s1.out, n := s1.n + 1 }
    | .endOfBlock => .inr (s1, none)
    | .length => match s1.backRef dist c with
      | .error e => .inr (s, some e)
      | .ok s5 => .inl s5

/-- Decode the symbols of a compressed block. -/
def Inf.block (lit dist : Huff) : Nat → Inf → InfStep
  | 0, s => (s, some .bad)
  | fuel + 1, s => match s.symbol lit dist with
    | .inl t => Inf.block lit dist fuel t
    | .inr r => r

/-- The fixed code of literals and lengths (RFC 1951, 3.2.6). -/
def fixedLit : Huff := huffOf (List.replicate 144 8 ++ List.replicate 112 9 ++ List.replicate 24 7 ++ List.replicate 8 8)

/-- The fixed code of distances. -/
def fixedDist : Huff := huffOf (List.replicate 32 5)

/-- Order in which the code lengths of the code length code stand. -/
def clOrder : List Nat := [16, 17, 18, 0, 8, 7, 9, 6, 10, 5, 11, 4, 12, 3, 13, 2, 14, 1, 15]

/-- Read the code lengths of the code length code. -/
def Inf.clLens : List Nat → List Nat → Inf → Except InfErr (List Nat × Inf)
  | [], acc, s => .ok (acc, s)
  | i :: r, acc, s => do
    let (l, s) ← s.take 3
    Inf.clLens r (setNth acc i l) s

/-- Read `want` code lengths (RFC 1951, 3.2.7). -/
def Inf.lens (h : Huff) (want : Nat) : Nat → List Nat → Inf → Except InfErr (List Nat × Inf)
  | 0, _, _ => .error .bad
  | fuel + 1, acc, s =>
    if want < acc.length then .error .bad
    else if acc.length = want then .ok (acc, s)
    else do
      let (c, s) ← s.symOf h
      if c < 16 then Inf.lens h want fuel (acc ++ [c]) s
      else if c = 16 then
        match acc.getLast? with
        | none => .error .bad
        | some p => do
          let (x, s) ← s.take 2
          Inf.lens h want fuel (acc ++ List.replicate (3 + x) p) s
      else if c = 17 then do
        let (x, s) ← s.take 3
        Inf.lens h want fuel (acc ++ List.replicate (3 + x) 0) s
      else do
        let (x, s) ← s.take 7
        Inf.lens h want fuel (acc ++ List.replicate (11 + x) 0) s

/-- The two codes of a dynamic block. A code with more codes than its lengths leave room for is undecodable. -/
def Inf.dynamic (s : Inf) : Except InfErr ((Huff × Huff) × Inf) := do
  let (hlit, s) ← s.take 5
  let (hdist, s) ← s.take 5
  let (hclen, s) ← s.take 4
  let (cl, s) ← Inf.clLens (clOrder.take (hclen + 4)) (List.replicate 19 0) s
  if overSubscribed cl then .error .bad
  else do
    let want := hlit + 257 + (hdist + 1)
    let (ls, s) ← Inf.lens (huffOf cl) want (want + 1) [] s
    let ll := ls.take (hlit + 257)
    let dl := ls.drop (hlit + 257)
    if overSubscribed ll || overSubscribed dl then .error .bad
    else .ok ((huffOf ll, huffOf dl), s)

/-- Copy `k` bytes of a stored block. -/
def Inf.stored : Nat → Inf → InfStep
  | 0, s => (s, none)
  | k + 1, s =>
    match s.take 8 with
    | .error e => (s, some e)
    | .ok (b, s1) => Inf.stored k { s1 with out := BitVec.ofNat 8 b :: s1.out, n := s1.n + 1 }

/-- Decode blocks until the final one ends. -/
def Inf.blocks : Nat → Inf → InfStep
  | 0, s => (s, some .bad)
  | fuel + 1, s =>
    match s.take 1 with
    | .error e => (s, some e)
    | .ok (fin, s1) =>
      match s1.take 2 with
      | .error e => (s, some e)
      | .ok (ty, s2) =>
        let r : InfStep :=
          if ty = 0 then
            let pad := (8 - s2.used % 8) % 8
            let hd : Except InfErr (Nat × Inf) := do
              let (_, s3) ← s2.take pad
              let (len, s4) ← s3.take 16
              let (nlen, s5) ← s4.take 16
              if len + nlen = 65535 then .ok (len, s5) else .error .bad
            match hd with
            | .error e => (s2, some e)
            | .ok (len, s5) => Inf.stored len s5
          else if ty = 1 then Inf.block fixedLit fixedDist (s2.bits.length + 1) s2
          else if ty = 2 then
            match s2.dynamic with
            | .error e => (s2, some e)
            | .ok ((l, d), s3) => Inf.block l d (s3.bits.length + 1) s3
          else (s2, some .bad)
        match r with
        | (s3, some e) => (s3, some e)
        | (s3, none) => if fin = 1 then (s3, none) else Inf.blocks fuel s3

/-- Decompress one raw DEFLATE stream from the start of `data`, with `hist` (oldest first) as its history. -/
def inflate (hist data : List Byte) : InfRes :=
  let b := bitsOfBytes data
  let r := Inf.blocks (b.length + 1) { bits := b, used := 0, out := hist.reverse, n := 0 }
  { out := (r.1.out.take r.1.n).reverse, used := r.1.used, err := r.2 }

end Sys2Proof.Machine
end

