-- ==== Sys2Proof/Machine/Deflate.lean ====
section
/-!
DEFINITION. The compressor of a cluster (R154 to R158): spans, tokens by the nearest candidates of the chain depth,
fixed-Huffman or stored blocks, and the proof container (R152, R153).
-/
namespace Sys2Proof.Machine

/-- A token of a span (R156). -/
inductive Token
  | lit (b : Byte)
  | copy (len dist : Nat)
  deriving DecidableEq, Repr

/-- Chain depth of a level (R157). -/
def chainDepth (level : Nat) : Nat := if level = 0 then 0 else 2 ^ (level - 1)

/-- How many leading bytes of two sequences agree, up to a limit. -/
def agreeing : Nat → List Byte → List Byte → Nat
  | n + 1, a :: r, b :: t => if a = b then agreeing n r t + 1 else 0
  | _, _, _ => 0

/-- The length of the match at distance `d`, 258 at most; the copy may overlap its own output (R156). `past` is everything before, newest
first. -/
def matchAt (past rest : List Byte) (d : Nat) : Nat := agreeing 258 ((past.take d).reverse ++ rest) rest

/-- The nearest `nd` distances, from `d` on and 32,768 at most, at which the three bytes `x`, `y` and `z` stand (R156); `s1` and `s2` are
the two bytes that follow the byte at distance `d`. -/
def walkBack (x y z : Byte) : Nat → Nat → Byte → Byte → List Byte → List Nat
  | _, _, _, _, [] => []
  | nd, d, s1, s2, s0 :: r =>
    if nd = 0 ∨ 32768 < d then []
    else if s0 = x ∧ s1 = y ∧ s2 = z then d :: walkBack x y z (nd - 1) (d + 1) s0 s1 r
    else walkBack x y z nd (d + 1) s0 s1 r

/-- The longest of the nearest `nd` candidates, the nearest among equals (R156): length and distance. -/
def bestMatch (nd : Nat) (past rest : List Byte) : Nat × Nat :=
  match rest with
  | x :: y :: z :: _ =>
    (walkBack x y z nd 1 x y past).foldl (fun best d =>
      let m := matchAt past rest d
      if best.1 < m then (m, d) else best) (0, 0)
  | _ => (0, 0)

/-- The tokens of one span (R156). `past` is everything before, newest first; `rest` what is left of the span. -/
def tokens (nd : Nat) : Nat → List Byte → List Byte → List Token
  | 0, _, _ => []
  | fuel + 1, past, rest =>
    match rest with
    | [] => []
    | b :: r =>
      let best := bestMatch nd past rest
      if 3 ≤ best.1 then
        .copy best.1 best.2 :: tokens nd fuel ((rest.take best.1).reverse ++ past) (rest.drop best.1)
      else .lit b :: tokens nd fuel (b :: past) r

/-- The index of the last table row whose base does not exceed `v`. -/
def tableIndex (t : List (Nat × Nat)) (v : Nat) : Nat := (t.filter fun e => decide (e.1 ≤ v)).length - 1

/-- Length code of a length; 258 is code 285 (RFC 1951). -/
def lenIndex (len : Nat) : Nat := if len = 258 then 28 else tableIndex (lenTable.take 28) len

/-- The fixed-Huffman bits of a literal or length symbol. -/
def fixedLitBits (sym : Nat) : List Bool :=
  if sym < 144 then bitsMsb 8 (0x30 + sym)
  else if sym < 256 then bitsMsb 9 (0x190 + (sym - 144))
  else if sym < 280 then bitsMsb 7 (sym - 256)
  else bitsMsb 8 (0xC0 + (sym - 280))

/-- The fixed-Huffman bits of a token. -/
def tokenBits : Token → List Bool
  | .lit b => fixedLitBits b.toNat
  | .copy len dist =>
    let li := lenIndex len
    let lr := nth (0, 0) lenTable li
    let di := tableIndex distTable dist
    let dr := nth (0, 0) distTable di
    fixedLitBits (257 + li) ++ bitsLsb lr.2 (len - lr.1) ++ bitsMsb 5 di ++ bitsLsb dr.2 (dist - dr.1)

/-- A fixed-Huffman block of a span's tokens (R155). -/
def fixedBlock (final : Bool) (ts : List Token) : List Bool :=
  final :: true :: false :: (ts.flatMap tokenBits ++ fixedLitBits 256)

/-- A stored block that starts at a bit position (R155). -/
def storedBlock (final : Bool) (pos : Nat) (b : List Byte) : List Bool :=
  final :: false :: false :: (List.replicate ((8 - (pos + 3) % 8) % 8) false ++ bitsLsb 16 b.length ++ bitsLsb 16 (65535 - b.length) ++
    bitsOfBytes b)

/-- One span's block and whether it is stored (R156, R158). -/
def spanBlock (level : Nat) (final : Bool) (pos : Nat) (past span : List Byte) : List Bool × Bool :=
  let st := storedBlock final pos span
  if level = 0 then (st, true)
  else
    let fx := fixedBlock final (tokens (chainDepth level) (span.length + 1) past span)
    if fx.length ≤ st.length then (fx, false) else (st, true)

/-- The compressed data of a byte form at a level with a history (R154): its bytes and the STORED_MAP. -/
def compressBytes (level : Nat) (hist form : List Byte) : List Byte × Nat :=
  let sp0 := form.take 65535
  let sp1 := form.drop 65535
  let b0 := spanBlock level false 0 hist.reverse sp0
  let b1 := spanBlock level true b0.1.length (sp0.reverse ++ hist.reverse) sp1
  let all := b0.1 ++ b1.1
  (bytesOfBits (all.length + 1) all, (if b0.2 then 1 else 0) + (if b1.2 then 2 else 0))

/-- The fields of a proof container (R152). -/
structure Container where
  magic : Nat
  level : Nat
  stream : Bool
  hist : Bool
  col : Nat
  origLen : Nat
  row : Nat
  ord : Nat
  storedMap : Nat
  compLen : Nat
  crc : BitVec 32
  deriving DecidableEq, Repr

/-- The container's four words (R152). -/
def Container.words (c : Container) : List Word :=
  [ BitVec.ofNat 36 (c.magic * 2 ^ 28 + c.level * 2 ^ 24 + (if c.stream then 2 ^ 23 else 0) + (if c.hist then 2 ^ 22 else 0) +
      c.col * 2 ^ 17 + c.origLen),
    BitVec.ofNat 36 (c.row * 2 ^ 20 + c.ord * 2 ^ 4),
    BitVec.ofNat 36 (c.storedMap * 2 ^ 34 + c.compLen),
    BitVec.ofNat 36 c.crc.toNat ]

/-- The container's byte form: 18 bytes of words and 14 zero bytes (R153). -/
def Container.bytes (c : Container) : List Byte := packWords c.words ++ List.replicate 14 0

/-- The container that four words spell (R152). -/
def Container.ofWords (w : List Word) : Container :=
  let w0 := nth 0 w 0
  let w1 := nth 0 w 1
  let w2 := nth 0 w 2
  let w3 := nth 0 w 3
  { magic := wbits w0 35 28, level := wbits w0 27 24, stream := wbits w0 23 23 == 1, hist := wbits w0 22 22 == 1,
    col := wbits w0 21 17, origLen := wbits w0 16 0, row := wbits w1 35 20, ord := wbits w1 19 4,
    storedMap := wbits w2 35 34, compLen := wbits w2 16 0, crc := BitVec.ofNat 32 (wbits w3 31 0) }

end Sys2Proof.Machine
end

