-- ==== Sys2Proof/Config.lean ====
section
/-!
DEFINITION. The values the spec leaves open: uninterpreted constants without a body, so that no proof can rest on a
number for them (log entries 4, 13 and 14 and the entries that name them).
-/
namespace Sys2Proof.Config

/-- A free value, applied to the counter `State.fresh` that the step reads and advances (DESIGN CHOICE, log 4). -/
opaque freeNat : Nat → Nat

/-- Which of the two neighbouring integers a rounding takes when the enclosure of an area bounded by curves has not
excluded the tie at the model's finest refinement (DESIGN CHOICE, log 13); applied to the enclosure's bounds. -/
opaque freeRound : Rat → Rat → Nat

end Sys2Proof.Config
end

