-- ==== Sys2Proof/Machine/Geometry.lean ====
section
/-!
DEFINITION. Figures, bias and exact coverage (R67 to R74, R87 to R92, R99 to R102). Coordinates are integers in
1/64 px, tile-relative (R63). An area in (1/64 px)^2 is 4,096 times the area in px^2, so that the class sum of R89 and
the checker sum of R100 are roundings of areas in these units.
-/
namespace Sys2Proof.Machine

/-- A point on the 1/64-px grid (R64). -/
structure Pt where
  x : Int
  y : Int
  deriving DecidableEq, Repr

/-- A vertex of an outline; `off` for an off-curve point (R69). -/
structure Vtx where
  p : Pt
  off : Bool
  deriving DecidableEq, Repr

/-- What a figure covers: a closed outline, or a circle (R68). -/
inductive Shape
  | outline (vs : List Vtx)
  | disk (c : Pt) (r : Int)
  deriving DecidableEq, Repr

/-- A figure of a tile's list (R67). -/
structure Fig where
  cls : Nat
  bias : Int
  shape : Shape
  deriving DecidableEq, Repr

/-- A segment of an outline (R69). -/
inductive Seg
  | line (a b : Pt)
  | bez (a c b : Pt)
  deriving DecidableEq, Repr

/-- `cross` of R71. -/
def cross (p q : Pt) : Int := p.x * q.y - q.x * p.y

/-- Vector from one point to another. -/
def Pt.sub (a b : Pt) : Pt := ⟨a.x - b.x, a.y - b.y⟩

/-- Inner product. -/
def dot (p q : Pt) : Int := p.x * q.x + p.y * q.y

/-- The segments from an on-curve point through a vertex list; the list ends with the first vertex again. -/
def segsFrom : Pt → List Vtx → List Seg
  | _, [] => []
  | a, v :: r =>
    if v.off then
      match r with
      | [] => []
      | w :: r' => .bez a v.p w.p :: segsFrom w.p r'
    else .line a v.p :: segsFrom v.p r

/-- The segments of a closed outline, in order (R68, R69). -/
def segsOf (vs : List Vtx) : List Seg :=
  match vs with
  | [] => []
  | v :: r => segsFrom v.p (r ++ [v])

/-- Six times the signed area (R71). -/
def a6 (vs : List Vtx) : Int :=
  ((segsOf vs).map fun s =>
    match s with
    | .line a b => 3 * cross a b
    | .bez a c b => 2 * cross a c + 2 * cross c b + cross a b).sum

/-- Each vertex with its cyclic neighbours. -/
def withNeighbours (vs : List Vtx) : List (Vtx × Vtx × Vtx) :=
  match vs with
  | [] => []
  | v :: r =>
    let prev := (v :: r).getLast (by simp) :: (v :: r)
    (prev.zip ((v :: r).zip (r ++ [v])))

/-! Signs of sums of square roots, decided exactly in integers. -/

/-- Sign of `a * sqrt p + b * sqrt q`. -/
def sgn2 (a : Int) (p : Nat) (b : Int) (q : Nat) : Int :=
  let s := if p = 0 then 0 else a.sign
  let t := if q = 0 then 0 else b.sign
  if s = 0 then t else if t = 0 then s else if s = t then s
  else if a * a * p > b * b * q then s else if a * a * p < b * b * q then t else 0

/-- Sign of `a * sqrt p + b * sqrt q + c`. -/
def sgn3 (a : Int) (p : Nat) (b : Int) (q : Nat) (c : Int) : Int :=
  let s := sgn2 a p b q
  let t := c.sign
  if s = 0 then t else if t = 0 then s else if s = t then s
  else
    let u := sgn2 (2 * a * b) (p * q) (a * a * p + b * b * q - c * c) 1
    if 0 < u then s else if u < 0 then t else 0

/-! Bias (R72, R73). -/

/-- The mitre displacement in one coordinate, rounded (R72): greatest `k` with `k - 1/2` at or below
`b * (n1 + n2) / (1 + c)`. `m1`, `m2` are that coordinate of the right-hand normals before normalisation. -/
def mitre (b : Int) (d1 d2 : Pt) (m1 m2 : Int) : Int :=
  let l1 := dot d1 d1
  let l2 := dot d2 d2
  let dd := dot d1 d2
  let xx := cross d1 d2 * cross d1 d2
  let ok : Int → Bool := fun k =>
    if xx = 0 then decide (0 ≤ sgn3 (2 * b * m1) l1.toNat 0 0 (l1 - 2 * k * l1))
    else decide (0 ≤ sgn3 (2 * b * (l2 * m1 - dd * m2)) l1.toNat (2 * b * (l1 * m2 - dd * m1)) l2.toNat (xx - 2 * k * xx))
  (countWhile (fun n => ok (n - 300)) 601 0 : Nat) - 301

/-- The biased vertex (R72). -/
def biasVertex (b : Int) (t : Vtx × Vtx × Vtx) : Vtx :=
  let d1 := t.2.1.p.sub t.1.p
  let d2 := t.2.2.p.sub t.2.1.p
  { p := ⟨t.2.1.p.x + mitre b d1 d2 d1.y d2.y, t.2.1.p.y + mitre b d1 d2 (-d1.x) (-d2.x)⟩, off := t.2.1.off }

/-- The displacement limit of R73: not c = -1, and `|b| * sqrt (2 / (1 + c))` at most 4 px. -/
def biasVertexOk (b : Int) (t : Vtx × Vtx × Vtx) : Bool :=
  let d1 := t.2.1.p.sub t.1.p
  let d2 := t.2.2.p.sub t.2.1.p
  let l := (dot d1 d1 * dot d2 d2).toNat
  let dd := dot d1 d2
  -- c = -1 exactly when the legs are opposite; 2 b^2 <= 65536 (1 + c) with c = dd / sqrt l
  !(cross d1 d2 == 0 && decide (dd < 0)) && decide (sgn2 (2 * b * b - 65536) l (-(65536 * dd)) 1 ≤ 0)

/-- The shape that is rasterised (R72, R74); `none` for a figure that covers nothing. -/
def biased (f : Fig) : Option Shape :=
  match f.shape with
  | .disk c r => if 0 < r + f.bias then some (.disk c (r + f.bias)) else none
  | .outline vs =>
    let vs' := if f.bias = 0 then vs else (withNeighbours vs).map (biasVertex f.bias)
    if 0 < a6 vs' then some (.outline vs') else none

/-! Exact areas. -/

/-- A point with rational coordinates. -/
abbrev RPt := Rat × Rat

/-- A directed straight edge. -/
abbrev REdge := RPt × RPt

/-- A grid point as a rational point. -/
def Pt.rat (p : Pt) : RPt := (p.x, p.y)

/-- A piece of an outline: its chord, a point that with the chord's ends spans a triangle holding the piece, and the
bound on the area between chord and piece. -/
structure Piece where
  edge : REdge
  ctl : RPt
  eps : Rat
  deriving DecidableEq, Repr

/-- The `2^k` pieces of a segment. -/
def segPieces (k : Nat) : Seg → List Piece
  | .line a b => [⟨(a.rat, b.rat), a.rat, 0⟩]
  | .bez a c b =>
    let n : Nat := 2 ^ k
    let cr : Int := cross (c.sub a) (b.sub a)
    let bl : Rat → Rat → RPt := fun t u =>
      let wa := (1 - t) * (1 - u)
      let wc := (1 - t) * u + (1 - u) * t
      let wb := t * u
      (wa * a.x + wc * c.x + wb * b.x, wa * a.y + wc * c.y + wb * b.y)
    (List.range n).map fun i =>
      let t : Rat := (i : Rat) / n
      let u : Rat := (i + 1 : Rat) / n
      ⟨(bl t t, bl u u), bl t u, (cr.natAbs : Rat) / 3 / (n * n * n)⟩

/-- The `4 * 2^k` pieces of a circle, counter-clockwise. -/
def circlePieces (k : Nat) (c : Pt) (r : Int) : List Piece :=
  let n : Nat := 2 ^ k
  let pt : Rat → RPt := fun t => ((1 - t * t) / (1 + t * t), 2 * t / (1 + t * t))
  let quarter : List Piece := (List.range n).map fun i =>
    let t : Rat := (i : Rat) / n
    let u : Rat := (i + 1 : Rat) / n
    let tau := (u - t) / (1 + t * u)
    -- the tangents at both ends meet at this point of the unit circle's outside
    ⟨(pt t, pt u), ((1 - t * u) / (1 + t * u), (t + u) / (1 + t * u)), tau * tau * tau / (1 + tau * tau)⟩
  let rot : RPt → RPt := fun p => (-p.2, p.1)
  let turn : List Piece → List Piece := fun l => l.map fun p => ⟨(rot p.edge.1, rot p.edge.2), rot p.ctl, p.eps⟩
  let put : RPt → RPt := fun p => (c.x + r * p.1, c.y + r * p.2)
  let q1 := turn quarter
  let q2 := turn q1
  (quarter ++ q1 ++ q2 ++ turn q2).map fun p => ⟨(put p.edge.1, put p.edge.2), put p.ctl, p.eps * r * r⟩

/-- The pieces of a shape at refinement `k`. -/
def pieces (k : Nat) : Shape → List Piece
  | .outline vs => (segsOf vs).flatMap (segPieces k)
  | .disk c r => circlePieces k c r

/-- Has a shape straight edges alone? -/
def Shape.straight : Shape → Bool
  | .outline vs => vs.all fun v => !v.off
  | .disk _ _ => false

/-- Can a piece enter a box? -/
def Piece.near (x0 x1 y0 y1 : Rat) (p : Piece) : Bool :=
  let lo : Rat → Rat → Rat → Rat := fun a b c => min a (min b c)
  let hi : Rat → Rat → Rat → Rat := fun a b c => max a (max b c)
  decide (lo p.edge.1.1 p.edge.2.1 p.ctl.1 < x1 ∧ x0 < hi p.edge.1.1 p.edge.2.1 p.ctl.1 ∧
    lo p.edge.1.2 p.edge.2.2 p.ctl.2 < y1 ∧ y0 < hi p.edge.1.2 p.edge.2.2 p.ctl.2)

/-- The bound on the area, inside a box, where chords and outline differ. -/
def slack (x0 x1 y0 y1 : Rat) (ps : List Piece) : Rat := ((ps.filter (Piece.near x0 x1 y0 y1)).map (·.eps)).sum

/-- X of an edge at a height. -/
def edgeX (e : REdge) (y : Rat) : Rat := e.1.1 + (e.2.1 - e.1.1) * (y - e.1.2) / (e.2.2 - e.1.2)

/-- Height at which an edge meets a vertical line, if it does. -/
def edgeYAt (e : REdge) (x : Rat) : List Rat :=
  if e.1.1 = e.2.1 then [] else [e.1.2 + (e.2.2 - e.1.2) * (x - e.1.1) / (e.2.1 - e.1.1)]

/-- Do the bounding boxes of two edges overlap? -/
def boxesMeet (e f : REdge) : Bool :=
  decide (min e.1.1 e.2.1 ≤ max f.1.1 f.2.1 ∧ min f.1.1 f.2.1 ≤ max e.1.1 e.2.1 ∧
    min e.1.2 e.2.2 ≤ max f.1.2 f.2.2 ∧ min f.1.2 f.2.2 ≤ max e.1.2 e.2.2)

/-- Height at which the lines of two edges meet, if they do. -/
def meetY (e f : REdge) : List Rat :=
  let dx := e.2.1 - e.1.1
  let dy := e.2.2 - e.1.2
  let fx := f.2.1 - f.1.1
  let fy := f.2.2 - f.1.2
  let det := dx * fy - dy * fx
  if det = 0 then [] else [e.1.2 + dy * (((f.1.1 - e.1.1) * fy - (f.1.2 - e.1.2) * fx) / det)]

/-- Insertion into a strictly rising list of rationals. -/
def insRat (x : Rat) : List Rat → List Rat
  | [] => [x]
  | y :: r => if x < y then x :: y :: r else if x = y then y :: r else y :: insRat x r

/-- Insertion by position, for edges of a slab. -/
def insEdge (x : Rat × Int) : List (Rat × Int) → List (Rat × Int)
  | [] => [x]
  | y :: r => if x.1 < y.1 then x :: y :: r else y :: insEdge x r

/-- Width between `x0` and `x1` where the winding meets a test, walking the crossings from left to right. -/
def windWidth (p : Int → Bool) (x0 x1 : Rat) : Int → Rat → List (Rat × Int) → Rat
  | w, px, [] => if p w then x1 - max x0 (min x1 px) else 0
  | w, px, (x, d) :: r =>
    let c : Rat → Rat := fun v => max x0 (min x1 v)
    (if p w then c x - c px else 0) + windWidth p x0 x1 (w + d) x r

/-- Area inside a box of the points whose winding meets a test that 0 does not meet, exact for straight edges. -/
def windBox (p : Int → Bool) (es : List REdge) (x0 x1 y0 y1 : Rat) : Rat :=
  -- edges wholly right of the box bound nothing in it, and only edges that meet each other can change places
  let es := es.filter fun e => decide (min e.1.1 e.2.1 < x1 ∧ min e.1.2 e.2.2 < y1 ∧ y0 < max e.1.2 e.2.2)
  let cand := es.flatMap fun e => e.1.2 :: e.2.2 :: (edgeYAt e x0 ++ edgeYAt e x1 ++ (es.filter (boxesMeet e)).flatMap (meetY e))
  let ys := (y0 :: y1 :: cand.filter fun y => decide (y0 < y ∧ y < y1)).foldl (fun acc y => insRat y acc) []
  ((ys.zip ys.tail).map fun ab =>
    let m := (ab.1 + ab.2) / 2
    let cr := es.foldl (fun acc e =>
      if (e.1.2 < m ∧ m < e.2.2) then insEdge (edgeX e m, -1) acc
      else if (e.2.2 < m ∧ m < e.1.2) then insEdge (edgeX e m, 1) acc
      else acc) []
    windWidth p x0 x1 0 0 cr * (ab.2 - ab.1)).sum

/-- Area inside a box of the points with winding other than 0 (R87, R88), exact for straight edges. -/
def coverBox (es : List REdge) (x0 x1 y0 y1 : Rat) : Rat := windBox (fun w => w != 0) es x0 x1 y0 y1

/-- Integral of the clamped abscissa along an edge, within heights 0 to `w` (R100, Green's theorem). -/
def edgeIntegral (w : Rat) (e : REdge) : Rat :=
  let lo := max 0 (min w (min e.1.2 e.2.2))
  let hi := max 0 (min w (max e.1.2 e.2.2))
  if hi ≤ lo then 0
  else
    let ys := (lo :: hi :: (edgeYAt e 0 ++ edgeYAt e w).filter fun y => decide (lo < y ∧ y < hi)).foldl (fun acc y => insRat y acc) []
    let v := ((ys.zip ys.tail).map fun ab => max 0 (min w (edgeX e ((ab.1 + ab.2) / 2))) * (ab.2 - ab.1)).sum
    if e.1.2 < e.2.2 then v else -v

/-- Integral of the winding number over the tile's square (R100), exact for straight edges. -/
def windingIntegral (es : List REdge) : Rat := (es.map (edgeIntegral 16384)).sum

/-! Which pixels an outline enters (R102), decided exactly. -/

/-- The number `(a + s * sqrt d) / c`, with `c` positive. -/
structure Surd where
  a : Int
  s : Int
  d : Nat
  c : Int
  deriving DecidableEq, Repr

/-- Strict order of two such numbers. -/
def Surd.lt (u v : Surd) : Bool := decide (sgn3 (v.c * u.s) u.d (-(u.c * v.s)) v.d (v.c * u.a - u.c * v.a) < 0)

/-- An open interval of a curve parameter; `none` is unbounded. -/
abbrev Ival := Option Surd × Option Surd

/-- Parameters at which `a t^2 + b t + c` is positive. -/
def posSet (a b c : Int) : List Ival :=
  if a = 0 then
    if b = 0 then (if 0 < c then [(none, none)] else [])
    else if 0 < b then [(some ⟨-c, 0, 0, b⟩, none)] else [(none, some ⟨c, 0, 0, -b⟩)]
  else
    let disc := b * b - 4 * a * c
    if disc < 0 then (if 0 < a then [(none, none)] else [])
    else if 0 < a then [(none, some ⟨-b, -1, disc.toNat, 2 * a⟩), (some ⟨-b, 1, disc.toNat, 2 * a⟩, none)]
    else [(some ⟨b, -1, disc.toNat, -(2 * a)⟩, some ⟨b, 1, disc.toNat, -(2 * a)⟩)]

/-- The larger of two lower bounds. -/
def maxLo : Option Surd → Option Surd → Option Surd
  | none, v => v
  | u, none => u
  | some u, some v => if u.lt v then some v else some u

/-- The smaller of two upper bounds. -/
def minHi : Option Surd → Option Surd → Option Surd
  | none, v => v
  | u, none => u
  | some u, some v => if u.lt v then some u else some v

/-- Intersection of two sets of parameters. -/
def meetIvals (u v : List Ival) : List Ival := u.flatMap fun a => v.map fun b => (maxLo a.1 b.1, minHi a.2 b.2)

/-- Does an open interval meet the closed interval from 0 to 1? -/
def ivalMeets (i : Ival) : Bool :=
  let ltO : Option Surd → Option Surd → Bool := fun l h =>
    match l, h with
    | some a, some b => a.lt b
    | _, _ => true
  ltO i.1 i.2 && ltO i.1 (some ⟨1, 0, 0, 1⟩) && ltO (some ⟨0, 0, 0, 1⟩) i.2

/-- Coefficients of a segment's coordinate: `a t^2 + b t + c`. -/
def segCoef (f : Pt → Int) : Seg → Int × Int × Int
  | .line p q => (0, f q - f p, f p)
  | .bez p c q => (f p - 2 * f c + f q, 2 * (f c - f p), f p)

/-- Do the points of a segment, whose hull it lies in, reach into a box? -/
def segNear (x0 x1 y0 y1 : Int) : Seg → Bool
  | .line a b => decide (min a.x b.x < x1 ∧ x0 < max a.x b.x ∧ min a.y b.y < y1 ∧ y0 < max a.y b.y)
  | .bez a c b => decide (min a.x (min b.x c.x) < x1 ∧ x0 < max a.x (max b.x c.x) ∧
      min a.y (min b.y c.y) < y1 ∧ y0 < max a.y (max b.y c.y))

/-- Does a segment meet the open interior of a box? -/
def segMeets (x0 x1 y0 y1 : Int) (s : Seg) : Bool :=
  if segNear x0 x1 y0 y1 s then
    let cx := segCoef (·.x) s
    let cy := segCoef (·.y) s
    let above : Int × Int × Int → Int → List Ival := fun c v => posSet c.1 c.2.1 (c.2.2 - v)
    let below : Int × Int × Int → Int → List Ival := fun c v => posSet (-c.1) (-c.2.1) (v - c.2.2)
    (meetIvals (meetIvals (above cx x0) (below cx x1)) (meetIvals (above cy y0) (below cy y1))).any ivalMeets
  else false

/-- Square of the distance of a circle's centre from the farthest corner of a square box. -/
def farSquare (x0 y0 w : Int) (c : Pt) : Int :=
  let far : Int → Int := fun v => max (v + w) (-v)
  far (x0 - c.x) * far (x0 - c.x) + far (y0 - c.y) * far (y0 - c.y)

/-- Square of the distance of a circle's centre from a square box. -/
def nearSquare (x0 y0 w : Int) (c : Pt) : Int :=
  let near : Int → Int := fun v => max 0 (max v (-(v + w)))
  near (x0 - c.x) * near (x0 - c.x) + near (y0 - c.y) * near (y0 - c.y)

/-- Does the outline of a shape meet the open interior of a square box? -/
def boxMeets (x0 y0 w : Int) : Shape → Bool
  | .outline vs => (segsOf vs).any (segMeets x0 (x0 + w) y0 (y0 + w))
  | .disk c r => decide (nearSquare x0 y0 w c < r * r ∧ r * r < farSquare x0 y0 w c)

/-- Does the outline of a shape meet the open interior of pixel (x, y)? -/
def shapeMeets (x y : Nat) (s : Shape) : Bool := boxMeets (64 * x) (64 * y) 64 s

/-! Exact sums (R91): an area bounded by straight legs and Bézier segments is a rational plus rational multiples of square roots, and one
that a circle's arc bounds is no rational number, so that ties can be decided. -/

/-- A sum of rational multiples of square roots: radicand and factor. -/
abbrev RootSum := List (Nat × Rat)

/-- Take the square factors out of a radicand: the root of the part taken out, and what is left. -/
def sqSplit : Nat → Nat → Nat → Nat → Nat × Nat
  | 0, _, k, d => (k, d)
  | fuel + 1, p, k, d =>
    if d < p * p then (k, d)
    else if d % (p * p) = 0 then sqSplit fuel p (k * p) (d / (p * p))
    else sqSplit fuel (p + 1) k d

/-- A term with a radicand that no square divides; 0 for the root of 0. -/
def rootTerm (x : Nat × Rat) : Nat × Rat :=
  if x.1 = 0 then (1, 0)
  else
    let (k, m) := sqSplit (2 ^ (x.1.log2 / 2 + 2) + x.1.log2) 2 1 x.1
    (m, x.2 * k)

/-- The rational number that a sum of roots is, if it is one: roots of different radicands that no square divides are independent. -/
def RootSum.rational (l : RootSum) : Option Rat :=
  let l := l.map rootTerm
  let part (m : Nat) : Rat := ((l.filter (·.1 == m)).map (·.2)).sum
  if l.all fun x => x.1 == 1 || part x.1 == 0 then some (part 1) else none

/-- A polynomial by its coefficients, the constant first. -/
abbrev Poly := List Rat

/-- Product of two polynomials. -/
def polyMul : Poly → Poly → Poly
  | [], _ => []
  | a :: r, q =>
    let s : Poly := 0 :: polyMul r q
    let f : Poly := q.map (a * ·)
    (List.range (max s.length f.length)).map fun i => nth 0 s i + nth 0 f i

/-- The integral of a polynomial from 0. -/
def polyInt (p : Poly) : Poly := 0 :: (p.zipIdx.map fun x => x.1 / (x.2 + 1 : Nat))

/-- A polynomial at `t + u·√d`, as rational part and factor of the root. -/
def polyAt (d : Nat) (t u : Rat) : Poly → Rat × Rat
  | [] => (0, 0)
  | a :: r => let v := polyAt d t u r; (a + v.1 * t + v.2 * u * d, v.1 * u + v.2 * t)

/-- A polynomial at a surd. -/
def Surd.poly (p : Poly) (x : Surd) : RootSum :=
  let v := polyAt x.d ((x.a : Rat) / x.c) ((x.s : Rat) / x.c) p
  [(1, v.1), (x.d, v.2)]

/-- The increase of a polynomial over the intervals that are not empty. -/
def polyOver (p : Poly) (l : List Ival) : RootSum :=
  l.flatMap fun i => match i with
    | (some a, some b) => if a.lt b then b.poly p ++ (a.poly p).map fun x => (x.1, -x.2) else []
    | _ => []

/-- The integral along a segment, where it runs between the heights of a box, of the abscissa held to the box and counted from its left side:
the segment's share of the integral of the winding over the box (Green's theorem). -/
def segGreen (x0 x1 y0 y1 : Int) (s : Seg) : RootSum :=
  let cx := segCoef (·.x) s
  let cy := segCoef (·.y) s
  let above : Int × Int × Int → Int → List Ival := fun c v => posSet c.1 c.2.1 (c.2.2 - v)
  let below : Int × Int × Int → Int → List Ival := fun c v => posSet (-c.1) (-c.2.1) (v - c.2.2)
  let rows := meetIvals (meetIvals (above cy y0) (below cy y1)) [(some ⟨0, 0, 0, 1⟩, some ⟨1, 0, 0, 1⟩)]
  let beyond := if cx.1 = 0 ∧ cx.2.1 = 0 ∧ cx.2.2 = x1 then [(none, none)] else above cx x1
  let inner : Poly := polyInt (polyMul [((cx.2.2 - x0 : Int) : Rat), (cx.2.1 : Rat), (cx.1 : Rat)] [(cy.2.1 : Rat), ((2 * cy.1 : Int) : Rat)])
  let outer : Poly := [(cy.2.2 : Rat), (cy.2.1 : Rat), (cy.1 : Rat)].map (((x1 - x0 : Int) : Rat) * ·)
  polyOver inner (meetIvals (meetIvals rows (above cx x0)) (below cx x1)) ++ polyOver outer (meetIvals rows beyond)

/-- The integral of the winding number of an outline over a square box (R100), exactly. -/
def greenBox (x0 y0 w : Int) (vs : List Vtx) : RootSum := (segsOf vs).flatMap (segGreen x0 (x0 + w) y0 (y0 + w))

/-- Which side of a directed line a point lies on. -/
def sideOf (a b q : RPt) : Rat := (b.1 - a.1) * (q.2 - a.2) - (b.2 - a.2) * (q.1 - a.1)

/-- The corners of the triangle that holds a piece. -/
def Piece.corners (p : Piece) : List RPt := [p.edge.1, p.edge.2, p.ctl]

/-- Do the triangles of two pieces lie on the two sides of a side of one of them? -/
def Piece.apart (p q : Piece) : Bool :=
  let splits (e : REdge) : Bool := e.1 != e.2 &&
    ((p.corners.all (fun v => decide (0 ≤ sideOf e.1 e.2 v)) && q.corners.all (fun v => decide (sideOf e.1 e.2 v ≤ 0))) ||
     (p.corners.all (fun v => decide (sideOf e.1 e.2 v ≤ 0)) && q.corners.all (fun v => decide (0 ≤ sideOf e.1 e.2 v))))
  let sides (t : Piece) : List REdge := [t.edge, (t.edge.2, t.ctl), (t.ctl, t.edge.1)]
  (sides p ++ sides q).any splits

/-- Are the triangles of all pieces apart from each other? -/
def allApart : List Piece → Bool
  | [] => true
  | p :: r => r.all p.apart && allApart r

/-- At a refinement, do the pieces in a box keep apart and wind round each point of it at most once, so that coverage is the integral of the
winding? -/
def simpleAt (x0 x1 y0 y1 : Rat) (s : Shape) (n : Nat) : Bool :=
  let c := pieces n s
  allApart (c.filter (Piece.near x0 x1 y0 y1)) && windBox (fun w => w != 0 && w != 1) (c.map (·.edge)) x0 x1 y0 y1 == 0

/-- Refinements at which an outline is tried for being simple in a box. -/
def simpleTries : List Nat := List.range 8

/-- The area of a shape in a square box, where it is a sum of roots that the model can give exactly: straight edges alone; a circle whose arc
does not enter the box; an outline that winds round no point of the box more than once. -/
def exactArea (s : Shape) (x0 y0 w : Int) : Option RootSum :=
  let c := pieces 0 s
  let (a0, a1, b0, b1) : Rat × Rat × Rat × Rat := ((x0 : Rat), ((x0 + w : Int) : Rat), (y0 : Rat), ((y0 + w : Int) : Rat))
  if s.straight then some [(1, coverBox (c.map (·.edge)) a0 a1 b0 b1)]
  else match s with
    | .disk p r => if boxMeets x0 y0 w s then none else some [(1, if farSquare x0 y0 w p ≤ r * r then (w * w : Int) else 0)]
    | .outline vs => if simpleTries.any (simpleAt a0 a1 b0 b1 s) then some (greenBox x0 y0 w vs) else none

/-- The sum of exact values, where there are any for all. -/
def rootTotal : List (Option RootSum) → Option RootSum
  | [] => some []
  | none :: _ => none
  | some a :: r => (rootTotal r).map (a ++ ·)

/-- Round half up an area that is no tie, known as an enclosure for each refinement: refine until both bounds round alike; at the finest
refinement a free choice between the two neighbours remains (R91, DESIGN CHOICE, log 13). -/
def resolve (enc : Nat → Rat × Rat) : Nat → Nat → Int
  | 0, k =>
    let b := enc k
    let lo := ratRound b.1
    let hi := ratRound b.2
    if lo = hi then lo else lo + (Config.freeRound b.1 b.2 % ((hi - lo).toNat + 1) : Nat)
  | fuel + 1, k =>
    let b := enc k
    if ratRound b.1 = ratRound b.2 then ratRound b.1 else resolve enc fuel (k + 1)

/-- Refinements tried before a rounding is left free (DESIGN CHOICE, log 13). -/
def maxRefine : Nat := 256

/-- The figures of a class, as the shapes that are rasterised. -/
def classShapes (figs : List Fig) (k : Nat) : List Shape := (figs.filter (·.cls == k)).filterMap biased

/-- The classes that a list of figures names. -/
def classesOf (figs : List Fig) : List Nat := dedup (figs.map (·.cls))

/-- A shape that is rasterised, beside its pieces at refinement 0. -/
abbrev Ready := Shape × List Piece

/-- Prepare a shape. -/
def readyOf (s : Shape) : Ready := (s, pieces 0 s)

/-- Enclosure of the area of a shape in a box, at a refinement: a shape none of whose pieces can reach the box, or a part of the
band on its left, covers nothing of it. -/
def boxArea (n : Nat) (r : Ready) (x0 x1 y0 y1 : Rat) : Rat × Rat :=
  let reach := r.2.filter fun p => decide (min p.edge.1.2 (min p.edge.2.2 p.ctl.2) < y1 ∧ y0 < max p.edge.1.2 (max p.edge.2.2 p.ctl.2) ∧
    min p.edge.1.1 (min p.edge.2.1 p.ctl.1) < x1)
  if reach.isEmpty then (0, 0)
  else
    let c := if n = 0 then r.2 else pieces n r.1
    let a := coverBox (c.map (·.edge)) x0 x1 y0 y1
    let e := slack x0 x1 y0 y1 c
    (max 0 (a - e), min 4096 (a + e))

/-- q of R89 to R92 for pixel (x, y) and the shapes of one class. -/
def pixelCover (sh : List Ready) (x y : Nat) : Nat :=
  let x0 : Rat := ((64 * x : Nat) : Rat)
  let y0 : Rat := ((64 * y : Nat) : Rat)
  let enc : Nat → Rat × Rat := fun n =>
    let b := sh.foldl (fun acc s => let a := boxArea n s x0 (x0 + 64) y0 (y0 + 64); (acc.1 + a.1, acc.2 + a.2)) (0, 0)
    (min 4096 b.1, min 4096 b.2)
  match (rootTotal (sh.map fun s => exactArea s.1 (64 * x) (64 * y) 64)).bind RootSum.rational with
  | some q => min 4096 (ratRound q).toNat
  | none => min 4096 (resolve enc maxRefine 0).toNat

/-- q(p, k) of pixel (x, y) and class k. -/
def classCover (figs : List Fig) (k x y : Nat) : Nat := pixelCover ((classShapes figs k).map readyOf) x y

/-- The integral of a shape's winding over the tile's square, where it is a sum of roots (R100). -/
def exactWinding : Shape → Option RootSum
  | .outline vs => some (greenBox 0 0 16384 vs)
  | .disk p r =>
    if boxMeets 0 0 16384 (.disk p r) then none else some [(1, if farSquare 0 0 16384 p ≤ r * r then 16384 * 16384 else 0)]

/-- The checker sum A (R100). -/
def checkerSum (figs : List Fig) : Int :=
  let sh := figs.filterMap biased
  match (rootTotal (sh.map exactWinding)).bind RootSum.rational with
  | some q => ratRound q
  | none =>
    resolve (fun n => sh.foldl (fun acc s =>
      let c := pieces n s
      let a := windingIntegral (c.map (·.edge))
      let e := slack 0 16384 0 16384 c
      (acc.1 + a - e, acc.2 + a + e)) (0, 0)) maxRefine 0

/-- Pixels of the tile in order. -/
def tilePixels : List (Nat × Nat) := (List.range 256).flatMap fun y => (List.range 256).map fun x => (x, y)

/-- The partial count P (R102). -/
def partialCount (figs : List Fig) : Nat :=
  ((classesOf figs).map fun k =>
    let sh := classShapes figs k
    if sh.isEmpty then 0 else tilePixels.countP fun p => sh.any (shapeMeets p.1 p.2)).sum

/-- Edge-pixel crossings of a tile (R115 CROSSINGS). -/
def crossings (figs : List Fig) : Nat := ((figs.filterMap biased).map fun s => tilePixels.countP fun p => shapeMeets p.1 p.2 s).sum

/-- The classes of a tile that cover something, each with q of every pixel, row by row. -/
def tileCovers (figs : List Fig) : List (Nat × List Nat) :=
  ((classesOf figs).map fun k => (k, (classShapes figs k).map readyOf)).filterMap fun ks =>
    if ks.2.isEmpty then none else some (ks.1, tilePixels.map fun p => pixelCover ks.2 p.1 p.2)

/-- The kneader sum K (R101). -/
def kneaderSum (covers : List (Nat × List Nat)) : Nat := (covers.map fun c => c.2.sum).sum

/-! Target dose (R93, R94). -/

/-- mnum of tile-local pixel (x, y) in tile column `col` (R93). -/
def mapNum (node : List Nat) (col x y : Nat) : Nat :=
  let lx := 256 * col + x
  let i := lx / 128
  let fx := 2 * (lx % 128) + 1
  let j := y / 128
  let fy := 2 * (y % 128) + 1
  let n := nth 0 node
  (256 - fx) * (256 - fy) * n (65 * j + i) + fx * (256 - fy) * n (65 * j + i + 1) +
    (256 - fx) * fy * n (65 * (j + 1) + i) + fx * fy * n (65 * (j + 1) + i + 1)

/-- d of R94 before it is held at 4,095, from the sum over the classes of q times the class factor. -/
def doseRaw (mnum qsum : Nat) : Nat := (qsum * mnum + 2 ^ 38) / 2 ^ 39

/-- For every pixel, the sum over the classes of q times the class factor (R94). -/
def weighted (factor : List Nat) (covers : List (Nat × List Nat)) : List Nat :=
  covers.foldl (fun acc c => let f := nth 0 factor c.1; List.zipWith (fun a q => a + q * f) acc c.2) (tilePixels.map fun _ => 0)

/-- d of every pixel of a tile, row by row. -/
def tileDoses (factor node : List Nat) (col : Nat) (covers : List (Nat × List Nat)) : List Nat :=
  List.zipWith (fun p q => if q = 0 then 0 else doseRaw (mapNum node col p.1 p.2) q) tilePixels (weighted factor covers)

/-- The dose words of one pixel row (R97). -/
def rowWords (row : List Nat) : List Word :=
  (List.range 86).map fun w =>
    let d : Nat → Nat := fun i => nth 0 row (3 * w + i)
    BitVec.ofNat 36 (d 0 + 2 ^ 12 * d 1 + 2 ^ 24 * d 2)

/-- The 22,016 dose words of a tile (R97), from its doses held at 4,095. -/
def doseWordsOf (doses : List Nat) : List Word := (List.range 256).flatMap fun y => rowWords ((doses.drop (256 * y)).take 256)

/-- The dose of pixel (x, y) in a tile's dose words (R97). -/
def doseAt (ws : List Word) (x y : Nat) : Nat := let w := nth 0 ws (86 * y + x / 3); wbits w (12 * (x % 3) + 11) (12 * (x % 3))

end Sys2Proof.Machine
end

