-- ==== Sys2Proof/Machine/Dough.lean ====
section
/-!
DEFINITION. The dough stream (R44 to R74, R80, R530, R531): records, figures, and the checks of a loaf header segment
and of a tile-row segment. A check answers the first error in stream order with the word at which it stands.
-/
namespace Sys2Proof.Machine

/-- Error codes of R80. -/
inductive DErr
  | deflateBad | trunc | lenMod9 | segSize | recType | recLen | recSeq | rowOrder | crc | words | hdr
  | figGeom | figOrient | figCurve | figBias
  deriving DecidableEq, Repr

/-- The code of an error (R80). -/
def DErr.code : DErr → Nat
  | .deflateBad => 0x01 | .trunc => 0x02 | .lenMod9 => 0x03 | .segSize => 0x04 | .recType => 0x05 | .recLen => 0x06
  | .recSeq => 0x07 | .rowOrder => 0x08 | .crc => 0x09 | .words => 0x0A | .hdr => 0x0B
  | .figGeom => 0x10 | .figOrient => 0x11 | .figCurve => 0x12 | .figBias => 0x13

/-- What a loaf header segment gives (R58, R59). -/
structure LoafHdr where
  dir : Bool
  id : Nat
  rows : Nat
  ox : Word
  oy : Word
  factors : List Nat
  deriving DecidableEq, Repr

/-- What one TILE record and its list give; `bad` is the first failing figure's error and word. -/
structure TileRec where
  words : Nat
  figs : List Fig
  bad : Option (DErr × Nat)
  deriving DecidableEq, Repr

/-- What a tile-row segment gives (R61, R62, R65). -/
structure RowRec where
  row : Nat
  cost : Nat
  nodes : List Nat
  tiles : List TileRec
  deriving DecidableEq, Repr

/-- The words of a segment as far as the decoder brought them, whether more would have followed, and the bytes. -/
structure Stream where
  ws : List Word
  bytes : List Byte
  /-- The fault with which the stream ends (R49, R80), `none` for a whole stream. -/
  fault : Option DErr
  deriving DecidableEq, Repr

/-- An error and its word. -/
abbrev DFail := DErr × Nat

/-- The complete words of a byte sequence (R48): those of the whole groups, and the even word of a last group whose first five bytes,
which hold it, have come. -/
def wordsSoFar (b : List Byte) : List Word :=
  let r := b.drop (b.length - b.length % 9)
  wordsOf b ++ if r.length < 5 then [] else [BitVec.ofNat 36 (leNat (r.take 5))]

/-- The largest decompressed length of a segment (R49). -/
def segMax : Nat := 16777215

/-- The stream of a decoder's outcome (R49). Bytes past the largest length are no words of the segment: it fails where they begin. -/
def streamOf (r : InfRes) : Stream :=
  if r.out.length ≤ segMax then
    { ws := wordsSoFar r.out, bytes := r.out,
      fault := match r.err with
        | some .bad => some .deflateBad
        | some .short => some .trunc
        | none => if r.out.length % 9 = 0 then none else some .lenMod9 }
  else { ws := wordsSoFar (r.out.take segMax), bytes := r.out.take segMax, fault := some .segSize }

/-- The word at a position: past the end it is the stream's own fault, or `e` where the stream is whole. -/
def Stream.at (s : Stream) (i : Nat) (e : DFail) : Except DFail Word :=
  match s.ws[i]? with
  | some w => .ok w
  | none => match s.fault with
    | some f => .error (f, s.ws.length)
    | none => .error e

/-- Record header fields (R50). -/
def recType (w : Word) : Nat := wbits w 35 30
/-- LEN of a record header (R50). -/
def recLen (w : Word) : Nat := wbits w 29 16
/-- SPEC of a record header (R50). -/
def recSpec (w : Word) : Nat := wbits w 15 0

/-- The types of R51. -/
def knownType (t : Nat) : Bool := [0x00, 0x01, 0x02, 0x08, 0x09, 0x0A, 0x0B, 0x10, 0x11, 0x12, 0x13, 0x14].contains t

/-- A figure type (R51). -/
def figType (t : Nat) : Bool := [0x10, 0x11, 0x12, 0x13, 0x14].contains t

/-- LEN of a record type; `n` is the point count of the attribute word (R51). -/
def typeLen (t n : Nat) : Nat :=
  if t = 0x01 then 4 else if t = 0x02 then 86 else if t = 0x08 then 1 else if t = 0x09 then 65 else if t = 0x0A then 1
  else if t = 0x0B then 1 else if t = 0x10 then 3 else if t = 0x11 then 4 else if t = 0x12 then 1 + n
  else if t = 0x13 then 1 + (n + 35) / 36 + n else if t = 0x14 then 3 else 0

/-- Read the body of a record whose header stands at `i`: `k` words after it. -/
def Stream.body (s : Stream) (i : Nat) : Nat → Nat → Except DFail (List Word)
  | 0, _ => .ok []
  | k + 1, j => do
    let w ← s.at (i + 1 + j) (.recLen, i)
    let r ← Stream.body s i k (j + 1)
    .ok (w :: r)

/-- Read the record at `i` (R50, R51): its type, SPEC and body. -/
def Stream.record (s : Stream) (i : Nat) : Except DFail (Nat × Nat × List Word) := do
  let h ← s.at i (.recSeq, i)
  let t := recType h
  if !knownType t then .error (.recType, i)
  else do
    let n ← if t = 0x12 || t = 0x13 then do
        let a ← s.at (i + 1) (.recLen, i)
        pure (wbits a 12 0)
      else pure 0
    if recLen h ≠ typeLen t n then .error (.recLen, i)
    else do
      let b ← s.body i (recLen h) 0
      .ok (t, recSpec h, b)

/-- The record at `i`, which must be of the given type (R53, R54); a PAD where the order of R53 and R54 has none breaks it, though R51 lets
PAD stand between records of any segment (DESIGN CHOICE, log 71). -/
def Stream.expect (s : Stream) (i t : Nat) : Except DFail (Nat × List Word) := do
  let h ← s.at i (.recSeq, i)
  if !knownType (recType h) then .error (.recType, i)
  else if recType h ≠ t then .error (.recSeq, i)
  else do
    let r ← s.record i
    .ok (r.2.1, r.2.2)

/-- Three u12 values of each word (R59, R65). -/
def triples (ws : List Word) : List Nat := ws.flatMap fun w => [wbits w 11 0, wbits w 23 12, wbits w 35 24]

/-- PAD records and SEG_END, which ends the segment (R53 to R55). -/
def Stream.finish (s : Stream) : Nat → Nat → Except DFail Unit
  | 0, i => .error (.recSeq, i)
  | fuel + 1, i => do
    let (t, _, b) ← s.record i
    if t = 0x00 then Stream.finish s fuel (i + 1)
    else if t ≠ 0x0B then .error (.recSeq, i)
    else if i % 2 = 1 then .error (.recSeq, i)
    else if wbits (nth 0 b 0) 31 0 ≠ (crc32c (s.bytes.take (9 * (i / 2)))).toNat then .error (.crc, i)
    else if i + 2 < s.ws.length then .error (.recSeq, i + 2)
    else match s.fault with
      | some f => .error (f, s.ws.length)
      | none => .ok ()

/-- A loaf header segment (R53, R58 to R60). -/
def checkHeader (s : Stream) : Except DFail LoafHdr := do
  let (spec, b) ← s.expect 0 0x01
  let w : Nat → Word := fun i => nth 0 b i
  if wbits (w 0) 35 28 ≠ 1 then .error (.hdr, 1)
  else
    let rows := wbits (w 1) 16 0
    if rows = 0 ∨ 65536 < rows then .error (.hdr, 2)
    else do
      let (_, d) ← s.expect 5 0x02
      s.finish (s.ws.length + 1) 92
      .ok { dir := spec % 2 == 1, id := wbits (w 0) 15 0, rows := rows, ox := w 2, oy := w 3, factors := (triples d).take 256 }

/-! Figures. -/

/-- U and V of a point word (R64). -/
def pointOf (w : Word) : Pt := ⟨sext 18 (wbits w 35 18), sext 18 (wbits w 17 0)⟩

/-- Drop the repeated vertex of a side of zero length (R68). -/
def dropRepeat : List Pt → List Pt
  | [] => []
  | [p] => [p]
  | p :: q :: r => if p = q then dropRepeat (q :: r) else p :: dropRepeat (q :: r)

/-- Straight outline through points. -/
def straight (ps : List Pt) : Shape := .outline (ps.map fun p => ⟨p, false⟩)

/-- Curve flag of point `i` (R69). -/
def curveFlag (flags : List Word) (i : Nat) : Bool := (nth 0 flags (i / 36)).getLsbD (i % 36)

/-- Two cyclically adjacent elements satisfy `p`. -/
def anyAdjacent {α : Type} (p : α → α → Bool) (l : List α) : Bool :=
  match l with
  | [] => false
  | a :: r => ((a :: r).zip (r ++ [a])).any fun t => p t.1 t.2

/-- The requirements of R68, R69 and R70 and the outline, in the order of R530 items 2 to 4. -/
def figShape (t spec : Nat) (attr : Word) (b : List Word) : Except DErr Shape :=
  let p : Nat → Pt := fun i => pointOf (nth 0 b i)
  let n := wbits attr 12 0
  if t = 0x10 then
    let p0 := p 0
    let p1 := p 1
    if p0.x < p1.x ∧ p0.y < p1.y then .ok (straight [p0, ⟨p1.x, p0.y⟩, p1, ⟨p0.x, p1.y⟩]) else .error .figGeom
  else if t = 0x11 then
    -- the pairs of the three words: (c0, c1), (a0, b0), (a1, b1)
    let c := p 0
    let s0 := p 1
    let s1 := p 2
    if ¬ (c.x < c.y ∧ s0.x ≤ s0.y ∧ s1.x ≤ s1.y) then .error .figGeom
    else if s0.x = s0.y ∧ s1.x = s1.y then .error .figGeom
    else if spec % 2 = 0 then
      .ok (straight (dropRepeat [⟨s0.x, c.x⟩, ⟨s0.y, c.x⟩, ⟨s1.y, c.y⟩, ⟨s1.x, c.y⟩]))
    else .ok (straight (dropRepeat [⟨c.x, s0.y⟩, ⟨c.x, s0.x⟩, ⟨c.y, s1.x⟩, ⟨c.y, s1.y⟩]))
  else if t = 0x12 then
    if n < 3 ∨ 4096 < n then .error .figGeom
    else
      let ps := (List.range n).map p
      if anyAdjacent (fun a c => a == c) ps then .error .figGeom else .ok (straight ps)
  else if t = 0x13 then
    if n < 3 ∨ 4096 < n then .error .figGeom
    else
      let nf := (n + 35) / 36
      let vs : List Vtx := (List.range n).map fun i => ⟨p (nf + i), curveFlag b i⟩
      if curveFlag b 0 || anyAdjacent (fun a c => a.off && c.off) vs || decide ((vs.filter fun v => !v.off).length < 2) then
        .error .figCurve
      else if anyAdjacent (fun a c => a.p == c.p) vs then .error .figGeom
      else .ok (.outline vs)
  else
    let r := wbits (nth 0 b 1) 35 18
    if r = 0 then .error .figGeom else .ok (.disk (p 0) r)

/-- A figure record's checks, in the order of R530. -/
def figOf (t spec : Nat) (body : List Word) : Except DErr Fig :=
  let attr := nth 0 body 0
  let bias := sext 10 (wbits attr 27 18)
  if bias < -256 ∨ 256 < bias then .error .figBias
  else
    match figShape t spec attr (body.drop 1) with
    | .error e => .error e
    | .ok sh =>
      let f : Fig := { cls := wbits attr 35 28, bias := bias, shape := sh }
      match sh with
      | .disk _ _ => .ok f
      | .outline vs =>
        if a6 vs ≤ 0 then .error .figOrient
        else if bias ≠ 0 ∧ !(withNeighbours vs).all (biasVertexOk bias) then .error .figBias
        else .ok f

/-- A tile's figure list of `left` words and `figs` figure records from word `i` on (R62). A segment that ends within the list fails with
WORDS (DESIGN CHOICE, log 71). -/
def Stream.figList (s : Stream) : Nat → Nat → Nat → Nat → TileRec → Except DFail TileRec
  | 0, _, _, _, acc => .ok acc
  | fuel + 1, i, left, figs, acc =>
    if left = 0 then (if figs = 0 then .ok acc else .error (.words, i))
    else do
      let h ← s.at i (.words, i)
      if !knownType (recType h) then .error (.recType, i)
      else if recType h ≠ 0x00 ∧ !figType (recType h) then .error (.words, i)
      else do
        let (t, spec, b) ← s.record i
        if left < b.length + 1 then .error (.words, i)
        else if t = 0x00 then Stream.figList s fuel (i + 1) (left - 1) figs acc
        else if figs = 0 then .error (.words, i)
        else
          let acc' : TileRec :=
            if acc.bad.isSome then acc
            else match figOf t spec b with
              | .ok f => { acc with figs := acc.figs ++ [f] }
              | .error e => { acc with bad := some (e, i) }
          Stream.figList s fuel (i + 1 + b.length) (left - 1 - b.length) (figs - 1) acc'

/-- The TILE records from column `col` on (R54, R62). A figure or PAD that stands where a TILE record is due belongs to no
counted list. -/
def Stream.tiles (s : Stream) : Nat → Nat → Nat → Except DFail (List TileRec × Nat)
  | 0, _, i => .ok ([], i)
  | k + 1, col, i => do
    let h ← s.at i (.recSeq, i)
    if 0 < col && (recType h == 0x00 || figType (recType h)) then .error (.words, i)
    else do
      let (spec, b) ← s.expect i 0x0A
      if spec % 32 ≠ col then .error (.recSeq, i)
      else do
        let w := wbits (nth 0 b 0) 35 18
        let t ← s.figList (w + 1) (i + 2) w (wbits (nth 0 b 0) 17 0) { words := w, figs := [], bad := none }
        let (r, j) ← Stream.tiles s k (col + 1) (i + 2 + w)
        .ok (t :: r, j)

/-- A tile-row segment against the expected row (R54, R61, R62, R531). -/
def checkRow (s : Stream) (expected : Nat) : Except DFail RowRec := do
  let h ← s.at 0 (.recSeq, 0)
  if !knownType (recType h) then .error (.recType, 0)
  else if recType h ≠ 0x08 then .error (.recSeq, 0)
  else if recSpec h ≠ expected then .error (.rowOrder, 0)
  else do
    let (spec, b) ← s.expect 0 0x08
    let (_, m) ← s.expect 2 0x09
    let (ts, i) ← s.tiles 32 0 68
    let h2 ← s.at i (.recSeq, i)
    if figType (recType h2) then .error (.words, i)
    else do
      s.finish (s.ws.length + 1) i
      .ok { row := spec, cost := (nth 0 b 0).toNat, nodes := triples m, tiles := ts }

/-- Is the segment a loaf header segment (R531)? -/
def Stream.isHeader (s : Stream) : Bool :=
  match s.ws with
  | [] => false
  | w :: _ => recType w == 0x01

end Sys2Proof.Machine
end

