-- ==== Sys2Proof/Machine/RegMap.lean ====
section
/-!
DEFINITION. The register map of BAR0: every register of the spec with its address, its fields, their access types,
reset values and stated ranges, as the register tables give them (R41, R84, R115, R149, R182, R222, R223, R262,
R301, R339, R375, R417, R449, R450, R476, R501, R527), and the names by which the meanings call registers and
fields: `A.<REGISTER>` is an address, `F.<REGISTER>_<FIELD>` a field; registers that stand in several copies take
the copy's index. Block ranges are those of R38.
-/
namespace Sys2Proof.Machine

/-- Access type of a field (R13). -/
inductive Acc | ro | rw | w1c | wo | sh
  deriving DecidableEq, Repr

/-- The stated range of a field (R42). -/
inductive Rng
  | any
  | between (lo hi : Nat)
  | zeroOr (lo hi : Nat)
  | oddBetween (lo hi : Nat)
  | oneOf (vs : List Nat)
  deriving DecidableEq, Repr

/-- Does a value lie in the stated range? -/
def Rng.ok : Rng → Nat → Bool
  | .any, _ => true
  | .between lo hi, v => decide (lo ≤ v ∧ v ≤ hi)
  | .zeroOr lo hi, v => decide (v = 0 ∨ (lo ≤ v ∧ v ≤ hi))
  | .oddBetween lo hi, v => decide (lo ≤ v ∧ v ≤ hi ∧ v % 2 = 1)
  | .oneOf vs, v => vs.contains v

/-- One row of a register table: bits `hi` down to `lo`. -/
structure FieldRow where
  hi : Nat
  lo : Nat
  acc : Acc
  reset : Nat
  rng : Rng
  deriving DecidableEq, Repr

/-- A register: address of its first copy, number of copies and their distance, and its fields. -/
structure RegRow where
  base : Nat
  count : Nat
  stride : Nat
  fields : List FieldRow
  deriving DecidableEq, Repr

/-- A field of the register at an address. -/
structure Fld where
  addr : Nat
  hi : Nat
  lo : Nat
  deriving DecidableEq, Repr

/-- Width of a field in bits. -/
def Fld.width (f : Fld) : Nat := f.hi + 1 - f.lo

/-- The GLB registers. -/
def regsGlb : List RegRow :=
  [ ⟨0x00000, 1, 0x8, [⟨31, 0, .ro, 0x1524A1C5, .any⟩]⟩
  , ⟨0x00008, 1, 0x8, [⟨35, 32, .ro, 0x4, .any⟩, ⟨31, 24, .ro, 0x40, .any⟩, ⟨23, 12, .ro, 0x400, .any⟩, ⟨11, 6, .ro, 0x20, .any⟩, ⟨5, 0, .ro, 0x10, .any⟩]⟩
  , ⟨0x00010, 1, 0x8, [⟨7, 6, .ro, 0x0, .any⟩, ⟨5, 4, .ro, 0x0, .any⟩, ⟨3, 0, .ro, 0x0, .any⟩]⟩
  , ⟨0x00018, 1, 0x8, [⟨35, 35, .wo, 0x0, .any⟩, ⟨31, 0, .ro, 0x0, .any⟩]⟩
  , ⟨0x00020, 1, 0x8, [⟨35, 35, .ro, 0x0, .any⟩, ⟨34, 33, .ro, 0x0, .any⟩, ⟨18, 0, .ro, 0x0, .any⟩]⟩
  , ⟨0x00028, 1, 0x8, [⟨35, 0, .rw, 0x0, .any⟩]⟩ ]

/-- The CMD registers. -/
def regsCmd : List RegRow :=
  [ ⟨0x01000, 1, 0x8, [⟨31, 0, .rw, 0x0, .any⟩]⟩
  , ⟨0x01008, 1, 0x8, [⟨31, 0, .rw, 0x0, .any⟩]⟩
  , ⟨0x01010, 1, 0x8, [⟨31, 0, .rw, 0x0, .any⟩]⟩
  , ⟨0x01018, 1, 0x8, [⟨31, 0, .rw, 0x0, .any⟩]⟩
  , ⟨0x01020, 1, 0x8, [⟨35, 35, .rw, 0x0, .any⟩, ⟨9, 5, .rw, 0xC, .between 12 20⟩, ⟨4, 0, .rw, 0xC, .between 12 20⟩]⟩
  , ⟨0x01028, 1, 0x8, [⟨20, 0, .rw, 0x0, .any⟩]⟩
  , ⟨0x01030, 1, 0x8, [⟨20, 0, .ro, 0x0, .any⟩]⟩
  , ⟨0x01038, 1, 0x8, [⟨20, 0, .ro, 0x0, .any⟩]⟩
  , ⟨0x01040, 1, 0x8, [⟨20, 0, .rw, 0x0, .any⟩]⟩
  , ⟨0x01048, 1, 0x8, [⟨10, 0, .rw, 0xC8, .between 20 2000⟩]⟩
  , ⟨0x01050, 1, 0x8, [⟨0, 0, .rw, 0x0, .any⟩]⟩
  , ⟨0x01058, 1, 0x8, [⟨35, 34, .ro, 0x0, .any⟩, ⟨33, 32, .ro, 0x0, .any⟩, ⟨31, 21, .ro, 0x0, .any⟩, ⟨20, 10, .ro, 0x0, .any⟩]⟩
  , ⟨0x01060, 3, 0x8, [⟨35, 35, .ro, 0x0, .any⟩, ⟨34, 25, .ro, 0x0, .any⟩, ⟨24, 14, .ro, 0x0, .any⟩]⟩
  , ⟨0x01078, 3, 0x8, [⟨35, 18, .ro, 0x0, .any⟩, ⟨17, 0, .ro, 0x0, .any⟩]⟩
  , ⟨0x01090, 1, 0x8, [⟨35, 21, .ro, 0x0, .any⟩, ⟨20, 19, .ro, 0x0, .any⟩, ⟨18, 0, .ro, 0x0, .any⟩]⟩
  , ⟨0x01098, 1, 0x8, [⟨4, 4, .w1c, 0x0, .any⟩, ⟨3, 3, .w1c, 0x0, .any⟩, ⟨2, 2, .w1c, 0x0, .any⟩, ⟨1, 1, .w1c, 0x0, .any⟩, ⟨0, 0, .w1c, 0x0, .any⟩]⟩
  , ⟨0x010A0, 1, 0x8, [⟨35, 35, .wo, 0x0, .any⟩, ⟨19, 0, .ro, 0x0, .any⟩]⟩ ]

/-- The PWR registers. -/
def regsPwr : List RegRow :=
  [ ⟨0x02000, 1, 0x8, [⟨35, 26, .ro, 0x2EE, .any⟩, ⟨25, 16, .ro, 0x0, .any⟩, ⟨15, 9, .ro, 0x0, .any⟩, ⟨8, 8, .ro, 0x0, .any⟩, ⟨7, 7, .ro, 0x0, .any⟩, ⟨6, 6, .ro, 0x0, .any⟩]⟩
  , ⟨0x02008, 1, 0x8, [⟨35, 35, .rw, 0x1, .any⟩, ⟨34, 25, .rw, 0x258, .between 600 850⟩, ⟨24, 15, .rw, 0x352, .between 600 850⟩, ⟨14, 10, .rw, 0x5, .between 1 31⟩, ⟨9, 0, .rw, 0x64, .between 10 1000⟩]⟩
  , ⟨0x02010, 1, 0x8, [⟨35, 24, .rw, 0x640, .between 1 4095⟩, ⟨23, 14, .rw, 0x200, .between 256 1023⟩, ⟨13, 0, .rw, 0x7D0, .between 1 16383⟩]⟩
  , ⟨0x02018, 1, 0x8, [⟨35, 28, .rw, 0x5F, .between 70 100⟩, ⟨27, 20, .rw, 0x67, .between 90 105⟩, ⟨19, 10, .rw, 0x2EE, .any⟩]⟩
  , ⟨0x02020, 1, 0x8, [⟨35, 27, .ro, 0x0, .any⟩, ⟨26, 18, .ro, 0x0, .any⟩, ⟨17, 9, .ro, 0x0, .any⟩, ⟨8, 0, .ro, 0x0, .any⟩]⟩
  , ⟨0x02028, 1, 0x8, [⟨35, 35, .wo, 0x0, .any⟩, ⟨3, 3, .ro, 0x0, .any⟩, ⟨2, 2, .ro, 0x0, .any⟩, ⟨1, 1, .ro, 0x0, .any⟩, ⟨0, 0, .ro, 0x0, .any⟩]⟩
  , ⟨0x02030, 1, 0x8, [⟨35, 32, .ro, 0x1, .any⟩, ⟨31, 15, .ro, 0x0, .any⟩, ⟨14, 14, .ro, 0x0, .any⟩, ⟨13, 13, .ro, 0x0, .any⟩]⟩
  , ⟨0x02038, 1, 0x8, [⟨35, 34, .ro, 0x0, .any⟩, ⟨33, 33, .ro, 0x0, .any⟩, ⟨32, 32, .ro, 0x0, .any⟩, ⟨31, 0, .ro, 0x0, .any⟩]⟩
  , ⟨0x02040, 1, 0x8, [⟨35, 29, .rw, 0x40, .any⟩, ⟨28, 24, .ro, 0x0, .any⟩, ⟨15, 0, .ro, 0x0, .any⟩]⟩
  , ⟨0x02048, 1, 0x8, [⟨5, 5, .w1c, 0x0, .any⟩, ⟨4, 4, .w1c, 0x0, .any⟩, ⟨3, 3, .w1c, 0x0, .any⟩, ⟨2, 2, .w1c, 0x0, .any⟩, ⟨1, 1, .w1c, 0x0, .any⟩, ⟨0, 0, .w1c, 0x0, .any⟩]⟩
  , ⟨0x02050, 1, 0x8, [⟨35, 35, .wo, 0x0, .any⟩, ⟨23, 0, .ro, 0x0, .any⟩]⟩
  , ⟨0x02058, 1, 0x8, [⟨35, 26, .rw, 0x64, .any⟩]⟩ ]

/-- The TB registers. -/
def regsTb : List RegRow :=
  [ ⟨0x03000, 1, 0x8, [⟨35, 35, .rw, 0x1, .any⟩, ⟨34, 34, .rw, 0x1, .any⟩, ⟨33, 33, .rw, 0x1, .any⟩, ⟨32, 32, .rw, 0x1, .any⟩, ⟨31, 24, .rw, 0x0, .any⟩, ⟨23, 16, .rw, 0x14, .between 1 255⟩, ⟨15, 0, .rw, 0x3E8, .zeroOr 100 65535⟩]⟩
  , ⟨0x03008, 1, 0x8, [⟨35, 0, .rw, 0x280000000, .any⟩]⟩
  , ⟨0x03010, 1, 0x8, [⟨35, 0, .ro, 0x0, .any⟩]⟩
  , ⟨0x03018, 1, 0x8, [⟨27, 0, .ro, 0x0, .any⟩]⟩
  , ⟨0x03020, 1, 0x8, [⟨31, 0, .ro, 0x0, .any⟩]⟩
  , ⟨0x03028, 1, 0x8, [⟨35, 0, .wo, 0x0, .any⟩]⟩
  , ⟨0x03030, 1, 0x8, [⟨35, 34, .ro, 0x0, .any⟩, ⟨33, 33, .ro, 0x0, .any⟩, ⟨32, 32, .ro, 0x0, .any⟩, ⟨31, 0, .ro, 0x0, .any⟩]⟩
  , ⟨0x03038, 1, 0x8, [⟨31, 0, .ro, 0x0, .any⟩]⟩
  , ⟨0x03040, 1, 0x8, [⟨35, 18, .rw, 0x400, .any⟩, ⟨17, 0, .rw, 0x10, .any⟩]⟩
  , ⟨0x03048, 1, 0x8, [⟨35, 35, .rw, 0x0, .any⟩, ⟨31, 16, .rw, 0x8000, .any⟩, ⟨15, 0, .ro, 0x8000, .any⟩]⟩
  , ⟨0x03050, 2, 0x8, [⟨35, 18, .rw, 0x0, .any⟩, ⟨17, 0, .rw, 0x0, .any⟩]⟩
  , ⟨0x03060, 4, 0x8, [⟨15, 0, .rw, 0x0, .any⟩]⟩
  , ⟨0x03080, 1, 0x8, [⟨15, 0, .rw, 0x0, .any⟩]⟩
  , ⟨0x03088, 1, 0x8, [⟨25, 16, .sh, 0x64, .between 20 1000⟩, ⟨9, 0, .sh, 0x3C, .between 10 990⟩]⟩
  , ⟨0x03090, 1, 0x8, [⟨35, 35, .ro, 0x0, .any⟩, ⟨34, 34, .ro, 0x0, .any⟩, ⟨24, 0, .ro, 0x0, .any⟩]⟩
  , ⟨0x03098, 1, 0x8, [⟨35, 18, .ro, 0x0, .any⟩, ⟨17, 0, .ro, 0x0, .any⟩]⟩
  , ⟨0x030A0, 1, 0x8, [⟨35, 19, .ro, 0x0, .any⟩, ⟨18, 18, .w1c, 0x0, .any⟩, ⟨17, 17, .w1c, 0x0, .any⟩, ⟨16, 13, .ro, 0x0, .any⟩, ⟨12, 9, .ro, 0x0, .any⟩]⟩
  , ⟨0x030A8, 1, 0x8, [⟨35, 0, .ro, 0x0, .any⟩]⟩
  , ⟨0x030B0, 1, 0x8, [⟨6, 6, .w1c, 0x0, .any⟩, ⟨5, 5, .w1c, 0x0, .any⟩, ⟨4, 4, .w1c, 0x0, .any⟩, ⟨3, 3, .w1c, 0x0, .any⟩, ⟨2, 2, .w1c, 0x0, .any⟩, ⟨1, 1, .w1c, 0x0, .any⟩, ⟨0, 0, .w1c, 0x0, .any⟩]⟩
  , ⟨0x030B8, 1, 0x8, [⟨35, 35, .wo, 0x0, .any⟩, ⟨27, 24, .ro, 0x0, .any⟩, ⟨23, 20, .ro, 0x0, .any⟩, ⟨19, 16, .ro, 0x0, .any⟩, ⟨15, 12, .ro, 0x0, .any⟩, ⟨11, 8, .ro, 0x0, .any⟩, ⟨7, 4, .ro, 0x0, .any⟩, ⟨3, 0, .ro, 0x0, .any⟩]⟩
  , ⟨0x030C0, 1, 0x8, [⟨16, 0, .ro, 0x0, .any⟩]⟩ ]

/-- The MOT registers. -/
def regsMot : List RegRow :=
  [ ⟨0x04000, 1, 0x8, [⟨35, 26, .rw, 0x64, .between 60 1000⟩, ⟨25, 17, .rw, 0x14, .between 10 500⟩]⟩
  , ⟨0x04008, 1, 0x8, [⟨35, 32, .ro, 0x0, .any⟩, ⟨31, 28, .ro, 0x0, .any⟩, ⟨27, 24, .ro, 0x0, .any⟩, ⟨23, 21, .ro, 0x0, .any⟩]⟩
  , ⟨0x04010, 1, 0x8, [⟨35, 16, .rw, 0xC350, .between 1 500000⟩, ⟨15, 0, .rw, 0x100, .any⟩]⟩
  , ⟨0x04018, 1, 0x8, [⟨35, 20, .rw, 0x3E8, .between 1 32767⟩, ⟨19, 4, .rw, 0x64, .between 1 65535⟩]⟩
  , ⟨0x04020, 1, 0x8, [⟨35, 28, .rw, 0x80, .between 1 255⟩, ⟨27, 20, .rw, 0xE0, .between 128 255⟩, ⟨19, 12, .rw, 0x40, .between 1 255⟩, ⟨11, 0, .rw, 0x32, .any⟩]⟩
  , ⟨0x04028, 1, 0x8, [⟨35, 20, .rw, 0x400, .any⟩, ⟨19, 10, .rw, 0x64, .between 1 1000⟩]⟩
  , ⟨0x04030, 1, 0x8, [⟨35, 16, .ro, 0x0, .any⟩, ⟨15, 13, .ro, 0x6, .any⟩]⟩
  , ⟨0x04038, 1, 0x8, [⟨6, 6, .w1c, 0x0, .any⟩, ⟨5, 5, .w1c, 0x0, .any⟩, ⟨4, 4, .w1c, 0x0, .any⟩, ⟨3, 3, .w1c, 0x0, .any⟩, ⟨2, 2, .w1c, 0x0, .any⟩, ⟨1, 1, .w1c, 0x0, .any⟩, ⟨0, 0, .w1c, 0x0, .any⟩]⟩
  , ⟨0x04040, 1, 0x8, [⟨35, 35, .wo, 0x0, .any⟩, ⟨27, 0, .ro, 0x0, .any⟩]⟩
  , ⟨0x04100, 4, 0x80, [⟨35, 35, .rw, 0x0, .any⟩, ⟨34, 34, .rw, 0x0, .any⟩, ⟨33, 33, .rw, 0x0, .any⟩, ⟨32, 29, .rw, 0x4, .between 1 15⟩, ⟨28, 9, .rw, 0x3E8, .between 1 500000⟩]⟩
  , ⟨0x04108, 4, 0x80, [⟨35, 35, .ro, 0x0, .any⟩, ⟨34, 34, .ro, 0x0, .any⟩, ⟨33, 33, .ro, 0x0, .any⟩, ⟨32, 32, .ro, 0x0, .any⟩, ⟨31, 31, .ro, 0x0, .any⟩, ⟨30, 30, .ro, 0x0, .any⟩, ⟨29, 29, .ro, 0x0, .any⟩, ⟨28, 28, .ro, 0x0, .any⟩]⟩
  , ⟨0x04110, 4, 0x80, [⟨35, 16, .rw, 0xC350, .between 1 500000⟩, ⟨15, 0, .rw, 0xC350, .any⟩]⟩
  , ⟨0x04118, 4, 0x80, [⟨35, 20, .rw, 0x7D0, .between 1 32767⟩, ⟨19, 4, .rw, 0x7D0, .between 1 32767⟩]⟩
  , ⟨0x04120, 4, 0x80, [⟨35, 20, .rw, 0xC8, .between 1 65535⟩, ⟨19, 4, .rw, 0xC8, .between 1 65535⟩]⟩
  , ⟨0x04128, 4, 0x80, [⟨35, 18, .rw, 0xC8, .any⟩, ⟨17, 0, .rw, 0x3E8, .any⟩]⟩
  , ⟨0x04130, 4, 0x80, [⟨35, 0, .rw, 0x0, .any⟩]⟩
  , ⟨0x04138, 4, 0x80, [⟨35, 0, .rw, 0x800000000, .any⟩]⟩
  , ⟨0x04140, 4, 0x80, [⟨35, 0, .rw, 0x7FFFFFFFF, .any⟩]⟩
  , ⟨0x04148, 4, 0x80, [⟨35, 0, .ro, 0x0, .any⟩]⟩
  , ⟨0x04150, 4, 0x80, [⟨35, 0, .ro, 0x0, .any⟩]⟩
  , ⟨0x04158, 4, 0x80, [⟨35, 0, .ro, 0x0, .any⟩]⟩
  , ⟨0x04160, 4, 0x80, [⟨5, 5, .w1c, 0x0, .any⟩, ⟨4, 4, .w1c, 0x0, .any⟩, ⟨3, 3, .w1c, 0x0, .any⟩, ⟨2, 2, .w1c, 0x0, .any⟩, ⟨1, 1, .w1c, 0x0, .any⟩, ⟨0, 0, .w1c, 0x0, .any⟩]⟩
  , ⟨0x04168, 4, 0x80, [⟨35, 35, .wo, 0x0, .any⟩, ⟨23, 0, .ro, 0x0, .any⟩]⟩ ]

/-- The CAM registers. -/
def regsCam : List RegRow :=
  [ ⟨0x05000, 1, 0x8, [⟨35, 35, .sh, 0x0, .any⟩, ⟨34, 25, .sh, 0x64, .between 1 1000⟩]⟩
  , ⟨0x05008, 1, 0x8, [⟨35, 22, .sh, 0x2000, .between 1 8192⟩, ⟨21, 8, .sh, 0x2000, .between 1 8192⟩]⟩
  , ⟨0x05010, 1, 0x8, [⟨35, 16, .sh, 0x2710, .between 1 1000000⟩]⟩
  , ⟨0x05018, 1, 0x8, [⟨35, 18, .sh, 0x0, .any⟩, ⟨17, 0, .sh, 0x0, .any⟩]⟩
  , ⟨0x05020, 1, 0x8, [⟨35, 18, .sh, 0x8000, .any⟩, ⟨17, 0, .sh, 0x0, .any⟩]⟩
  , ⟨0x05028, 1, 0x8, [⟨35, 18, .sh, 0x0, .any⟩, ⟨17, 0, .sh, 0x10000, .any⟩]⟩
  , ⟨0x05030, 1, 0x8, [⟨35, 32, .sh, 0x7, .oddBetween 3 15⟩, ⟨31, 20, .sh, 0x800, .any⟩, ⟨19, 8, .sh, 0x10, .any⟩]⟩
  , ⟨0x05038, 1, 0x8, [⟨35, 30, .sh, 0x20, .between 1 63⟩, ⟨29, 14, .sh, 0x1000, .any⟩]⟩
  , ⟨0x05040, 1, 0x8, [⟨35, 0, .sh, 0x0, .any⟩]⟩
  , ⟨0x05048, 1, 0x8, [⟨35, 35, .wo, 0x0, .any⟩, ⟨34, 34, .ro, 0x0, .any⟩, ⟨31, 0, .ro, 0x0, .any⟩]⟩
  , ⟨0x05050, 1, 0x8, [⟨35, 33, .ro, 0x0, .any⟩, ⟨31, 0, .ro, 0x0, .any⟩]⟩
  , ⟨0x05058, 1, 0x8, [⟨31, 0, .ro, 0x0, .any⟩]⟩
  , ⟨0x05060, 1, 0x8, [⟨35, 22, .ro, 0x0, .any⟩, ⟨21, 6, .ro, 0x0, .any⟩]⟩
  , ⟨0x05068, 1, 0x8, [⟨35, 14, .ro, 0x0, .any⟩, ⟨13, 0, .ro, 0x0, .any⟩]⟩
  , ⟨0x05070, 1, 0x8, [⟨35, 18, .ro, 0x0, .any⟩, ⟨17, 0, .ro, 0x0, .any⟩]⟩
  , ⟨0x05078, 1, 0x8, [⟨3, 3, .w1c, 0x0, .any⟩, ⟨2, 2, .w1c, 0x0, .any⟩, ⟨1, 1, .w1c, 0x0, .any⟩, ⟨0, 0, .w1c, 0x0, .any⟩]⟩
  , ⟨0x05080, 1, 0x8, [⟨35, 35, .wo, 0x0, .any⟩, ⟨15, 0, .ro, 0x0, .any⟩]⟩ ]

/-- The CAL registers. -/
def regsCal : List RegRow :=
  [ ⟨0x06000, 1, 0x8, [⟨35, 28, .ro, 0x0, .any⟩, ⟨27, 27, .ro, 0x0, .any⟩, ⟨26, 26, .ro, 0x0, .any⟩, ⟨25, 25, .ro, 0x0, .any⟩, ⟨24, 24, .ro, 0x0, .any⟩, ⟨23, 23, .ro, 0x0, .any⟩]⟩
  , ⟨0x06008, 5, 0x8, [⟨35, 0, .ro, 0x0, .any⟩]⟩
  , ⟨0x06040, 1, 0x8, [⟨35, 28, .rw, 0x10, .oneOf [0x10, 0x11, 0x12, 0x15]⟩, ⟨5, 0, .rw, 0x0, .any⟩]⟩
  , ⟨0x06048, 1, 0x8, [⟨35, 0, .rw, 0x0, .any⟩]⟩
  , ⟨0x06050, 1, 0x8, [⟨35, 20, .rw, 0x7D0, .between 1 65535⟩, ⟨19, 4, .rw, 0x2328, .any⟩]⟩
  , ⟨0x06058, 1, 0x8, [⟨35, 20, .rw, 0x1F4, .any⟩, ⟨19, 0, .rw, 0x4E20, .any⟩]⟩
  , ⟨0x06060, 1, 0x8, [⟨35, 20, .ro, 0x0, .any⟩, ⟨19, 0, .ro, 0x0, .any⟩]⟩
  , ⟨0x06068, 1, 0x8, [⟨35, 35, .ro, 0x0, .any⟩, ⟨34, 34, .ro, 0x0, .any⟩, ⟨33, 33, .ro, 0x0, .any⟩, ⟨32, 20, .ro, 0x0, .any⟩, ⟨19, 7, .ro, 0x0, .any⟩, ⟨6, 6, .ro, 0x0, .any⟩]⟩
  , ⟨0x06070, 1, 0x8, [⟨35, 0, .ro, 0x0, .any⟩]⟩
  , ⟨0x06078, 1, 0x8, [⟨3, 3, .w1c, 0x0, .any⟩, ⟨2, 2, .w1c, 0x0, .any⟩, ⟨1, 1, .w1c, 0x0, .any⟩, ⟨0, 0, .w1c, 0x0, .any⟩]⟩
  , ⟨0x06080, 1, 0x8, [⟨35, 35, .wo, 0x0, .any⟩, ⟨15, 0, .ro, 0x0, .any⟩]⟩ ]

/-- The DGH registers. -/
def regsDgh : List RegRow :=
  [ ⟨0x08000, 1, 0x8, [⟨35, 35, .ro, 0x0, .any⟩, ⟨34, 28, .ro, 0x40, .any⟩, ⟨27, 27, .ro, 0x0, .any⟩, ⟨16, 0, .ro, 0x0, .any⟩]⟩
  , ⟨0x08008, 1, 0x8, [⟨35, 35, .wo, 0x0, .any⟩, ⟨34, 34, .ro, 0x0, .any⟩, ⟨33, 28, .ro, 0x0, .any⟩, ⟨27, 11, .ro, 0x0, .any⟩, ⟨10, 6, .ro, 0x0, .any⟩, ⟨5, 5, .ro, 0x0, .any⟩]⟩
  , ⟨0x08010, 1, 0x8, [⟨21, 0, .ro, 0x0, .any⟩]⟩
  , ⟨0x08018, 1, 0x8, [⟨3, 3, .w1c, 0x0, .any⟩, ⟨2, 2, .w1c, 0x0, .any⟩, ⟨1, 1, .w1c, 0x0, .any⟩, ⟨0, 0, .w1c, 0x0, .any⟩]⟩
  , ⟨0x08020, 1, 0x8, [⟨35, 35, .wo, 0x0, .any⟩, ⟨31, 24, .ro, 0x0, .any⟩, ⟨23, 16, .ro, 0x0, .any⟩, ⟨15, 8, .ro, 0x0, .any⟩, ⟨7, 0, .ro, 0x0, .any⟩]⟩
  , ⟨0x08028, 1, 0x8, [⟨35, 0, .ro, 0x0, .any⟩]⟩ ]

/-- The KNX registers. -/
def regsKnx : List RegRow :=
  [ ⟨0x10000, 64, 0x400, [⟨35, 35, .ro, 0x0, .any⟩, ⟨34, 30, .ro, 0x0, .any⟩, ⟨29, 29, .ro, 0x0, .any⟩]⟩
  , ⟨0x10008, 64, 0x400, [⟨0, 0, .sh, 0x0, .any⟩]⟩
  , ⟨0x10010, 64, 0x400, [⟨35, 0, .ro, 0x0, .any⟩]⟩
  , ⟨0x10018, 64, 0x400, [⟨35, 0, .ro, 0x0, .any⟩]⟩
  , ⟨0x10020, 64, 0x400, [⟨35, 35, .wo, 0x0, .any⟩, ⟨34, 34, .ro, 0x0, .any⟩, ⟨33, 32, .ro, 0x0, .any⟩, ⟨31, 16, .ro, 0x0, .any⟩, ⟨15, 11, .ro, 0x0, .any⟩, ⟨10, 10, .ro, 0x0, .any⟩]⟩
  , ⟨0x10028, 64, 0x400, [⟨35, 0, .ro, 0x0, .any⟩]⟩
  , ⟨0x10030, 64, 0x400, [⟨35, 0, .ro, 0x0, .any⟩]⟩
  , ⟨0x10038, 64, 0x400, [⟨24, 0, .ro, 0x0, .any⟩]⟩
  , ⟨0x10040, 64, 0x400, [⟨2, 2, .w1c, 0x0, .any⟩, ⟨1, 1, .w1c, 0x0, .any⟩, ⟨0, 0, .w1c, 0x0, .any⟩]⟩
  , ⟨0x10048, 64, 0x400, [⟨35, 35, .wo, 0x0, .any⟩, ⟨23, 16, .ro, 0x0, .any⟩, ⟨15, 8, .ro, 0x0, .any⟩, ⟨7, 0, .ro, 0x0, .any⟩]⟩
  , ⟨0x10050, 64, 0x400, [⟨35, 0, .ro, 0x0, .any⟩]⟩ ]

/-- The PLC registers. -/
def regsPlc : List RegRow :=
  [ ⟨0x20000, 1, 0x8, [⟨20, 17, .rw, 0x3, .any⟩, ⟨16, 0, .rw, 0x7D0, .between 100 100000⟩]⟩
  , ⟨0x20008, 1, 0x8, [⟨35, 35, .ro, 0x0, .any⟩, ⟨34, 34, .ro, 0x0, .any⟩, ⟨32, 16, .ro, 0x0, .any⟩, ⟨15, 0, .ro, 0x0, .any⟩]⟩
  , ⟨0x20010, 1, 0x8, [⟨35, 25, .ro, 0x0, .any⟩, ⟨24, 14, .ro, 0x0, .any⟩, ⟨13, 7, .ro, 0x40, .any⟩, ⟨6, 0, .ro, 0x40, .any⟩]⟩
  , ⟨0x20018, 1, 0x8, [⟨31, 0, .w1c, 0x0, .any⟩]⟩
  , ⟨0x20020, 1, 0x8, [⟨31, 0, .w1c, 0x0, .any⟩]⟩
  , ⟨0x20028, 1, 0x8, [⟨31, 0, .ro, 0x0, .any⟩]⟩
  , ⟨0x20030, 1, 0x8, [⟨31, 0, .ro, 0x0, .any⟩]⟩
  , ⟨0x20038, 1, 0x8, [⟨4, 4, .w1c, 0x0, .any⟩, ⟨3, 3, .w1c, 0x0, .any⟩, ⟨2, 2, .w1c, 0x0, .any⟩, ⟨1, 1, .w1c, 0x0, .any⟩, ⟨0, 0, .w1c, 0x0, .any⟩]⟩
  , ⟨0x20040, 1, 0x8, [⟨35, 35, .wo, 0x0, .any⟩, ⟨29, 24, .ro, 0x0, .any⟩, ⟨23, 18, .ro, 0x0, .any⟩, ⟨17, 12, .ro, 0x0, .any⟩, ⟨11, 6, .ro, 0x0, .any⟩, ⟨5, 0, .ro, 0x0, .any⟩]⟩
  , ⟨0x20100, 64, 0x8, [⟨35, 32, .ro, 0x0, .any⟩, ⟨31, 18, .ro, 0x320, .any⟩, ⟨17, 0, .ro, 0x0, .any⟩]⟩ ]

/-- The PRF registers. -/
def regsPrf : List RegRow :=
  [ ⟨0x28000, 1, 0x8, [⟨25, 16, .sh, 0x280, .between 64 704⟩, ⟨15, 12, .sh, 0x6, .between 0 9⟩]⟩
  , ⟨0x28008, 1, 0x8, [⟨25, 16, .ro, 0x280, .any⟩, ⟨15, 12, .ro, 0x6, .any⟩, ⟨11, 11, .ro, 0x0, .any⟩]⟩
  , ⟨0x28010, 1, 0x8, [⟨33, 10, .ro, 0x0, .any⟩, ⟨9, 3, .ro, 0x0, .any⟩]⟩
  , ⟨0x28018, 1, 0x8, [⟨23, 0, .ro, 0x0, .any⟩]⟩
  , ⟨0x28020, 1, 0x8, [⟨35, 35, .wo, 0x0, .any⟩, ⟨34, 34, .ro, 0x0, .any⟩, ⟨33, 28, .ro, 0x0, .any⟩, ⟨27, 12, .ro, 0x0, .any⟩, ⟨11, 7, .ro, 0x0, .any⟩, ⟨6, 6, .ro, 0x0, .any⟩]⟩
  , ⟨0x28028, 1, 0x8, [⟨33, 17, .ro, 0x0, .any⟩, ⟨16, 0, .ro, 0x0, .any⟩]⟩
  , ⟨0x28030, 1, 0x8, [⟨35, 35, .wo, 0x0, .any⟩, ⟨34, 34, .ro, 0x0, .any⟩, ⟨33, 31, .ro, 0x0, .any⟩, ⟨30, 27, .ro, 0x0, .any⟩, ⟨26, 11, .ro, 0x0, .any⟩, ⟨10, 6, .ro, 0x0, .any⟩, ⟨5, 5, .ro, 0x0, .any⟩]⟩
  , ⟨0x28038, 1, 0x8, [⟨3, 3, .w1c, 0x0, .any⟩, ⟨2, 2, .w1c, 0x0, .any⟩, ⟨1, 1, .w1c, 0x0, .any⟩, ⟨0, 0, .w1c, 0x0, .any⟩]⟩
  , ⟨0x28040, 1, 0x8, [⟨35, 35, .wo, 0x0, .any⟩, ⟨31, 24, .ro, 0x0, .any⟩, ⟨23, 16, .ro, 0x0, .any⟩, ⟨15, 8, .ro, 0x0, .any⟩, ⟨7, 0, .ro, 0x0, .any⟩]⟩
  , ⟨0x28048, 1, 0x8, [⟨35, 0, .ro, 0x0, .any⟩]⟩
  , ⟨0x28050, 1, 0x8, [⟨35, 0, .ro, 0x0, .any⟩]⟩
  , ⟨0x28058, 1, 0x8, [⟨35, 35, .ro, 0x0, .any⟩, ⟨34, 34, .ro, 0x0, .any⟩, ⟨33, 18, .ro, 0x0, .any⟩, ⟨16, 0, .ro, 0x0, .any⟩]⟩
  , ⟨0x28060, 1, 0x8, [⟨35, 35, .ro, 0x0, .any⟩, ⟨34, 34, .ro, 0x0, .any⟩, ⟨33, 18, .ro, 0x0, .any⟩, ⟨16, 0, .ro, 0x0, .any⟩]⟩ ]

/-- The MEM registers. -/
def regsMem : List RegRow :=
  [ ⟨0x30000, 64, 0x200, [⟨35, 35, .ro, 0x0, .any⟩, ⟨34, 34, .ro, 0x0, .any⟩, ⟨33, 33, .ro, 0x0, .any⟩, ⟨32, 32, .ro, 0x0, .any⟩, ⟨9, 7, .ro, 0x0, .any⟩, ⟨6, 0, .ro, 0x0, .any⟩]⟩
  , ⟨0x30008, 64, 0x200, [⟨35, 18, .ro, 0x0, .any⟩, ⟨17, 0, .ro, 0x0, .any⟩]⟩
  , ⟨0x30010, 64, 0x200, [⟨35, 35, .wo, 0x0, .any⟩, ⟨34, 34, .ro, 0x0, .any⟩, ⟨33, 31, .ro, 0x0, .any⟩, ⟨29, 0, .ro, 0x0, .any⟩]⟩
  , ⟨0x30018, 64, 0x200, [⟨35, 18, .ro, 0x0, .any⟩, ⟨17, 0, .ro, 0x0, .any⟩]⟩
  , ⟨0x30020, 64, 0x200, [⟨35, 18, .ro, 0x0, .any⟩, ⟨17, 0, .ro, 0x0, .any⟩]⟩
  , ⟨0x30028, 64, 0x200, [⟨35, 34, .ro, 0x0, .any⟩, ⟨33, 26, .ro, 0x0, .any⟩, ⟨15, 0, .ro, 0x0, .any⟩]⟩
  , ⟨0x30030, 64, 0x200, [⟨35, 0, .ro, 0x0, .any⟩]⟩
  , ⟨0x30038, 64, 0x200, [⟨4, 4, .w1c, 0x0, .any⟩, ⟨3, 3, .w1c, 0x0, .any⟩, ⟨2, 2, .w1c, 0x0, .any⟩, ⟨1, 1, .w1c, 0x0, .any⟩, ⟨0, 0, .w1c, 0x0, .any⟩]⟩
  , ⟨0x30040, 64, 0x200, [⟨35, 35, .wo, 0x0, .any⟩, ⟨29, 24, .ro, 0x0, .any⟩, ⟨23, 18, .ro, 0x0, .any⟩, ⟨17, 12, .ro, 0x0, .any⟩, ⟨11, 6, .ro, 0x0, .any⟩, ⟨5, 0, .ro, 0x0, .any⟩]⟩
  , ⟨0x30100, 1, 0x8, [⟨35, 35, .rw, 0x1, .any⟩, ⟨34, 28, .rw, 0xA, .between 1 127⟩, ⟨27, 22, .rw, 0x20, .between 0 48⟩, ⟨21, 16, .rw, 0xF, .between 5 50⟩, ⟨15, 0, .rw, 0x100, .between 1 65535⟩]⟩
  , ⟨0x30108, 1, 0x8, [⟨15, 0, .rw, 0xF3C, .between 1000 3900⟩]⟩
  , ⟨0x30110, 1, 0x8, [⟨35, 29, .ro, 0x0, .any⟩, ⟨28, 28, .ro, 0x0, .any⟩, ⟨27, 26, .ro, 0x0, .any⟩]⟩
  , ⟨0x30118, 1, 0x8, [⟨17, 9, .ro, 0x0, .any⟩, ⟨8, 0, .ro, 0x0, .any⟩]⟩
  , ⟨0x30120, 1, 0x8, [⟨1, 1, .w1c, 0x0, .any⟩, ⟨0, 0, .w1c, 0x0, .any⟩]⟩
  , ⟨0x30128, 1, 0x8, [⟨35, 35, .wo, 0x0, .any⟩, ⟨15, 8, .ro, 0x0, .any⟩, ⟨7, 0, .ro, 0x0, .any⟩]⟩
  , ⟨0x30140, 1, 8, [⟨16, 0, .rw, 2000, .between 2000 10000⟩]⟩
  , ⟨0x30148, 1, 8, [⟨16, 0, .rw, 20000, .between 1000 100000⟩]⟩
  , ⟨0x30150, 1, 8, [⟨16, 0, .rw, 20000, .between 1000 100000⟩]⟩
  , ⟨0x30158, 1, 8, [⟨16, 0, .rw, 50000, .between 1000 100000⟩]⟩
  , ⟨0x30160, 1, 8, [⟨16, 0, .rw, 10000, .between 1000 100000⟩]⟩
  , ⟨0x30168, 1, 8, [⟨16, 0, .rw, 100000, .between 1000 100000⟩]⟩
  , ⟨0x30170, 1, 8, [⟨16, 0, .rw, 100000, .between 1000 100000⟩]⟩ ]

/-- The SLC registers. -/
def regsSlc : List RegRow :=
  [ ⟨0x40000, 1, 0x8, [⟨35, 35, .ro, 0x0, .any⟩, ⟨34, 34, .ro, 0x0, .any⟩, ⟨33, 31, .ro, 0x0, .any⟩, ⟨30, 25, .ro, 0x0, .any⟩, ⟨24, 0, .ro, 0x0, .any⟩]⟩
  , ⟨0x40008, 1, 0x8, [⟨6, 0, .sh, 0x28, .between 1 64⟩]⟩
  , ⟨0x40010, 1, 0x8, [⟨18, 12, .sh, 0x28, .between 20 100⟩, ⟨11, 0, .sh, 0x360, .between 640 1024⟩]⟩
  , ⟨0x40018, 1, 0x8, [⟨12, 0, .ro, 0x3B6, .any⟩]⟩
  , ⟨0x40020, 1, 0x8, [⟨31, 24, .rw, 0x40, .between 1 255⟩, ⟨23, 12, .rw, 0x0, .any⟩, ⟨11, 0, .rw, 0x230, .any⟩]⟩
  , ⟨0x40028, 1, 0x8, [⟨32, 28, .rw, 0x8, .any⟩, ⟨27, 16, .rw, 0x0, .any⟩, ⟨15, 0, .rw, 0xDAC, .any⟩]⟩
  , ⟨0x40030, 4, 0x100, [⟨35, 24, .ro, 0x0, .any⟩, ⟨16, 5, .ro, 0x800, .any⟩, ⟨4, 0, .ro, 0x8, .any⟩]⟩
  , ⟨0x40038, 1, 0x8, [⟨35, 27, .rw, 0xC0, .between 64 256⟩, ⟨26, 18, .rw, 0xC8, .any⟩, ⟨17, 9, .rw, 0xB4, .any⟩, ⟨8, 0, .rw, 0xA0, .any⟩]⟩
  , ⟨0x40040, 1, 0x8, [⟨32, 29, .sh, 0x8, .between 4 12⟩, ⟨28, 16, .sh, 0x100, .between 0 256⟩, ⟨15, 0, .sh, 0x1000, .between 1 65535⟩]⟩
  , ⟨0x40048, 1, 0x8, [⟨35, 35, .sh, 0x0, .any⟩, ⟨15, 0, .sh, 0x0, .any⟩]⟩
  , ⟨0x40050, 1, 0x8, [⟨19, 13, .ro, 0x0, .any⟩, ⟨12, 0, .ro, 0x0, .any⟩]⟩
  , ⟨0x40058, 1, 0x8, [⟨6, 6, .w1c, 0x0, .any⟩, ⟨5, 5, .w1c, 0x0, .any⟩, ⟨4, 4, .w1c, 0x0, .any⟩, ⟨3, 3, .w1c, 0x0, .any⟩, ⟨2, 2, .w1c, 0x0, .any⟩, ⟨1, 1, .w1c, 0x0, .any⟩, ⟨0, 0, .w1c, 0x0, .any⟩]⟩
  , ⟨0x40060, 1, 0x8, [⟨35, 35, .wo, 0x0, .any⟩, ⟨27, 24, .ro, 0x0, .any⟩, ⟨23, 20, .ro, 0x0, .any⟩, ⟨19, 16, .ro, 0x0, .any⟩, ⟨15, 12, .ro, 0x0, .any⟩, ⟨11, 8, .ro, 0x0, .any⟩, ⟨7, 4, .ro, 0x0, .any⟩, ⟨3, 0, .ro, 0x0, .any⟩]⟩
  , ⟨0x40068, 1, 0x8, [⟨35, 0, .ro, 0x0, .any⟩]⟩
  , ⟨0x40070, 1, 0x8, [⟨35, 0, .ro, 0x0, .any⟩]⟩
  , ⟨0x40800, 256, 0x8, [⟨16, 0, .sh, 0x10000, .any⟩]⟩ ]

/-- The LNK registers. -/
def regsLnk : List RegRow :=
  [ ⟨0x50000, 1, 0x8, [⟨35, 35, .sh, 0x0, .any⟩, ⟨34, 33, .sh, 0x2, .between 0 2⟩, ⟨32, 25, .rw, 0x5, .between 1 255⟩, ⟨24, 17, .rw, 0x10, .between 1 255⟩]⟩
  , ⟨0x50008, 1, 0x8, [⟨35, 32, .ro, 0x0, .any⟩, ⟨31, 28, .ro, 0x0, .any⟩, ⟨27, 24, .ro, 0x0, .any⟩, ⟨23, 20, .ro, 0x0, .any⟩, ⟨19, 16, .ro, 0x0, .any⟩, ⟨15, 14, .ro, 0x0, .any⟩, ⟨13, 13, .ro, 0x0, .any⟩, ⟨12, 11, .ro, 0x2, .any⟩]⟩
  , ⟨0x50010, 1, 0x8, [⟨15, 0, .ro, 0x286E, .any⟩]⟩
  , ⟨0x50018, 1, 0x8, [⟨35, 34, .ro, 0x0, .any⟩, ⟨33, 30, .ro, 0x0, .any⟩, ⟨29, 29, .ro, 0x0, .any⟩]⟩
  , ⟨0x50020, 1, 0x8, [⟨7, 7, .w1c, 0x0, .any⟩, ⟨6, 6, .w1c, 0x0, .any⟩, ⟨5, 5, .w1c, 0x0, .any⟩, ⟨4, 4, .w1c, 0x0, .any⟩, ⟨3, 3, .w1c, 0x0, .any⟩, ⟨2, 2, .w1c, 0x0, .any⟩, ⟨1, 1, .w1c, 0x0, .any⟩, ⟨0, 0, .w1c, 0x0, .any⟩]⟩
  , ⟨0x50028, 1, 0x8, [⟨35, 35, .wo, 0x0, .any⟩, ⟨31, 0, .ro, 0x0, .any⟩]⟩
  , ⟨0x50030, 1, 0x8, [⟨35, 0, .ro, 0x0, .any⟩]⟩
  , ⟨0x50100, 4, 0x100, [⟨35, 27, .ro, 0x0, .any⟩, ⟨26, 19, .ro, 0x0, .any⟩, ⟨18, 15, .ro, 0xF, .any⟩, ⟨14, 14, .ro, 0x0, .any⟩]⟩
  , ⟨0x50108, 4, 0x100, [⟨31, 0, .ro, 0xFFFFFFFF, .any⟩]⟩
  , ⟨0x50110, 4, 0x100, [⟨35, 18, .ro, 0x0, .any⟩, ⟨17, 0, .ro, 0x0, .any⟩]⟩
  , ⟨0x50118, 4, 0x100, [⟨35, 20, .ro, 0x0, .any⟩, ⟨19, 4, .ro, 0x0, .any⟩]⟩
  , ⟨0x50140, 4, 0x100, [⟨35, 18, .ro, 0x0, .any⟩, ⟨17, 0, .ro, 0x0, .any⟩]⟩
  , ⟨0x50148, 4, 0x100, [⟨35, 18, .ro, 0x0, .any⟩, ⟨17, 0, .ro, 0x0, .any⟩]⟩
  , ⟨0x50150, 4, 0x100, [⟨35, 18, .ro, 0x0, .any⟩, ⟨17, 0, .ro, 0x0, .any⟩]⟩
  , ⟨0x50158, 4, 0x100, [⟨35, 18, .ro, 0x0, .any⟩, ⟨17, 0, .ro, 0x0, .any⟩]⟩
  , ⟨0x50160, 4, 0x100, [⟨35, 18, .ro, 0x0, .any⟩, ⟨17, 0, .ro, 0x0, .any⟩]⟩
  , ⟨0x50168, 4, 0x100, [⟨35, 18, .ro, 0x0, .any⟩, ⟨17, 0, .ro, 0x0, .any⟩]⟩
  , ⟨0x50170, 4, 0x100, [⟨35, 18, .ro, 0x0, .any⟩, ⟨17, 0, .ro, 0x0, .any⟩]⟩
  , ⟨0x50178, 4, 0x100, [⟨35, 18, .ro, 0x0, .any⟩, ⟨17, 0, .ro, 0x0, .any⟩]⟩
  , ⟨0x50180, 4, 0x100, [⟨35, 18, .ro, 0x0, .any⟩, ⟨17, 0, .ro, 0x0, .any⟩]⟩
  , ⟨0x50600, 2, 0x40, [⟨23, 0, .rw, 0x0, .any⟩]⟩
  , ⟨0x50608, 2, 0x40, [⟨23, 0, .rw, 0x0, .any⟩]⟩
  , ⟨0x50610, 2, 0x40, [⟨31, 0, .rw, 0x0, .any⟩]⟩
  , ⟨0x50618, 2, 0x40, [⟨35, 35, .ro, 0x0, .any⟩, ⟨34, 17, .ro, 0x0, .any⟩]⟩ ]

/-- The PAIR registers. -/
def regsPair : List RegRow :=
  [ ⟨0x60000, 1, 0x8, [⟨35, 31, .rw, 0x2, .between 1 20⟩, ⟨30, 21, .rw, 0xA, .between 5 1000⟩, ⟨20, 11, .rw, 0x64, .between 20 1000⟩]⟩
  , ⟨0x60008, 1, 0x8, [⟨35, 35, .ro, 0x0, .any⟩, ⟨34, 34, .ro, 0x0, .any⟩, ⟨33, 33, .ro, 0x0, .any⟩, ⟨32, 30, .ro, 0x0, .any⟩, ⟨29, 29, .ro, 0x0, .any⟩, ⟨28, 25, .ro, 0x1, .any⟩]⟩
  , ⟨0x60010, 1, 0x8, [⟨35, 19, .ro, 0x0, .any⟩, ⟨18, 16, .ro, 0x0, .any⟩, ⟨15, 0, .ro, 0x0, .any⟩]⟩
  , ⟨0x60018, 1, 0x8, [⟨31, 0, .ro, 0x0, .any⟩]⟩
  , ⟨0x60020, 1, 0x8, [⟨35, 35, .ro, 0x0, .any⟩, ⟨34, 31, .ro, 0x0, .any⟩, ⟨30, 30, .ro, 0x0, .any⟩, ⟨29, 29, .ro, 0x0, .any⟩]⟩
  , ⟨0x60028, 1, 0x8, [⟨31, 0, .ro, 0x0, .any⟩]⟩
  , ⟨0x60030, 1, 0x8, [⟨31, 0, .ro, 0xFFFFFFFF, .any⟩]⟩
  , ⟨0x60038, 1, 0x8, [⟨35, 35, .wo, 0x0, .any⟩, ⟨34, 34, .ro, 0x0, .any⟩, ⟨33, 33, .ro, 0x0, .any⟩, ⟨32, 28, .ro, 0x0, .any⟩, ⟨27, 12, .ro, 0x0, .any⟩]⟩
  , ⟨0x60040, 1, 0x8, [⟨35, 0, .ro, 0x0, .any⟩]⟩
  , ⟨0x60048, 1, 0x8, [⟨5, 5, .w1c, 0x0, .any⟩, ⟨4, 4, .w1c, 0x0, .any⟩, ⟨3, 3, .w1c, 0x0, .any⟩, ⟨2, 2, .w1c, 0x0, .any⟩, ⟨1, 1, .w1c, 0x0, .any⟩, ⟨0, 0, .w1c, 0x0, .any⟩]⟩
  , ⟨0x60050, 1, 0x8, [⟨35, 35, .wo, 0x0, .any⟩, ⟨23, 0, .ro, 0x0, .any⟩]⟩ ]

/-- The TST registers. -/
def regsTst : List RegRow :=
  [ ⟨0x70000, 1, 0x8, [⟨23, 0, .rw, 0x0, .any⟩]⟩
  , ⟨0x70008, 1, 0x8, [⟨35, 33, .wo, 0x0, .any⟩, ⟨32, 32, .ro, 0x0, .any⟩, ⟨31, 30, .ro, 0x0, .any⟩]⟩
  , ⟨0x70010, 1, 0x8, [⟨35, 35, .wo, 0x0, .any⟩, ⟨34, 34, .ro, 0x0, .any⟩]⟩
  , ⟨0x70018, 1, 0x8, [⟨35, 32, .ro, 0x0, .any⟩, ⟨31, 0, .ro, 0x0, .any⟩]⟩
  , ⟨0x70020, 1, 0x8, [⟨31, 0, .ro, 0x0, .any⟩]⟩
  , ⟨0x70028, 1, 0x8, [⟨1, 1, .w1c, 0x0, .any⟩, ⟨0, 0, .w1c, 0x0, .any⟩]⟩
  , ⟨0x70030, 1, 0x8, [⟨35, 35, .wo, 0x0, .any⟩, ⟨7, 0, .ro, 0x0, .any⟩]⟩
  , ⟨0x70100, 64, 0x8, [⟨31, 0, .rw, 0x0, .any⟩]⟩ ]

/-- The block whose range holds an address (R38), as its register rows; `none` outside every block range. -/
def blockRows (addr : Nat) : Option (List RegRow) :=
  if addr < 0x1000 then some regsGlb
  else if addr < 0x2000 then some regsCmd
  else if addr < 0x3000 then some regsPwr
  else if addr < 0x4000 then some regsTb
  else if addr < 0x5000 then some regsMot
  else if addr < 0x6000 then some regsCam
  else if addr < 0x7000 then some regsCal
  else if addr < 0x8000 then none
  else if addr < 0x9000 then some regsDgh
  else if addr < 0x10000 then none
  else if addr < 0x20000 then some regsKnx
  else if addr < 0x28000 then some regsPlc
  else if addr < 0x30000 then some regsPrf
  else if addr < 0x38000 then some regsMem
  else if addr < 0x40000 then none
  else if addr < 0x50000 then some regsSlc
  else if addr < 0x60000 then some regsLnk
  else if addr < 0x70000 then some regsPair
  else if addr < 0x80000 then some regsTst
  else none

/-- Is `addr` one of the copies of a register row? -/
def RegRow.covers (r : RegRow) (addr : Nat) : Bool :=
  decide (r.base ≤ addr) && (addr - r.base) % r.stride == 0 && decide ((addr - r.base) / r.stride < r.count)

/-- The register row of an address, `none` where no register stands. -/
def regRow (addr : Nat) : Option RegRow :=
  match blockRows addr with
  | none => none
  | some rows => rows.find? (·.covers addr)

/-- The value of a register after reset (R17). -/
def resetWord (addr : Nat) : Word :=
  match regRow addr with
  | none => 0
  | some r => r.fields.foldl (fun w f => w ||| BitVec.ofNat 36 (f.reset * 2 ^ f.lo)) 0

end Sys2Proof.Machine

/-! Register addresses. -/
namespace Sys2Proof.Machine.A

@[reducible] def GLB_ID : Nat := 0x00000
@[reducible] def GLB_CAPS : Nat := 0x00008
@[reducible] def GLB_STATE : Nat := 0x00010
@[reducible] def GLB_BAD_ACCESS_CNT : Nat := 0x00018
@[reducible] def GLB_BAD_ACCESS_ADDR : Nat := 0x00020
@[reducible] def GLB_SCRATCH : Nat := 0x00028
@[reducible] def CMD_SQ_LO : Nat := 0x01000
@[reducible] def CMD_SQ_HI : Nat := 0x01008
@[reducible] def CMD_CQ_LO : Nat := 0x01010
@[reducible] def CMD_CQ_HI : Nat := 0x01018
@[reducible] def CMD_Q_CTL : Nat := 0x01020
@[reducible] def CMD_SQ_TAIL : Nat := 0x01028
@[reducible] def CMD_SQ_HEAD : Nat := 0x01030
@[reducible] def CMD_CQ_TAIL : Nat := 0x01038
@[reducible] def CMD_CQ_HEAD : Nat := 0x01040
@[reducible] def CMD_LEASE_DEF : Nat := 0x01048
@[reducible] def CMD_GRANT : Nat := 0x01050
@[reducible] def CMD_LOCK : Nat := 0x01058
@[reducible] def CMD_PORT_STATUS (i : Nat) : Nat := 0x01060 + 0x8 * i
@[reducible] def CMD_PORT_ERR (i : Nat) : Nat := 0x01078 + 0x8 * i
@[reducible] def CMD_DENY : Nat := 0x01090
@[reducible] def CMD_EVT : Nat := 0x01098
@[reducible] def CMD_EVT_CNT : Nat := 0x010A0
@[reducible] def PWR_STATUS : Nat := 0x02000
@[reducible] def PWR_AVS_CTL : Nat := 0x02008
@[reducible] def PWR_AVS_LAW : Nat := 0x02010
@[reducible] def PWR_THERM : Nat := 0x02018
@[reducible] def PWR_TEMP : Nat := 0x02020
@[reducible] def PWR_SAFE : Nat := 0x02028
@[reducible] def PWR_RST_CAUSE : Nat := 0x02030
@[reducible] def PWR_BOOT : Nat := 0x02038
@[reducible] def PWR_PMB : Nat := 0x02040
@[reducible] def PWR_EVT : Nat := 0x02048
@[reducible] def PWR_EVT_CNT : Nat := 0x02050
@[reducible] def PWR_IDLE : Nat := 0x02058
@[reducible] def TB_CTL : Nat := 0x03000
@[reducible] def TB_INC : Nat := 0x03008
@[reducible] def TB_TIME_LO : Nat := 0x03010
@[reducible] def TB_TIME_HI : Nat := 0x03018
@[reducible] def TB_TIME_FRAC : Nat := 0x03020
@[reducible] def TB_STEP : Nat := 0x03028
@[reducible] def TB_PTP_STATUS : Nat := 0x03030
@[reducible] def TB_PTP_DELAY : Nat := 0x03038
@[reducible] def TB_SERVO : Nat := 0x03040
@[reducible] def TB_VCXO : Nat := 0x03048
@[reducible] def TB_TS_TRIM (i : Nat) : Nat := 0x03050 + 0x8 * i
@[reducible] def TB_TW_DLY (i : Nat) : Nat := 0x03060 + 0x8 * i
@[reducible] def TB_POS_LAT : Nat := 0x03080
@[reducible] def TB_LAUNCH_CTL : Nat := 0x03088
@[reducible] def TB_LAUNCH_STATUS : Nat := 0x03090
@[reducible] def TB_XERR : Nat := 0x03098
@[reducible] def TB_JNL_STATUS : Nat := 0x030A0
@[reducible] def TB_JNL_TOTAL : Nat := 0x030A8
@[reducible] def TB_EVT : Nat := 0x030B0
@[reducible] def TB_EVT_CNT : Nat := 0x030B8
@[reducible] def TB_JNL_DROP : Nat := 0x030C0
@[reducible] def MOT_CTL : Nat := 0x04000
@[reducible] def MOT_STATUS : Nat := 0x04008
@[reducible] def MOT_SCAN : Nat := 0x04010
@[reducible] def MOT_SCAN_LIM : Nat := 0x04018
@[reducible] def MOT_PLAN : Nat := 0x04020
@[reducible] def MOT_RUN : Nat := 0x04028
@[reducible] def MOT_PLAN_STATUS : Nat := 0x04030
@[reducible] def MOT_EVT : Nat := 0x04038
@[reducible] def MOT_EVT_CNT : Nat := 0x04040
@[reducible] def MOT_AX_CTL (i : Nat) : Nat := 0x04100 + 0x80 * i
@[reducible] def MOT_AX_STATUS (i : Nat) : Nat := 0x04108 + 0x80 * i
@[reducible] def MOT_AX_VEL (i : Nat) : Nat := 0x04110 + 0x80 * i
@[reducible] def MOT_AX_ACC (i : Nat) : Nat := 0x04118 + 0x80 * i
@[reducible] def MOT_AX_JERK (i : Nat) : Nat := 0x04120 + 0x80 * i
@[reducible] def MOT_AX_DEV (i : Nat) : Nat := 0x04128 + 0x80 * i
@[reducible] def MOT_AX_HOME_POS (i : Nat) : Nat := 0x04130 + 0x80 * i
@[reducible] def MOT_AX_SOFT_MIN (i : Nat) : Nat := 0x04138 + 0x80 * i
@[reducible] def MOT_AX_SOFT_MAX (i : Nat) : Nat := 0x04140 + 0x80 * i
@[reducible] def MOT_AX_MEAS (i : Nat) : Nat := 0x04148 + 0x80 * i
@[reducible] def MOT_AX_PLAN (i : Nat) : Nat := 0x04150 + 0x80 * i
@[reducible] def MOT_AX_STOPPT (i : Nat) : Nat := 0x04158 + 0x80 * i
@[reducible] def MOT_AX_FAULT (i : Nat) : Nat := 0x04160 + 0x80 * i
@[reducible] def MOT_AX_FAULT_CNT (i : Nat) : Nat := 0x04168 + 0x80 * i
@[reducible] def CAM_CTL : Nat := 0x05000
@[reducible] def CAM_GEOM : Nat := 0x05008
@[reducible] def CAM_TRIG : Nat := 0x05010
@[reducible] def CAM_GRID_ORG : Nat := 0x05018
@[reducible] def CAM_GRID_COL : Nat := 0x05020
@[reducible] def CAM_GRID_ROW : Nat := 0x05028
@[reducible] def CAM_SPOT : Nat := 0x05030
@[reducible] def CAM_BEAM : Nat := 0x05038
@[reducible] def CAM_IREF : Nat := 0x05040
@[reducible] def CAM_COMMIT : Nat := 0x05048
@[reducible] def CAM_FSTAT0 : Nat := 0x05050
@[reducible] def CAM_FSTAT1 : Nat := 0x05058
@[reducible] def CAM_FSTAT2 : Nat := 0x05060
@[reducible] def CAM_FSTAT3 : Nat := 0x05068
@[reducible] def CAM_DROP : Nat := 0x05070
@[reducible] def CAM_EVT : Nat := 0x05078
@[reducible] def CAM_EVT_CNT : Nat := 0x05080
@[reducible] def CAL_STATUS : Nat := 0x06000
@[reducible] def CAL_LAST (i : Nat) : Nat := 0x06008 + 0x8 * i
@[reducible] def CAL_TRIM_SEL : Nat := 0x06040
@[reducible] def CAL_TRIM_DATA : Nat := 0x06048
@[reducible] def CAL_HOLDUP : Nat := 0x06050
@[reducible] def CAL_HOLDUP_COST : Nat := 0x06058
@[reducible] def CAL_HOLDUP_MEAS : Nat := 0x06060
@[reducible] def CAL_NVM_STATUS : Nat := 0x06068
@[reducible] def CAL_NVM_SEQ : Nat := 0x06070
@[reducible] def CAL_EVT : Nat := 0x06078
@[reducible] def CAL_EVT_CNT : Nat := 0x06080
@[reducible] def DGH_STATUS : Nat := 0x08000
@[reducible] def DGH_ERR : Nat := 0x08008
@[reducible] def DGH_ERR_WORD : Nat := 0x08010
@[reducible] def DGH_EVT : Nat := 0x08018
@[reducible] def DGH_EVT_CNT : Nat := 0x08020
@[reducible] def DGH_BYTES_IN : Nat := 0x08028
@[reducible] def KNX_CL_STATUS (i : Nat) : Nat := 0x10000 + 0x400 * i
@[reducible] def KNX_CL_CTL (i : Nat) : Nat := 0x10008 + 0x400 * i
@[reducible] def KNX_CL_TILES (i : Nat) : Nat := 0x10010 + 0x400 * i
@[reducible] def KNX_CL_CROSS (i : Nat) : Nat := 0x10018 + 0x400 * i
@[reducible] def KNX_CL_MIS (i : Nat) : Nat := 0x10020 + 0x400 * i
@[reducible] def KNX_CL_MIS_K (i : Nat) : Nat := 0x10028 + 0x400 * i
@[reducible] def KNX_CL_MIS_A (i : Nat) : Nat := 0x10030 + 0x400 * i
@[reducible] def KNX_CL_MIS_P (i : Nat) : Nat := 0x10038 + 0x400 * i
@[reducible] def KNX_CL_EVT (i : Nat) : Nat := 0x10040 + 0x400 * i
@[reducible] def KNX_CL_EVT_CNT (i : Nat) : Nat := 0x10048 + 0x400 * i
@[reducible] def KNX_CL_SAT_CNT (i : Nat) : Nat := 0x10050 + 0x400 * i
@[reducible] def PLC_CTL : Nat := 0x20000
@[reducible] def PLC_FRONT : Nat := 0x20008
@[reducible] def PLC_STATUS : Nat := 0x20010
@[reducible] def PLC_CL_OUT_LO : Nat := 0x20018
@[reducible] def PLC_CL_OUT_HI : Nat := 0x20020
@[reducible] def PLC_PC_RETIRED_LO : Nat := 0x20028
@[reducible] def PLC_PC_RETIRED_HI : Nat := 0x20030
@[reducible] def PLC_EVT : Nat := 0x20038
@[reducible] def PLC_EVT_CNT : Nat := 0x20040
@[reducible] def PLC_CL_RATE (i : Nat) : Nat := 0x20100 + 0x8 * i
@[reducible] def PRF_CTL : Nat := 0x28000
@[reducible] def PRF_ACTIVE : Nat := 0x28008
@[reducible] def PRF_STATUS : Nat := 0x28010
@[reducible] def PRF_RING : Nat := 0x28018
@[reducible] def PRF_STALL : Nat := 0x28020
@[reducible] def PRF_STALL_POS : Nat := 0x28028
@[reducible] def PRF_ERR : Nat := 0x28030
@[reducible] def PRF_EVT : Nat := 0x28038
@[reducible] def PRF_EVT_CNT : Nat := 0x28040
@[reducible] def PRF_ORIG_BYTES : Nat := 0x28048
@[reducible] def PRF_COMP_BYTES : Nat := 0x28050
@[reducible] def PRF_WIN_0 : Nat := 0x28058
@[reducible] def PRF_WIN_1 : Nat := 0x28060
@[reducible] def MEM_PC_STATUS (i : Nat) : Nat := 0x30000 + 0x200 * i
@[reducible] def MEM_PC_ECC (i : Nat) : Nat := 0x30008 + 0x200 * i
@[reducible] def MEM_PC_UE (i : Nat) : Nat := 0x30010 + 0x200 * i
@[reducible] def MEM_PC_REF (i : Nat) : Nat := 0x30018 + 0x200 * i
@[reducible] def MEM_PC_LATE (i : Nat) : Nat := 0x30020 + 0x200 * i
@[reducible] def MEM_PC_TRAIN (i : Nat) : Nat := 0x30028 + 0x200 * i
@[reducible] def MEM_PC_BURSTS (i : Nat) : Nat := 0x30030 + 0x200 * i
@[reducible] def MEM_PC_EVT (i : Nat) : Nat := 0x30038 + 0x200 * i
@[reducible] def MEM_PC_EVT_CNT (i : Nat) : Nat := 0x30040 + 0x200 * i
@[reducible] def MEM_CTL : Nat := 0x30100
@[reducible] def MEM_REF_CTL : Nat := 0x30108
@[reducible] def MEM_STATUS : Nat := 0x30110
@[reducible] def MEM_STK_TEMP : Nat := 0x30118
@[reducible] def MEM_EVT : Nat := 0x30120
@[reducible] def MEM_EVT_CNT : Nat := 0x30128
@[reducible] def MEM_PORT_TGT (i : Nat) : Nat := 0x30140 + 0x8 * i
@[reducible] def SLC_STATUS : Nat := 0x40000
@[reducible] def SLC_SPLIT_CTL : Nat := 0x40008
@[reducible] def SLC_DWELL : Nat := 0x40010
@[reducible] def SLC_PERIOD : Nat := 0x40018
@[reducible] def SLC_KT_CTL : Nat := 0x40020
@[reducible] def SLC_TE_CTL : Nat := 0x40028
@[reducible] def SLC_KT (i : Nat) : Nat := 0x40030 + 0x100 * i
@[reducible] def SLC_THERM : Nat := 0x40038
@[reducible] def SLC_COND : Nat := 0x40040
@[reducible] def SLC_HEAT_CTL : Nat := 0x40048
@[reducible] def SLC_LIVE : Nat := 0x40050
@[reducible] def SLC_EVT : Nat := 0x40058
@[reducible] def SLC_EVT_CNT : Nat := 0x40060
@[reducible] def SLC_CLAMP_CNT : Nat := 0x40068
@[reducible] def SLC_LOWLIVE_CNT : Nat := 0x40070
@[reducible] def SLC_HEAT_DECAY (i : Nat) : Nat := 0x40800 + 0x8 * i
@[reducible] def LNK_CTL : Nat := 0x50000
@[reducible] def LNK_STATUS : Nat := 0x50008
@[reducible] def LNK_FB_MIN : Nat := 0x50010
@[reducible] def LNK_LB : Nat := 0x50018
@[reducible] def LNK_EVT : Nat := 0x50020
@[reducible] def LNK_EVT_CNT : Nat := 0x50028
@[reducible] def LNK_PAIR_ERR : Nat := 0x50030
@[reducible] def LNK_GRP_STATUS (i : Nat) : Nat := 0x50100 + 0x100 * i
@[reducible] def LNK_GRP_MAP (i : Nat) : Nat := 0x50108 + 0x100 * i
@[reducible] def LNK_GRP_BC (i : Nat) : Nat := 0x50110 + 0x100 * i
@[reducible] def LNK_GRP_DISC (i : Nat) : Nat := 0x50118 + 0x100 * i
@[reducible] def LNK_LANE0 (i : Nat) : Nat := 0x50140 + 0x100 * i
@[reducible] def LNK_LANE1 (i : Nat) : Nat := 0x50148 + 0x100 * i
@[reducible] def LNK_LANE2 (i : Nat) : Nat := 0x50150 + 0x100 * i
@[reducible] def LNK_LANE3 (i : Nat) : Nat := 0x50158 + 0x100 * i
@[reducible] def LNK_LANE4 (i : Nat) : Nat := 0x50160 + 0x100 * i
@[reducible] def LNK_LANE5 (i : Nat) : Nat := 0x50168 + 0x100 * i
@[reducible] def LNK_LANE6 (i : Nat) : Nat := 0x50170 + 0x100 * i
@[reducible] def LNK_LANE7 (i : Nat) : Nat := 0x50178 + 0x100 * i
@[reducible] def LNK_LANE8 (i : Nat) : Nat := 0x50180 + 0x100 * i
@[reducible] def LNK_ETH_MAC_HI (i : Nat) : Nat := 0x50600 + 0x40 * i
@[reducible] def LNK_ETH_MAC_LO (i : Nat) : Nat := 0x50608 + 0x40 * i
@[reducible] def LNK_ETH_IP (i : Nat) : Nat := 0x50610 + 0x40 * i
@[reducible] def LNK_ETH_STATUS (i : Nat) : Nat := 0x50618 + 0x40 * i
@[reducible] def PAIR_CTL : Nat := 0x60000
@[reducible] def PAIR_STATUS : Nat := 0x60008
@[reducible] def PAIR_PEER : Nat := 0x60010
@[reducible] def PAIR_PEER_LNCH : Nat := 0x60018
@[reducible] def PAIR_TKO : Nat := 0x60020
@[reducible] def PAIR_TKO_FIRST : Nat := 0x60028
@[reducible] def PAIR_TKO_FIRED : Nat := 0x60030
@[reducible] def PAIR_DIFF : Nat := 0x60038
@[reducible] def PAIR_DIFF_POS : Nat := 0x60040
@[reducible] def PAIR_EVT : Nat := 0x60048
@[reducible] def PAIR_EVT_CNT : Nat := 0x60050
@[reducible] def TST_FLASH_ADDR : Nat := 0x70000
@[reducible] def TST_FLASH_CMD : Nat := 0x70008
@[reducible] def TST_BIST : Nat := 0x70010
@[reducible] def TST_BIST_LO : Nat := 0x70018
@[reducible] def TST_BIST_HI : Nat := 0x70020
@[reducible] def TST_EVT : Nat := 0x70028
@[reducible] def TST_EVT_CNT : Nat := 0x70030
@[reducible] def TST_FLASH_BUF (i : Nat) : Nat := 0x70100 + 0x8 * i

end Sys2Proof.Machine.A

/-! Register fields. -/
namespace Sys2Proof.Machine.F

@[reducible] def GLB_ID_IDCODE : Fld := ⟨0x00000, 31, 0⟩
@[reducible] def GLB_CAPS_BANKS : Fld := ⟨0x00008, 35, 32⟩
@[reducible] def GLB_CAPS_CLUSTERS : Fld := ⟨0x00008, 31, 24⟩
@[reducible] def GLB_CAPS_KNEADERS : Fld := ⟨0x00008, 23, 12⟩
@[reducible] def GLB_CAPS_SLICERS : Fld := ⟨0x00008, 11, 6⟩
@[reducible] def GLB_CAPS_FILLERS : Fld := ⟨0x00008, 5, 0⟩
@[reducible] def GLB_STATE_PAIR_ROLE : Fld := ⟨0x00010, 7, 6⟩
@[reducible] def GLB_STATE_BEAMS : Fld := ⟨0x00010, 5, 4⟩
@[reducible] def GLB_STATE_CORE_STATE : Fld := ⟨0x00010, 3, 0⟩
@[reducible] def GLB_BAD_ACCESS_CNT_CLEAR : Fld := ⟨0x00018, 35, 35⟩
@[reducible] def GLB_BAD_ACCESS_CNT_COUNT : Fld := ⟨0x00018, 31, 0⟩
@[reducible] def GLB_BAD_ACCESS_ADDR_VALID : Fld := ⟨0x00020, 35, 35⟩
@[reducible] def GLB_BAD_ACCESS_ADDR_KIND : Fld := ⟨0x00020, 34, 33⟩
@[reducible] def GLB_BAD_ACCESS_ADDR_ADDR : Fld := ⟨0x00020, 18, 0⟩
@[reducible] def GLB_SCRATCH_VALUE : Fld := ⟨0x00028, 35, 0⟩
@[reducible] def CMD_SQ_LO_ADDR : Fld := ⟨0x01000, 31, 0⟩
@[reducible] def CMD_SQ_HI_ADDR : Fld := ⟨0x01008, 31, 0⟩
@[reducible] def CMD_CQ_LO_ADDR : Fld := ⟨0x01010, 31, 0⟩
@[reducible] def CMD_CQ_HI_ADDR : Fld := ⟨0x01018, 31, 0⟩
@[reducible] def CMD_Q_CTL_EN : Fld := ⟨0x01020, 35, 35⟩
@[reducible] def CMD_Q_CTL_CQ_LOG2 : Fld := ⟨0x01020, 9, 5⟩
@[reducible] def CMD_Q_CTL_SQ_LOG2 : Fld := ⟨0x01020, 4, 0⟩
@[reducible] def CMD_SQ_TAIL_PTR : Fld := ⟨0x01028, 20, 0⟩
@[reducible] def CMD_SQ_HEAD_PTR : Fld := ⟨0x01030, 20, 0⟩
@[reducible] def CMD_CQ_TAIL_PTR : Fld := ⟨0x01038, 20, 0⟩
@[reducible] def CMD_CQ_HEAD_PTR : Fld := ⟨0x01040, 20, 0⟩
@[reducible] def CMD_LEASE_DEF_DEF_MS : Fld := ⟨0x01048, 10, 0⟩
@[reducible] def CMD_GRANT_HOST_CAL : Fld := ⟨0x01050, 0, 0⟩
@[reducible] def CMD_LOCK_EXP_OWNER : Fld := ⟨0x01058, 35, 34⟩
@[reducible] def CMD_LOCK_CAL_OWNER : Fld := ⟨0x01058, 33, 32⟩
@[reducible] def CMD_LOCK_EXP_LEFT_MS : Fld := ⟨0x01058, 31, 21⟩
@[reducible] def CMD_LOCK_CAL_LEFT_MS : Fld := ⟨0x01058, 20, 10⟩
@[reducible] def CMD_PORT_STATUS_UP (i : Nat) : Fld := ⟨0x01060 + 0x8 * i, 35, 35⟩
@[reducible] def CMD_PORT_STATUS_IN_FLIGHT (i : Nat) : Fld := ⟨0x01060 + 0x8 * i, 34, 25⟩
@[reducible] def CMD_PORT_STATUS_EVT_PEND (i : Nat) : Fld := ⟨0x01060 + 0x8 * i, 24, 14⟩
@[reducible] def CMD_PORT_ERR_FRAME_ERR (i : Nat) : Fld := ⟨0x01078 + 0x8 * i, 35, 18⟩
@[reducible] def CMD_PORT_ERR_DUP_TAG (i : Nat) : Fld := ⟨0x01078 + 0x8 * i, 17, 0⟩
@[reducible] def CMD_DENY_COUNT : Fld := ⟨0x01090, 35, 21⟩
@[reducible] def CMD_DENY_PORT : Fld := ⟨0x01090, 20, 19⟩
@[reducible] def CMD_DENY_ADDR : Fld := ⟨0x01090, 18, 0⟩
@[reducible] def CMD_EVT_FRAME_ERR : Fld := ⟨0x01098, 4, 4⟩
@[reducible] def CMD_EVT_DUP_TAG : Fld := ⟨0x01098, 3, 3⟩
@[reducible] def CMD_EVT_DENY : Fld := ⟨0x01098, 2, 2⟩
@[reducible] def CMD_EVT_PORT_RESET : Fld := ⟨0x01098, 1, 1⟩
@[reducible] def CMD_EVT_LEASE_EXP : Fld := ⟨0x01098, 0, 0⟩
@[reducible] def CMD_EVT_CNT_CLEAR : Fld := ⟨0x010A0, 35, 35⟩
@[reducible] def CMD_EVT_CNT_COUNTS : Fld := ⟨0x010A0, 19, 0⟩
@[reducible] def PWR_STATUS_VSET_MV : Fld := ⟨0x02000, 35, 26⟩
@[reducible] def PWR_STATUS_VMEAS_MV : Fld := ⟨0x02000, 25, 16⟩
@[reducible] def PWR_STATUS_CL_ON : Fld := ⟨0x02000, 15, 9⟩
@[reducible] def PWR_STATUS_IDLE_OFF : Fld := ⟨0x02000, 8, 8⟩
@[reducible] def PWR_STATUS_HOT : Fld := ⟨0x02000, 7, 7⟩
@[reducible] def PWR_STATUS_AVS_HOLD : Fld := ⟨0x02000, 6, 6⟩
@[reducible] def PWR_AVS_CTL_EN : Fld := ⟨0x02008, 35, 35⟩
@[reducible] def PWR_AVS_CTL_VMIN_MV : Fld := ⟨0x02008, 34, 25⟩
@[reducible] def PWR_AVS_CTL_VMAX_MV : Fld := ⟨0x02008, 24, 15⟩
@[reducible] def PWR_AVS_CTL_STEP_MV : Fld := ⟨0x02008, 14, 10⟩
@[reducible] def PWR_AVS_CTL_PERIOD_US : Fld := ⟨0x02008, 9, 0⟩
@[reducible] def PWR_AVS_LAW_S_REF : Fld := ⟨0x02010, 35, 24⟩
@[reducible] def PWR_AVS_LAW_MARGIN : Fld := ⟨0x02010, 23, 14⟩
@[reducible] def PWR_AVS_LAW_DRAIN_US : Fld := ⟨0x02010, 13, 0⟩
@[reducible] def PWR_THERM_WARN_C : Fld := ⟨0x02018, 35, 28⟩
@[reducible] def PWR_THERM_TRIP_C : Fld := ⟨0x02018, 27, 20⟩
@[reducible] def PWR_THERM_VWARN_MV : Fld := ⟨0x02018, 19, 10⟩
@[reducible] def PWR_TEMP_T3 : Fld := ⟨0x02020, 35, 27⟩
@[reducible] def PWR_TEMP_T2 : Fld := ⟨0x02020, 26, 18⟩
@[reducible] def PWR_TEMP_T1 : Fld := ⟨0x02020, 17, 9⟩
@[reducible] def PWR_TEMP_T0 : Fld := ⟨0x02020, 8, 0⟩
@[reducible] def PWR_SAFE_RELEASE : Fld := ⟨0x02028, 35, 35⟩
@[reducible] def PWR_SAFE_PWR_FAIL : Fld := ⟨0x02028, 3, 3⟩
@[reducible] def PWR_SAFE_CORE_UV : Fld := ⟨0x02028, 2, 2⟩
@[reducible] def PWR_SAFE_THERM : Fld := ⟨0x02028, 1, 1⟩
@[reducible] def PWR_SAFE_INTERLOCK : Fld := ⟨0x02028, 0, 0⟩
@[reducible] def PWR_RST_CAUSE_CAUSE : Fld := ⟨0x02030, 35, 32⟩
@[reducible] def PWR_RST_CAUSE_JNL_HELD : Fld := ⟨0x02030, 31, 15⟩
@[reducible] def PWR_RST_CAUSE_BOOT_WDOG : Fld := ⟨0x02030, 14, 14⟩
@[reducible] def PWR_RST_CAUSE_LAST_SLOT : Fld := ⟨0x02030, 13, 13⟩
@[reducible] def PWR_BOOT_SLOT_OK : Fld := ⟨0x02038, 35, 34⟩
@[reducible] def PWR_BOOT_SLOT : Fld := ⟨0x02038, 33, 33⟩
@[reducible] def PWR_BOOT_RECOVERY : Fld := ⟨0x02038, 32, 32⟩
@[reducible] def PWR_BOOT_SEQ : Fld := ⟨0x02038, 31, 0⟩
@[reducible] def PWR_PMB_ADDR : Fld := ⟨0x02040, 35, 29⟩
@[reducible] def PWR_PMB_VOUT_N : Fld := ⟨0x02040, 28, 24⟩
@[reducible] def PWR_PMB_STATUS_WORD : Fld := ⟨0x02040, 15, 0⟩
@[reducible] def PWR_EVT_PWR_FAIL : Fld := ⟨0x02048, 5, 5⟩
@[reducible] def PWR_EVT_PMB_FAIL : Fld := ⟨0x02048, 4, 4⟩
@[reducible] def PWR_EVT_CORE_UV : Fld := ⟨0x02048, 3, 3⟩
@[reducible] def PWR_EVT_TRIP : Fld := ⟨0x02048, 2, 2⟩
@[reducible] def PWR_EVT_HOT : Fld := ⟨0x02048, 1, 1⟩
@[reducible] def PWR_EVT_INTERLOCK : Fld := ⟨0x02048, 0, 0⟩
@[reducible] def PWR_EVT_CNT_CLEAR : Fld := ⟨0x02050, 35, 35⟩
@[reducible] def PWR_EVT_CNT_COUNTS : Fld := ⟨0x02050, 23, 0⟩
@[reducible] def PWR_IDLE_OFF_MS : Fld := ⟨0x02058, 35, 26⟩
@[reducible] def TB_CTL_PTP_EN : Fld := ⟨0x03000, 35, 35⟩
@[reducible] def TB_CTL_TC_EN : Fld := ⟨0x03000, 34, 34⟩
@[reducible] def TB_CTL_UDP_EN : Fld := ⟨0x03000, 33, 33⟩
@[reducible] def TB_CTL_L2_EN : Fld := ⟨0x03000, 32, 32⟩
@[reducible] def TB_CTL_DOMAIN : Fld := ⟨0x03000, 31, 24⟩
@[reducible] def TB_CTL_LOCK_NS : Fld := ⟨0x03000, 23, 16⟩
@[reducible] def TB_CTL_STEP_NS : Fld := ⟨0x03000, 15, 0⟩
@[reducible] def TB_INC_INC : Fld := ⟨0x03008, 35, 0⟩
@[reducible] def TB_TIME_LO_NS_LO : Fld := ⟨0x03010, 35, 0⟩
@[reducible] def TB_TIME_HI_NS_HI : Fld := ⟨0x03018, 27, 0⟩
@[reducible] def TB_TIME_FRAC_FRAC : Fld := ⟨0x03020, 31, 0⟩
@[reducible] def TB_STEP_DELTA : Fld := ⟨0x03028, 35, 0⟩
@[reducible] def TB_PTP_STATUS_STATE : Fld := ⟨0x03030, 35, 34⟩
@[reducible] def TB_PTP_STATUS_PORT : Fld := ⟨0x03030, 33, 33⟩
@[reducible] def TB_PTP_STATUS_LOCKED : Fld := ⟨0x03030, 32, 32⟩
@[reducible] def TB_PTP_STATUS_OFFSET : Fld := ⟨0x03030, 31, 0⟩
@[reducible] def TB_PTP_DELAY_MPD : Fld := ⟨0x03038, 31, 0⟩
@[reducible] def TB_SERVO_KP : Fld := ⟨0x03040, 35, 18⟩
@[reducible] def TB_SERVO_KI : Fld := ⟨0x03040, 17, 0⟩
@[reducible] def TB_VCXO_HOLD : Fld := ⟨0x03048, 35, 35⟩
@[reducible] def TB_VCXO_CENTRE : Fld := ⟨0x03048, 31, 16⟩
@[reducible] def TB_VCXO_TUNE : Fld := ⟨0x03048, 15, 0⟩
@[reducible] def TB_TS_TRIM_RX_Q (i : Nat) : Fld := ⟨0x03050 + 0x8 * i, 35, 18⟩
@[reducible] def TB_TS_TRIM_TX_Q (i : Nat) : Fld := ⟨0x03050 + 0x8 * i, 17, 0⟩
@[reducible] def TB_TW_DLY_DLY_Q (i : Nat) : Fld := ⟨0x03060 + 0x8 * i, 15, 0⟩
@[reducible] def TB_POS_LAT_LAT_Q : Fld := ⟨0x03080, 15, 0⟩
@[reducible] def TB_LAUNCH_CTL_WINDOW_NS : Fld := ⟨0x03088, 25, 16⟩
@[reducible] def TB_LAUNCH_CTL_CXL_NS : Fld := ⟨0x03088, 9, 0⟩
@[reducible] def TB_LAUNCH_STATUS_CANCELLING : Fld := ⟨0x03090, 35, 35⟩
@[reducible] def TB_LAUNCH_STATUS_SLOW_REQ : Fld := ⟨0x03090, 34, 34⟩
@[reducible] def TB_LAUNCH_STATUS_LAUNCHED : Fld := ⟨0x03090, 24, 0⟩
@[reducible] def TB_XERR_LAST : Fld := ⟨0x03098, 35, 18⟩
@[reducible] def TB_XERR_MAX : Fld := ⟨0x03098, 17, 0⟩
@[reducible] def TB_JNL_STATUS_COUNT : Fld := ⟨0x030A0, 35, 19⟩
@[reducible] def TB_JNL_STATUS_RESTORED : Fld := ⟨0x030A0, 18, 18⟩
@[reducible] def TB_JNL_STATUS_TRUNC : Fld := ⟨0x030A0, 17, 17⟩
@[reducible] def TB_JNL_STATUS_RESTORED_CNT : Fld := ⟨0x030A0, 16, 13⟩
@[reducible] def TB_JNL_STATUS_TRUNC_CNT : Fld := ⟨0x030A0, 12, 9⟩
@[reducible] def TB_JNL_TOTAL_TOTAL : Fld := ⟨0x030A8, 35, 0⟩
@[reducible] def TB_EVT_HOLDOVER : Fld := ⟨0x030B0, 6, 6⟩
@[reducible] def TB_EVT_STEP_REFUSED : Fld := ⟨0x030B0, 5, 5⟩
@[reducible] def TB_EVT_JNL_FULL : Fld := ⟨0x030B0, 4, 4⟩
@[reducible] def TB_EVT_OVERSPEED : Fld := ⟨0x030B0, 3, 3⟩
@[reducible] def TB_EVT_NOT_READY : Fld := ⟨0x030B0, 2, 2⟩
@[reducible] def TB_EVT_CANCEL : Fld := ⟨0x030B0, 1, 1⟩
@[reducible] def TB_EVT_DISPLACED : Fld := ⟨0x030B0, 0, 0⟩
@[reducible] def TB_EVT_CNT_CLEAR : Fld := ⟨0x030B8, 35, 35⟩
@[reducible] def TB_EVT_CNT_HOLD_CNT : Fld := ⟨0x030B8, 27, 24⟩
@[reducible] def TB_EVT_CNT_STEP_CNT : Fld := ⟨0x030B8, 23, 20⟩
@[reducible] def TB_EVT_CNT_FULL_CNT : Fld := ⟨0x030B8, 19, 16⟩
@[reducible] def TB_EVT_CNT_OVER_CNT : Fld := ⟨0x030B8, 15, 12⟩
@[reducible] def TB_EVT_CNT_NR_CNT : Fld := ⟨0x030B8, 11, 8⟩
@[reducible] def TB_EVT_CNT_CXL_CNT : Fld := ⟨0x030B8, 7, 4⟩
@[reducible] def TB_EVT_CNT_DISP_CNT : Fld := ⟨0x030B8, 3, 0⟩
@[reducible] def TB_JNL_DROP_DROPPED : Fld := ⟨0x030C0, 16, 0⟩
@[reducible] def MOT_CTL_HORIZON_US : Fld := ⟨0x04000, 35, 26⟩
@[reducible] def MOT_CTL_SP_LEAD_US : Fld := ⟨0x04000, 25, 17⟩
@[reducible] def MOT_STATUS_MOVING : Fld := ⟨0x04008, 35, 32⟩
@[reducible] def MOT_STATUS_HOMED : Fld := ⟨0x04008, 31, 28⟩
@[reducible] def MOT_STATUS_FAULTED : Fld := ⟨0x04008, 27, 24⟩
@[reducible] def MOT_STATUS_SCAN : Fld := ⟨0x04008, 23, 21⟩
@[reducible] def MOT_SCAN_V_MAX : Fld := ⟨0x04010, 35, 16⟩
@[reducible] def MOT_SCAN_MARGIN_PX : Fld := ⟨0x04010, 15, 0⟩
@[reducible] def MOT_SCAN_LIM_A_SCAN : Fld := ⟨0x04018, 35, 20⟩
@[reducible] def MOT_SCAN_LIM_J_SCAN : Fld := ⟨0x04018, 19, 4⟩
@[reducible] def MOT_PLAN_UTIL : Fld := ⟨0x04020, 35, 28⟩
@[reducible] def MOT_PLAN_SLOW_FACTOR : Fld := ⟨0x04020, 27, 20⟩
@[reducible] def MOT_PLAN_LOOK : Fld := ⟨0x04020, 19, 12⟩
@[reducible] def MOT_PLAN_DV_MIN : Fld := ⟨0x04020, 11, 0⟩
@[reducible] def MOT_RUN_RUNUP_PX : Fld := ⟨0x04028, 35, 20⟩
@[reducible] def MOT_RUN_SLOW_HOLD_MS : Fld := ⟨0x04028, 19, 10⟩
@[reducible] def MOT_PLAN_STATUS_V_TGT : Fld := ⟨0x04030, 35, 16⟩
@[reducible] def MOT_PLAN_STATUS_BIND : Fld := ⟨0x04030, 15, 13⟩
@[reducible] def MOT_EVT_HOME_ABORT : Fld := ⟨0x04038, 6, 6⟩
@[reducible] def MOT_EVT_SLOW : Fld := ⟨0x04038, 5, 5⟩
@[reducible] def MOT_EVT_FRONT_STOP : Fld := ⟨0x04038, 4, 4⟩
@[reducible] def MOT_EVT_REVERSE : Fld := ⟨0x04038, 3, 3⟩
@[reducible] def MOT_EVT_HOMED : Fld := ⟨0x04038, 2, 2⟩
@[reducible] def MOT_EVT_MOVE_DONE : Fld := ⟨0x04038, 1, 1⟩
@[reducible] def MOT_EVT_FAULT : Fld := ⟨0x04038, 0, 0⟩
@[reducible] def MOT_EVT_CNT_CLEAR : Fld := ⟨0x04040, 35, 35⟩
@[reducible] def MOT_EVT_CNT_COUNTS : Fld := ⟨0x04040, 27, 0⟩
@[reducible] def MOT_AX_CTL_XCHK_EN (i : Nat) : Fld := ⟨0x04100 + 0x80 * i, 35, 35⟩
@[reducible] def MOT_AX_CTL_PRIMARY (i : Nat) : Fld := ⟨0x04100 + 0x80 * i, 34, 34⟩
@[reducible] def MOT_AX_CTL_REF_DIR (i : Nat) : Fld := ⟨0x04100 + 0x80 * i, 33, 33⟩
@[reducible] def MOT_AX_CTL_DEV_CNT (i : Nat) : Fld := ⟨0x04100 + 0x80 * i, 32, 29⟩
@[reducible] def MOT_AX_CTL_HOME_V (i : Nat) : Fld := ⟨0x04100 + 0x80 * i, 28, 9⟩
@[reducible] def MOT_AX_STATUS_MOVING (i : Nat) : Fld := ⟨0x04108 + 0x80 * i, 35, 35⟩
@[reducible] def MOT_AX_STATUS_HOMED (i : Nat) : Fld := ⟨0x04108 + 0x80 * i, 34, 34⟩
@[reducible] def MOT_AX_STATUS_FAULTED (i : Nat) : Fld := ⟨0x04108 + 0x80 * i, 33, 33⟩
@[reducible] def MOT_AX_STATUS_HOMING (i : Nat) : Fld := ⟨0x04108 + 0x80 * i, 32, 32⟩
@[reducible] def MOT_AX_STATUS_STOPPING (i : Nat) : Fld := ⟨0x04108 + 0x80 * i, 31, 31⟩
@[reducible] def MOT_AX_STATUS_LIMIT_HOLD (i : Nat) : Fld := ⟨0x04108 + 0x80 * i, 30, 30⟩
@[reducible] def MOT_AX_STATUS_LIM_P (i : Nat) : Fld := ⟨0x04108 + 0x80 * i, 29, 29⟩
@[reducible] def MOT_AX_STATUS_LIM_M (i : Nat) : Fld := ⟨0x04108 + 0x80 * i, 28, 28⟩
@[reducible] def MOT_AX_VEL_V_MOVE (i : Nat) : Fld := ⟨0x04110 + 0x80 * i, 35, 16⟩
@[reducible] def MOT_AX_VEL_BACKOFF_NM (i : Nat) : Fld := ⟨0x04110 + 0x80 * i, 15, 0⟩
@[reducible] def MOT_AX_ACC_A_MOVE (i : Nat) : Fld := ⟨0x04118 + 0x80 * i, 35, 20⟩
@[reducible] def MOT_AX_ACC_A_STOP (i : Nat) : Fld := ⟨0x04118 + 0x80 * i, 19, 4⟩
@[reducible] def MOT_AX_JERK_J_MOVE (i : Nat) : Fld := ⟨0x04120 + 0x80 * i, 35, 20⟩
@[reducible] def MOT_AX_JERK_J_STOP (i : Nat) : Fld := ⟨0x04120 + 0x80 * i, 19, 4⟩
@[reducible] def MOT_AX_DEV_DEV_NM (i : Nat) : Fld := ⟨0x04128 + 0x80 * i, 35, 18⟩
@[reducible] def MOT_AX_DEV_XCHK_NM (i : Nat) : Fld := ⟨0x04128 + 0x80 * i, 17, 0⟩
@[reducible] def MOT_AX_HOME_POS_HOME_POS (i : Nat) : Fld := ⟨0x04130 + 0x80 * i, 35, 0⟩
@[reducible] def MOT_AX_SOFT_MIN_SOFT_MIN (i : Nat) : Fld := ⟨0x04138 + 0x80 * i, 35, 0⟩
@[reducible] def MOT_AX_SOFT_MAX_SOFT_MAX (i : Nat) : Fld := ⟨0x04140 + 0x80 * i, 35, 0⟩
@[reducible] def MOT_AX_MEAS_MEAS (i : Nat) : Fld := ⟨0x04148 + 0x80 * i, 35, 0⟩
@[reducible] def MOT_AX_PLAN_PLAN (i : Nat) : Fld := ⟨0x04150 + 0x80 * i, 35, 0⟩
@[reducible] def MOT_AX_STOPPT_STOPPT (i : Nat) : Fld := ⟨0x04158 + 0x80 * i, 35, 0⟩
@[reducible] def MOT_AX_FAULT_POS_LOST (i : Nat) : Fld := ⟨0x04160 + 0x80 * i, 5, 5⟩
@[reducible] def MOT_AX_FAULT_XCHECK (i : Nat) : Fld := ⟨0x04160 + 0x80 * i, 4, 4⟩
@[reducible] def MOT_AX_FAULT_DEVIATION (i : Nat) : Fld := ⟨0x04160 + 0x80 * i, 3, 3⟩
@[reducible] def MOT_AX_FAULT_CHATTER (i : Nat) : Fld := ⟨0x04160 + 0x80 * i, 2, 2⟩
@[reducible] def MOT_AX_FAULT_LIMIT_M (i : Nat) : Fld := ⟨0x04160 + 0x80 * i, 1, 1⟩
@[reducible] def MOT_AX_FAULT_LIMIT_P (i : Nat) : Fld := ⟨0x04160 + 0x80 * i, 0, 0⟩
@[reducible] def MOT_AX_FAULT_CNT_CLEAR (i : Nat) : Fld := ⟨0x04168 + 0x80 * i, 35, 35⟩
@[reducible] def MOT_AX_FAULT_CNT_COUNTS (i : Nat) : Fld := ⟨0x04168 + 0x80 * i, 23, 0⟩
@[reducible] def CAM_CTL_PCLK_FALL : Fld := ⟨0x05000, 35, 35⟩
@[reducible] def CAM_CTL_WDOG_MS : Fld := ⟨0x05000, 34, 25⟩
@[reducible] def CAM_GEOM_WIDTH : Fld := ⟨0x05008, 35, 22⟩
@[reducible] def CAM_GEOM_HEIGHT : Fld := ⟨0x05008, 21, 8⟩
@[reducible] def CAM_TRIG_EXP_US : Fld := ⟨0x05010, 35, 16⟩
@[reducible] def CAM_GRID_ORG_X0 : Fld := ⟨0x05018, 35, 18⟩
@[reducible] def CAM_GRID_ORG_Y0 : Fld := ⟨0x05018, 17, 0⟩
@[reducible] def CAM_GRID_COL_DXC : Fld := ⟨0x05020, 35, 18⟩
@[reducible] def CAM_GRID_COL_DYC : Fld := ⟨0x05020, 17, 0⟩
@[reducible] def CAM_GRID_ROW_DXR : Fld := ⟨0x05028, 35, 18⟩
@[reducible] def CAM_GRID_ROW_DYR : Fld := ⟨0x05028, 17, 0⟩
@[reducible] def CAM_SPOT_W : Fld := ⟨0x05030, 35, 32⟩
@[reducible] def CAM_SPOT_DEAD_FRAC : Fld := ⟨0x05030, 31, 20⟩
@[reducible] def CAM_SPOT_POS_TOL : Fld := ⟨0x05030, 19, 8⟩
@[reducible] def CAM_BEAM_CODE : Fld := ⟨0x05038, 35, 30⟩
@[reducible] def CAM_BEAM_WARM : Fld := ⟨0x05038, 29, 14⟩
@[reducible] def CAM_IREF_IREF : Fld := ⟨0x05040, 35, 0⟩
@[reducible] def CAM_COMMIT_GO : Fld := ⟨0x05048, 35, 35⟩
@[reducible] def CAM_COMMIT_PENDING : Fld := ⟨0x05048, 34, 34⟩
@[reducible] def CAM_COMMIT_SEQ : Fld := ⟨0x05048, 31, 0⟩
@[reducible] def CAM_FSTAT0_CLASS : Fld := ⟨0x05050, 35, 33⟩
@[reducible] def CAM_FSTAT0_FRAME_NO : Fld := ⟨0x05050, 31, 0⟩
@[reducible] def CAM_FSTAT1_SEQ : Fld := ⟨0x05058, 31, 0⟩
@[reducible] def CAM_FSTAT2_MAX : Fld := ⟨0x05060, 35, 22⟩
@[reducible] def CAM_FSTAT2_MEAN : Fld := ⟨0x05060, 21, 6⟩
@[reducible] def CAM_FSTAT3_SAT : Fld := ⟨0x05068, 35, 14⟩
@[reducible] def CAM_FSTAT3_LINES : Fld := ⟨0x05068, 13, 0⟩
@[reducible] def CAM_DROP_LINES : Fld := ⟨0x05070, 35, 18⟩
@[reducible] def CAM_DROP_PIXELS : Fld := ⟨0x05070, 17, 0⟩
@[reducible] def CAM_EVT_DISC : Fld := ⟨0x05078, 3, 3⟩
@[reducible] def CAM_EVT_WDOG : Fld := ⟨0x05078, 2, 2⟩
@[reducible] def CAM_EVT_LONG : Fld := ⟨0x05078, 1, 1⟩
@[reducible] def CAM_EVT_SHORT : Fld := ⟨0x05078, 0, 0⟩
@[reducible] def CAM_EVT_CNT_CLEAR : Fld := ⟨0x05080, 35, 35⟩
@[reducible] def CAM_EVT_CNT_COUNTS : Fld := ⟨0x05080, 15, 0⟩
@[reducible] def CAL_STATUS_KIND : Fld := ⟨0x06000, 35, 28⟩
@[reducible] def CAL_STATUS_RUNNING : Fld := ⟨0x06000, 27, 27⟩
@[reducible] def CAL_STATUS_PENDING : Fld := ⟨0x06000, 26, 26⟩
@[reducible] def CAL_STATUS_CAND_DARK : Fld := ⟨0x06000, 25, 25⟩
@[reducible] def CAL_STATUS_CAND_FLAT : Fld := ⟨0x06000, 24, 24⟩
@[reducible] def CAL_STATUS_CAND_BEAMS : Fld := ⟨0x06000, 23, 23⟩
@[reducible] def CAL_LAST_WORD (i : Nat) : Fld := ⟨0x06008 + 0x8 * i, 35, 0⟩
@[reducible] def CAL_TRIM_SEL_KIND : Fld := ⟨0x06040, 35, 28⟩
@[reducible] def CAL_TRIM_SEL_INDEX : Fld := ⟨0x06040, 5, 0⟩
@[reducible] def CAL_TRIM_DATA_DATA : Fld := ⟨0x06048, 35, 0⟩
@[reducible] def CAL_HOLDUP_CAP_MF : Fld := ⟨0x06050, 35, 20⟩
@[reducible] def CAL_HOLDUP_VMIN_MV : Fld := ⟨0x06050, 19, 4⟩
@[reducible] def CAL_HOLDUP_COST_BASE_MJ : Fld := ⟨0x06058, 35, 20⟩
@[reducible] def CAL_HOLDUP_COST_UJ_PER_KIB : Fld := ⟨0x06058, 19, 0⟩
@[reducible] def CAL_HOLDUP_MEAS_V_MV : Fld := ⟨0x06060, 35, 20⟩
@[reducible] def CAL_HOLDUP_MEAS_E_MJ : Fld := ⟨0x06060, 19, 0⟩
@[reducible] def CAL_NVM_STATUS_TRIM_HALF : Fld := ⟨0x06068, 35, 35⟩
@[reducible] def CAL_NVM_STATUS_TBL_HALF : Fld := ⟨0x06068, 34, 34⟩
@[reducible] def CAL_NVM_STATUS_JNL_ERASED : Fld := ⟨0x06068, 33, 33⟩
@[reducible] def CAL_NVM_STATUS_TRIM_FREE : Fld := ⟨0x06068, 32, 20⟩
@[reducible] def CAL_NVM_STATUS_TBL_FREE : Fld := ⟨0x06068, 19, 7⟩
@[reducible] def CAL_NVM_STATUS_JNL_HALF : Fld := ⟨0x06068, 6, 6⟩
@[reducible] def CAL_NVM_SEQ_SEQ : Fld := ⟨0x06070, 35, 0⟩
@[reducible] def CAL_EVT_ABANDON : Fld := ⟨0x06078, 3, 3⟩
@[reducible] def CAL_EVT_REC_BAD : Fld := ⟨0x06078, 2, 2⟩
@[reducible] def CAL_EVT_HOLDUP_LOW : Fld := ⟨0x06078, 1, 1⟩
@[reducible] def CAL_EVT_CAP_FAIL : Fld := ⟨0x06078, 0, 0⟩
@[reducible] def CAL_EVT_CNT_CLEAR : Fld := ⟨0x06080, 35, 35⟩
@[reducible] def CAL_EVT_CNT_COUNTS : Fld := ⟨0x06080, 15, 0⟩
@[reducible] def DGH_STATUS_ACTIVE : Fld := ⟨0x08000, 35, 35⟩
@[reducible] def DGH_STATUS_SLOTS_FREE : Fld := ⟨0x08000, 34, 28⟩
@[reducible] def DGH_STATUS_NEXT_LOAF : Fld := ⟨0x08000, 27, 27⟩
@[reducible] def DGH_STATUS_NEXT_ROW : Fld := ⟨0x08000, 16, 0⟩
@[reducible] def DGH_ERR_CLEAR : Fld := ⟨0x08008, 35, 35⟩
@[reducible] def DGH_ERR_VALID : Fld := ⟨0x08008, 34, 34⟩
@[reducible] def DGH_ERR_CODE : Fld := ⟨0x08008, 33, 28⟩
@[reducible] def DGH_ERR_ROW : Fld := ⟨0x08008, 27, 11⟩
@[reducible] def DGH_ERR_COL : Fld := ⟨0x08008, 10, 6⟩
@[reducible] def DGH_ERR_COL_VALID : Fld := ⟨0x08008, 5, 5⟩
@[reducible] def DGH_ERR_WORD_WORD : Fld := ⟨0x08010, 21, 0⟩
@[reducible] def DGH_EVT_SEG_DROP : Fld := ⟨0x08018, 3, 3⟩
@[reducible] def DGH_EVT_TILE_BAD : Fld := ⟨0x08018, 2, 2⟩
@[reducible] def DGH_EVT_ROW_BAD : Fld := ⟨0x08018, 1, 1⟩
@[reducible] def DGH_EVT_HDR_BAD : Fld := ⟨0x08018, 0, 0⟩
@[reducible] def DGH_EVT_CNT_CLEAR : Fld := ⟨0x08020, 35, 35⟩
@[reducible] def DGH_EVT_CNT_SEG_DROP_CNT : Fld := ⟨0x08020, 31, 24⟩
@[reducible] def DGH_EVT_CNT_TILE_BAD_CNT : Fld := ⟨0x08020, 23, 16⟩
@[reducible] def DGH_EVT_CNT_ROW_BAD_CNT : Fld := ⟨0x08020, 15, 8⟩
@[reducible] def DGH_EVT_CNT_HDR_BAD_CNT : Fld := ⟨0x08020, 7, 0⟩
@[reducible] def DGH_BYTES_IN_BYTES : Fld := ⟨0x08028, 35, 0⟩
@[reducible] def KNX_CL_STATUS_OFFLINE (i : Nat) : Fld := ⟨0x10000 + 0x400 * i, 35, 35⟩
@[reducible] def KNX_CL_STATUS_BUSY (i : Nat) : Fld := ⟨0x10000 + 0x400 * i, 34, 30⟩
@[reducible] def KNX_CL_STATUS_CHECKING (i : Nat) : Fld := ⟨0x10000 + 0x400 * i, 29, 29⟩
@[reducible] def KNX_CL_CTL_OFFLINE (i : Nat) : Fld := ⟨0x10008 + 0x400 * i, 0, 0⟩
@[reducible] def KNX_CL_TILES_COUNT (i : Nat) : Fld := ⟨0x10010 + 0x400 * i, 35, 0⟩
@[reducible] def KNX_CL_CROSS_CROSSINGS (i : Nat) : Fld := ⟨0x10018 + 0x400 * i, 35, 0⟩
@[reducible] def KNX_CL_MIS_CLEAR (i : Nat) : Fld := ⟨0x10020 + 0x400 * i, 35, 35⟩
@[reducible] def KNX_CL_MIS_VALID (i : Nat) : Fld := ⟨0x10020 + 0x400 * i, 34, 34⟩
@[reducible] def KNX_CL_MIS_CAUSE (i : Nat) : Fld := ⟨0x10020 + 0x400 * i, 33, 32⟩
@[reducible] def KNX_CL_MIS_ROW (i : Nat) : Fld := ⟨0x10020 + 0x400 * i, 31, 16⟩
@[reducible] def KNX_CL_MIS_COL (i : Nat) : Fld := ⟨0x10020 + 0x400 * i, 15, 11⟩
@[reducible] def KNX_CL_MIS_NEXT_LOAF (i : Nat) : Fld := ⟨0x10020 + 0x400 * i, 10, 10⟩
@[reducible] def KNX_CL_MIS_K_KSUM (i : Nat) : Fld := ⟨0x10028 + 0x400 * i, 35, 0⟩
@[reducible] def KNX_CL_MIS_A_ASUM (i : Nat) : Fld := ⟨0x10030 + 0x400 * i, 35, 0⟩
@[reducible] def KNX_CL_MIS_P_PART (i : Nat) : Fld := ⟨0x10038 + 0x400 * i, 24, 0⟩
@[reducible] def KNX_CL_EVT_DOSE_SAT (i : Nat) : Fld := ⟨0x10040 + 0x400 * i, 2, 2⟩
@[reducible] def KNX_CL_EVT_BAD_TILE (i : Nat) : Fld := ⟨0x10040 + 0x400 * i, 1, 1⟩
@[reducible] def KNX_CL_EVT_MISMATCH (i : Nat) : Fld := ⟨0x10040 + 0x400 * i, 0, 0⟩
@[reducible] def KNX_CL_EVT_CNT_CLEAR (i : Nat) : Fld := ⟨0x10048 + 0x400 * i, 35, 35⟩
@[reducible] def KNX_CL_EVT_CNT_DOSE_SAT_CNT (i : Nat) : Fld := ⟨0x10048 + 0x400 * i, 23, 16⟩
@[reducible] def KNX_CL_EVT_CNT_BAD_TILE_CNT (i : Nat) : Fld := ⟨0x10048 + 0x400 * i, 15, 8⟩
@[reducible] def KNX_CL_EVT_CNT_MISMATCH_CNT (i : Nat) : Fld := ⟨0x10048 + 0x400 * i, 7, 0⟩
@[reducible] def KNX_CL_SAT_CNT_PIXELS (i : Nat) : Fld := ⟨0x10050 + 0x400 * i, 35, 0⟩
@[reducible] def PLC_CTL_STRIKE_LIMIT : Fld := ⟨0x20000, 20, 17⟩
@[reducible] def PLC_CTL_WDOG_US : Fld := ⟨0x20000, 16, 0⟩
@[reducible] def PLC_FRONT_VALID : Fld := ⟨0x20008, 35, 35⟩
@[reducible] def PLC_FRONT_BLOCKED : Fld := ⟨0x20008, 34, 34⟩
@[reducible] def PLC_FRONT_READY_ROW : Fld := ⟨0x20008, 32, 16⟩
@[reducible] def PLC_FRONT_LOAF_ID : Fld := ⟨0x20008, 15, 0⟩
@[reducible] def PLC_STATUS_IN_FLIGHT : Fld := ⟨0x20010, 35, 25⟩
@[reducible] def PLC_STATUS_WAITERS : Fld := ⟨0x20010, 24, 14⟩
@[reducible] def PLC_STATUS_PC_LIVE : Fld := ⟨0x20010, 13, 7⟩
@[reducible] def PLC_STATUS_CL_ELIGIBLE : Fld := ⟨0x20010, 6, 0⟩
@[reducible] def PLC_CL_OUT_LO_OUT : Fld := ⟨0x20018, 31, 0⟩
@[reducible] def PLC_CL_OUT_HI_OUT : Fld := ⟨0x20020, 31, 0⟩
@[reducible] def PLC_PC_RETIRED_LO_RETIRED : Fld := ⟨0x20028, 31, 0⟩
@[reducible] def PLC_PC_RETIRED_HI_RETIRED : Fld := ⟨0x20030, 31, 0⟩
@[reducible] def PLC_EVT_FRONT_BLOCK : Fld := ⟨0x20038, 4, 4⟩
@[reducible] def PLC_EVT_FRONT_BACK : Fld := ⟨0x20038, 3, 3⟩
@[reducible] def PLC_EVT_CL_OUT : Fld := ⟨0x20038, 2, 2⟩
@[reducible] def PLC_EVT_WDOG : Fld := ⟨0x20038, 1, 1⟩
@[reducible] def PLC_EVT_ORDER_REFUSE : Fld := ⟨0x20038, 0, 0⟩
@[reducible] def PLC_EVT_CNT_CLEAR : Fld := ⟨0x20040, 35, 35⟩
@[reducible] def PLC_EVT_CNT_FRONT_BLOCK_CNT : Fld := ⟨0x20040, 29, 24⟩
@[reducible] def PLC_EVT_CNT_FRONT_BACK_CNT : Fld := ⟨0x20040, 23, 18⟩
@[reducible] def PLC_EVT_CNT_CL_OUT_CNT : Fld := ⟨0x20040, 17, 12⟩
@[reducible] def PLC_EVT_CNT_WDOG_CNT : Fld := ⟨0x20040, 11, 6⟩
@[reducible] def PLC_EVT_CNT_ORDER_CNT : Fld := ⟨0x20040, 5, 0⟩
@[reducible] def PLC_CL_RATE_STRIKES (i : Nat) : Fld := ⟨0x20100 + 0x8 * i, 35, 32⟩
@[reducible] def PLC_CL_RATE_RATE (i : Nat) : Fld := ⟨0x20100 + 0x8 * i, 31, 18⟩
@[reducible] def PLC_CL_RATE_BACKLOG (i : Nat) : Fld := ⟨0x20100 + 0x8 * i, 17, 0⟩
@[reducible] def PRF_CTL_RING_PC_MIB : Fld := ⟨0x28000, 25, 16⟩
@[reducible] def PRF_CTL_LEVEL : Fld := ⟨0x28000, 15, 12⟩
@[reducible] def PRF_ACTIVE_RING_PC_MIB : Fld := ⟨0x28008, 25, 16⟩
@[reducible] def PRF_ACTIVE_LEVEL : Fld := ⟨0x28008, 15, 12⟩
@[reducible] def PRF_ACTIVE_MODE : Fld := ⟨0x28008, 11, 11⟩
@[reducible] def PRF_STATUS_FREE_PAGES : Fld := ⟨0x28010, 33, 10⟩
@[reducible] def PRF_STATUS_STOPPED : Fld := ⟨0x28010, 9, 3⟩
@[reducible] def PRF_RING_RING_PAGES : Fld := ⟨0x28018, 23, 0⟩
@[reducible] def PRF_STALL_CLEAR : Fld := ⟨0x28020, 35, 35⟩
@[reducible] def PRF_STALL_VALID : Fld := ⟨0x28020, 34, 34⟩
@[reducible] def PRF_STALL_CLUSTER : Fld := ⟨0x28020, 33, 28⟩
@[reducible] def PRF_STALL_ROW : Fld := ⟨0x28020, 27, 12⟩
@[reducible] def PRF_STALL_COL : Fld := ⟨0x28020, 11, 7⟩
@[reducible] def PRF_STALL_NEXT_LOAF : Fld := ⟨0x28020, 6, 6⟩
@[reducible] def PRF_STALL_POS_IN_BYTES : Fld := ⟨0x28028, 33, 17⟩
@[reducible] def PRF_STALL_POS_OUT_BYTES : Fld := ⟨0x28028, 16, 0⟩
@[reducible] def PRF_ERR_CLEAR : Fld := ⟨0x28030, 35, 35⟩
@[reducible] def PRF_ERR_VALID : Fld := ⟨0x28030, 34, 34⟩
@[reducible] def PRF_ERR_CODE : Fld := ⟨0x28030, 33, 31⟩
@[reducible] def PRF_ERR_FILLER : Fld := ⟨0x28030, 30, 27⟩
@[reducible] def PRF_ERR_ROW : Fld := ⟨0x28030, 26, 11⟩
@[reducible] def PRF_ERR_COL : Fld := ⟨0x28030, 10, 6⟩
@[reducible] def PRF_ERR_REBUILD : Fld := ⟨0x28030, 5, 5⟩
@[reducible] def PRF_EVT_STORED : Fld := ⟨0x28038, 3, 3⟩
@[reducible] def PRF_EVT_SEG_REBUILD : Fld := ⟨0x28038, 2, 2⟩
@[reducible] def PRF_EVT_BLOCK_BAD : Fld := ⟨0x28038, 1, 1⟩
@[reducible] def PRF_EVT_PAGES_STOP : Fld := ⟨0x28038, 0, 0⟩
@[reducible] def PRF_EVT_CNT_CLEAR : Fld := ⟨0x28040, 35, 35⟩
@[reducible] def PRF_EVT_CNT_STORED_CNT : Fld := ⟨0x28040, 31, 24⟩
@[reducible] def PRF_EVT_CNT_REBUILD_CNT : Fld := ⟨0x28040, 23, 16⟩
@[reducible] def PRF_EVT_CNT_BLOCK_BAD_CNT : Fld := ⟨0x28040, 15, 8⟩
@[reducible] def PRF_EVT_CNT_STOP_CNT : Fld := ⟨0x28040, 7, 0⟩
@[reducible] def PRF_ORIG_BYTES_BYTES : Fld := ⟨0x28048, 35, 0⟩
@[reducible] def PRF_COMP_BYTES_BYTES : Fld := ⟨0x28050, 35, 0⟩
@[reducible] def PRF_WIN_0_VALID : Fld := ⟨0x28058, 35, 35⟩
@[reducible] def PRF_WIN_0_RUNNING : Fld := ⟨0x28058, 34, 34⟩
@[reducible] def PRF_WIN_0_LOAF_ORD : Fld := ⟨0x28058, 33, 18⟩
@[reducible] def PRF_WIN_0_FRONT : Fld := ⟨0x28058, 16, 0⟩
@[reducible] def PRF_WIN_1_VALID : Fld := ⟨0x28060, 35, 35⟩
@[reducible] def PRF_WIN_1_RUNNING : Fld := ⟨0x28060, 34, 34⟩
@[reducible] def PRF_WIN_1_LOAF_ORD : Fld := ⟨0x28060, 33, 18⟩
@[reducible] def PRF_WIN_1_FRONT : Fld := ⟨0x28060, 16, 0⟩
@[reducible] def MEM_PC_STATUS_RETIRED (i : Nat) : Fld := ⟨0x30000 + 0x200 * i, 35, 35⟩
@[reducible] def MEM_PC_STATUS_TRAINING (i : Nat) : Fld := ⟨0x30000 + 0x200 * i, 34, 34⟩
@[reducible] def MEM_PC_STATUS_RETRAIN_DUE (i : Nat) : Fld := ⟨0x30000 + 0x200 * i, 33, 33⟩
@[reducible] def MEM_PC_STATUS_SELF_REF (i : Nat) : Fld := ⟨0x30000 + 0x200 * i, 32, 32⟩
@[reducible] def MEM_PC_STATUS_POSTPONED (i : Nat) : Fld := ⟨0x30000 + 0x200 * i, 9, 7⟩
@[reducible] def MEM_PC_STATUS_ENTRIES (i : Nat) : Fld := ⟨0x30000 + 0x200 * i, 6, 0⟩
@[reducible] def MEM_PC_ECC_CE_CNT (i : Nat) : Fld := ⟨0x30008 + 0x200 * i, 35, 18⟩
@[reducible] def MEM_PC_ECC_UE_CNT (i : Nat) : Fld := ⟨0x30008 + 0x200 * i, 17, 0⟩
@[reducible] def MEM_PC_UE_CLEAR (i : Nat) : Fld := ⟨0x30010 + 0x200 * i, 35, 35⟩
@[reducible] def MEM_PC_UE_VALID (i : Nat) : Fld := ⟨0x30010 + 0x200 * i, 34, 34⟩
@[reducible] def MEM_PC_UE_PORT (i : Nat) : Fld := ⟨0x30010 + 0x200 * i, 33, 31⟩
@[reducible] def MEM_PC_UE_ADDR (i : Nat) : Fld := ⟨0x30010 + 0x200 * i, 29, 0⟩
@[reducible] def MEM_PC_REF_POSTPONE_CNT (i : Nat) : Fld := ⟨0x30018 + 0x200 * i, 35, 18⟩
@[reducible] def MEM_PC_REF_FORCED_CNT (i : Nat) : Fld := ⟨0x30018 + 0x200 * i, 17, 0⟩
@[reducible] def MEM_PC_LATE_LATE_CNT (i : Nat) : Fld := ⟨0x30020 + 0x200 * i, 35, 18⟩
@[reducible] def MEM_PC_LATE_MAX_LATE_NS (i : Nat) : Fld := ⟨0x30020 + 0x200 * i, 17, 0⟩
@[reducible] def MEM_PC_TRAIN_RESULT (i : Nat) : Fld := ⟨0x30028 + 0x200 * i, 35, 34⟩
@[reducible] def MEM_PC_TRAIN_TEMP (i : Nat) : Fld := ⟨0x30028 + 0x200 * i, 33, 26⟩
@[reducible] def MEM_PC_TRAIN_COUNT (i : Nat) : Fld := ⟨0x30028 + 0x200 * i, 15, 0⟩
@[reducible] def MEM_PC_BURSTS_BURSTS (i : Nat) : Fld := ⟨0x30030 + 0x200 * i, 35, 0⟩
@[reducible] def MEM_PC_EVT_RETIRED (i : Nat) : Fld := ⟨0x30038 + 0x200 * i, 4, 4⟩
@[reducible] def MEM_PC_EVT_REF_FORCED (i : Nat) : Fld := ⟨0x30038 + 0x200 * i, 3, 3⟩
@[reducible] def MEM_PC_EVT_LATE (i : Nat) : Fld := ⟨0x30038 + 0x200 * i, 2, 2⟩
@[reducible] def MEM_PC_EVT_UE (i : Nat) : Fld := ⟨0x30038 + 0x200 * i, 1, 1⟩
@[reducible] def MEM_PC_EVT_CE_LIMIT (i : Nat) : Fld := ⟨0x30038 + 0x200 * i, 0, 0⟩
@[reducible] def MEM_PC_EVT_CNT_CLEAR (i : Nat) : Fld := ⟨0x30040 + 0x200 * i, 35, 35⟩
@[reducible] def MEM_PC_EVT_CNT_RETIRED_CNT (i : Nat) : Fld := ⟨0x30040 + 0x200 * i, 29, 24⟩
@[reducible] def MEM_PC_EVT_CNT_FORCED_CNT (i : Nat) : Fld := ⟨0x30040 + 0x200 * i, 23, 18⟩
@[reducible] def MEM_PC_EVT_CNT_LATE_CNT (i : Nat) : Fld := ⟨0x30040 + 0x200 * i, 17, 12⟩
@[reducible] def MEM_PC_EVT_CNT_UE_CNT (i : Nat) : Fld := ⟨0x30040 + 0x200 * i, 11, 6⟩
@[reducible] def MEM_PC_EVT_CNT_CE_LIMIT_CNT (i : Nat) : Fld := ⟨0x30040 + 0x200 * i, 5, 0⟩
@[reducible] def MEM_CTL_SR_EN : Fld := ⟨0x30100, 35, 35⟩
@[reducible] def MEM_CTL_SR_DELAY_MS : Fld := ⟨0x30100, 34, 28⟩
@[reducible] def MEM_CTL_RT_RESERVE : Fld := ⟨0x30100, 27, 22⟩
@[reducible] def MEM_CTL_RETRAIN_DT : Fld := ⟨0x30100, 21, 16⟩
@[reducible] def MEM_CTL_CE_LIMIT : Fld := ⟨0x30100, 15, 0⟩
@[reducible] def MEM_REF_CTL_TREFI_NS : Fld := ⟨0x30108, 15, 0⟩
@[reducible] def MEM_STATUS_LIVE : Fld := ⟨0x30110, 35, 29⟩
@[reducible] def MEM_STATUS_SR : Fld := ⟨0x30110, 28, 28⟩
@[reducible] def MEM_STATUS_HOT : Fld := ⟨0x30110, 27, 26⟩
@[reducible] def MEM_STK_TEMP_TEMP1 : Fld := ⟨0x30118, 17, 9⟩
@[reducible] def MEM_STK_TEMP_TEMP0 : Fld := ⟨0x30118, 8, 0⟩
@[reducible] def MEM_EVT_HOT : Fld := ⟨0x30120, 1, 1⟩
@[reducible] def MEM_EVT_RETIRE_LIMIT : Fld := ⟨0x30120, 0, 0⟩
@[reducible] def MEM_EVT_CNT_CLEAR : Fld := ⟨0x30128, 35, 35⟩
@[reducible] def MEM_EVT_CNT_HOT_CNT : Fld := ⟨0x30128, 15, 8⟩
@[reducible] def MEM_EVT_CNT_LIMIT_CNT : Fld := ⟨0x30128, 7, 0⟩
@[reducible] def MEM_PORT_TGT_TARGET_NS (i : Nat) : Fld := ⟨0x30140 + 0x8 * i, 16, 0⟩
@[reducible] def SLC_STATUS_PAUSED : Fld := ⟨0x40000, 35, 35⟩
@[reducible] def SLC_STATUS_SOFT : Fld := ⟨0x40000, 34, 34⟩
@[reducible] def SLC_STATUS_EPOCHS : Fld := ⟨0x40000, 33, 31⟩
@[reducible] def SLC_STATUS_ENGINES : Fld := ⟨0x40000, 30, 25⟩
@[reducible] def SLC_STATUS_BUILT : Fld := ⟨0x40000, 24, 0⟩
@[reducible] def SLC_SPLIT_CTL_MIN_LIVE : Fld := ⟨0x40008, 6, 0⟩
@[reducible] def SLC_DWELL_GUARD_NS : Fld := ⟨0x40010, 18, 12⟩
@[reducible] def SLC_DWELL_TSUB : Fld := ⟨0x40010, 11, 0⟩
@[reducible] def SLC_PERIOD_MIN_NS : Fld := ⟨0x40018, 12, 0⟩
@[reducible] def SLC_KT_CTL_KT_PERIOD : Fld := ⟨0x40020, 31, 24⟩
@[reducible] def SLC_KT_CTL_KT_SLOPE : Fld := ⟨0x40020, 23, 12⟩
@[reducible] def SLC_KT_CTL_T_REF : Fld := ⟨0x40020, 11, 0⟩
@[reducible] def SLC_TE_CTL_TE_BASE : Fld := ⟨0x40028, 32, 28⟩
@[reducible] def SLC_TE_CTL_TE_SLOPE : Fld := ⟨0x40028, 27, 16⟩
@[reducible] def SLC_TE_CTL_V_REF_MV : Fld := ⟨0x40028, 15, 0⟩
@[reducible] def SLC_KT_PT (i : Nat) : Fld := ⟨0x40030 + 0x100 * i, 35, 24⟩
@[reducible] def SLC_KT_KT (i : Nat) : Fld := ⟨0x40030 + 0x100 * i, 16, 5⟩
@[reducible] def SLC_KT_TEDGE (i : Nat) : Fld := ⟨0x40030 + 0x100 * i, 4, 0⟩
@[reducible] def SLC_THERM_SOFT_RATE : Fld := ⟨0x40038, 35, 27⟩
@[reducible] def SLC_THERM_HARD_T : Fld := ⟨0x40038, 26, 18⟩
@[reducible] def SLC_THERM_SOFT_T : Fld := ⟨0x40038, 17, 9⟩
@[reducible] def SLC_THERM_RESUME_T : Fld := ⟨0x40038, 8, 0⟩
@[reducible] def SLC_COND_WIDTH : Fld := ⟨0x40040, 32, 29⟩
@[reducible] def SLC_COND_LIST_MAX : Fld := ⟨0x40040, 28, 16⟩
@[reducible] def SLC_COND_IDLE_N : Fld := ⟨0x40040, 15, 0⟩
@[reducible] def SLC_HEAT_CTL_EN : Fld := ⟨0x40048, 35, 35⟩
@[reducible] def SLC_HEAT_CTL_GAIN : Fld := ⟨0x40048, 15, 0⟩
@[reducible] def SLC_LIVE_MIN_NL : Fld := ⟨0x40050, 19, 13⟩
@[reducible] def SLC_LIVE_COLUMN : Fld := ⟨0x40050, 12, 0⟩
@[reducible] def SLC_EVT_PLATE_STALE : Fld := ⟨0x40058, 6, 6⟩
@[reducible] def SLC_EVT_HARD_T : Fld := ⟨0x40058, 5, 5⟩
@[reducible] def SLC_EVT_SOFT_T : Fld := ⟨0x40058, 4, 4⟩
@[reducible] def SLC_EVT_COND_OVF : Fld := ⟨0x40058, 3, 3⟩
@[reducible] def SLC_EVT_EPOCH_DEFER : Fld := ⟨0x40058, 2, 2⟩
@[reducible] def SLC_EVT_LOW_LIVE : Fld := ⟨0x40058, 1, 1⟩
@[reducible] def SLC_EVT_CLAMP : Fld := ⟨0x40058, 0, 0⟩
@[reducible] def SLC_EVT_CNT_CLEAR : Fld := ⟨0x40060, 35, 35⟩
@[reducible] def SLC_EVT_CNT_PLATE_CNT : Fld := ⟨0x40060, 27, 24⟩
@[reducible] def SLC_EVT_CNT_HARD_CNT : Fld := ⟨0x40060, 23, 20⟩
@[reducible] def SLC_EVT_CNT_SOFT_CNT : Fld := ⟨0x40060, 19, 16⟩
@[reducible] def SLC_EVT_CNT_COND_CNT : Fld := ⟨0x40060, 15, 12⟩
@[reducible] def SLC_EVT_CNT_DEFER_CNT : Fld := ⟨0x40060, 11, 8⟩
@[reducible] def SLC_EVT_CNT_LOW_CNT : Fld := ⟨0x40060, 7, 4⟩
@[reducible] def SLC_EVT_CNT_CLAMP_CNT_EVT : Fld := ⟨0x40060, 3, 0⟩
@[reducible] def SLC_CLAMP_CNT_COUNT : Fld := ⟨0x40068, 35, 0⟩
@[reducible] def SLC_LOWLIVE_CNT_COUNT : Fld := ⟨0x40070, 35, 0⟩
@[reducible] def SLC_HEAT_DECAY_FACTOR (i : Nat) : Fld := ⟨0x40800 + 0x8 * i, 16, 0⟩
@[reducible] def LNK_CTL_CODING : Fld := ⟨0x50000, 35, 35⟩
@[reducible] def LNK_CTL_FB_RATE : Fld := ⟨0x50000, 34, 33⟩
@[reducible] def LNK_CTL_TRAIN_MS : Fld := ⟨0x50000, 32, 25⟩
@[reducible] def LNK_CTL_ERR_LIMIT : Fld := ⟨0x50000, 24, 17⟩
@[reducible] def LNK_STATUS_GRP_UP : Fld := ⟨0x50008, 35, 32⟩
@[reducible] def LNK_STATUS_CLK_ON : Fld := ⟨0x50008, 31, 28⟩
@[reducible] def LNK_STATUS_BC_OK : Fld := ⟨0x50008, 27, 24⟩
@[reducible] def LNK_STATUS_PAIR_TX : Fld := ⟨0x50008, 23, 20⟩
@[reducible] def LNK_STATUS_PAIR_RX : Fld := ⟨0x50008, 19, 16⟩
@[reducible] def LNK_STATUS_ETH_UP : Fld := ⟨0x50008, 15, 14⟩
@[reducible] def LNK_STATUS_CODING : Fld := ⟨0x50008, 13, 13⟩
@[reducible] def LNK_STATUS_FB_RATE : Fld := ⟨0x50008, 12, 11⟩
@[reducible] def LNK_FB_MIN_MIN_NS : Fld := ⟨0x50010, 15, 0⟩
@[reducible] def LNK_LB_MODE : Fld := ⟨0x50018, 35, 34⟩
@[reducible] def LNK_LB_GROUPS : Fld := ⟨0x50018, 33, 30⟩
@[reducible] def LNK_LB_PAIR : Fld := ⟨0x50018, 29, 29⟩
@[reducible] def LNK_EVT_REPORT_LOST : Fld := ⟨0x50020, 7, 7⟩
@[reducible] def LNK_EVT_BC_LOST : Fld := ⟨0x50020, 6, 6⟩
@[reducible] def LNK_EVT_CLK_LOST : Fld := ⟨0x50020, 5, 5⟩
@[reducible] def LNK_EVT_DISCARD : Fld := ⟨0x50020, 4, 4⟩
@[reducible] def LNK_EVT_LANE_DEAD : Fld := ⟨0x50020, 3, 3⟩
@[reducible] def LNK_EVT_SPARE_USED : Fld := ⟨0x50020, 2, 2⟩
@[reducible] def LNK_EVT_LANE_FAIL : Fld := ⟨0x50020, 1, 1⟩
@[reducible] def LNK_EVT_TRAIN_FAIL : Fld := ⟨0x50020, 0, 0⟩
@[reducible] def LNK_EVT_CNT_CLEAR : Fld := ⟨0x50028, 35, 35⟩
@[reducible] def LNK_EVT_CNT_COUNTS : Fld := ⟨0x50028, 31, 0⟩
@[reducible] def LNK_PAIR_ERR_ERRORS : Fld := ⟨0x50030, 35, 0⟩
@[reducible] def LNK_GRP_STATUS_TRAINED (i : Nat) : Fld := ⟨0x50100 + 0x100 * i, 35, 27⟩
@[reducible] def LNK_GRP_STATUS_DEAD (i : Nat) : Fld := ⟨0x50100 + 0x100 * i, 26, 19⟩
@[reducible] def LNK_GRP_STATUS_SPARE_FOR (i : Nat) : Fld := ⟨0x50100 + 0x100 * i, 18, 15⟩
@[reducible] def LNK_GRP_STATUS_CLK_LOCK (i : Nat) : Fld := ⟨0x50100 + 0x100 * i, 14, 14⟩
@[reducible] def LNK_GRP_MAP_MAP (i : Nat) : Fld := ⟨0x50108 + 0x100 * i, 31, 0⟩
@[reducible] def LNK_GRP_BC_GOOD (i : Nat) : Fld := ⟨0x50110 + 0x100 * i, 35, 18⟩
@[reducible] def LNK_GRP_BC_BAD (i : Nat) : Fld := ⟨0x50110 + 0x100 * i, 17, 0⟩
@[reducible] def LNK_GRP_DISC_DISC_RX (i : Nat) : Fld := ⟨0x50118 + 0x100 * i, 35, 20⟩
@[reducible] def LNK_GRP_DISC_DISC_CNT (i : Nat) : Fld := ⟨0x50118 + 0x100 * i, 19, 4⟩
@[reducible] def LNK_LANE0_LB_ERR (i : Nat) : Fld := ⟨0x50140 + 0x100 * i, 35, 18⟩
@[reducible] def LNK_LANE0_DISC (i : Nat) : Fld := ⟨0x50140 + 0x100 * i, 17, 0⟩
@[reducible] def LNK_LANE1_LB_ERR (i : Nat) : Fld := ⟨0x50148 + 0x100 * i, 35, 18⟩
@[reducible] def LNK_LANE1_DISC (i : Nat) : Fld := ⟨0x50148 + 0x100 * i, 17, 0⟩
@[reducible] def LNK_LANE2_LB_ERR (i : Nat) : Fld := ⟨0x50150 + 0x100 * i, 35, 18⟩
@[reducible] def LNK_LANE2_DISC (i : Nat) : Fld := ⟨0x50150 + 0x100 * i, 17, 0⟩
@[reducible] def LNK_LANE3_LB_ERR (i : Nat) : Fld := ⟨0x50158 + 0x100 * i, 35, 18⟩
@[reducible] def LNK_LANE3_DISC (i : Nat) : Fld := ⟨0x50158 + 0x100 * i, 17, 0⟩
@[reducible] def LNK_LANE4_LB_ERR (i : Nat) : Fld := ⟨0x50160 + 0x100 * i, 35, 18⟩
@[reducible] def LNK_LANE4_DISC (i : Nat) : Fld := ⟨0x50160 + 0x100 * i, 17, 0⟩
@[reducible] def LNK_LANE5_LB_ERR (i : Nat) : Fld := ⟨0x50168 + 0x100 * i, 35, 18⟩
@[reducible] def LNK_LANE5_DISC (i : Nat) : Fld := ⟨0x50168 + 0x100 * i, 17, 0⟩
@[reducible] def LNK_LANE6_LB_ERR (i : Nat) : Fld := ⟨0x50170 + 0x100 * i, 35, 18⟩
@[reducible] def LNK_LANE6_DISC (i : Nat) : Fld := ⟨0x50170 + 0x100 * i, 17, 0⟩
@[reducible] def LNK_LANE7_LB_ERR (i : Nat) : Fld := ⟨0x50178 + 0x100 * i, 35, 18⟩
@[reducible] def LNK_LANE7_DISC (i : Nat) : Fld := ⟨0x50178 + 0x100 * i, 17, 0⟩
@[reducible] def LNK_LANE8_LB_ERR (i : Nat) : Fld := ⟨0x50180 + 0x100 * i, 35, 18⟩
@[reducible] def LNK_LANE8_DISC (i : Nat) : Fld := ⟨0x50180 + 0x100 * i, 17, 0⟩
@[reducible] def LNK_ETH_MAC_HI_MAC_HI (i : Nat) : Fld := ⟨0x50600 + 0x40 * i, 23, 0⟩
@[reducible] def LNK_ETH_MAC_LO_MAC_LO (i : Nat) : Fld := ⟨0x50608 + 0x40 * i, 23, 0⟩
@[reducible] def LNK_ETH_IP_IP (i : Nat) : Fld := ⟨0x50610 + 0x40 * i, 31, 0⟩
@[reducible] def LNK_ETH_STATUS_UP (i : Nat) : Fld := ⟨0x50618 + 0x40 * i, 35, 35⟩
@[reducible] def LNK_ETH_STATUS_FCS_ERR (i : Nat) : Fld := ⟨0x50618 + 0x40 * i, 34, 17⟩
@[reducible] def PAIR_CTL_TOKEN_MS : Fld := ⟨0x60000, 35, 31⟩
@[reducible] def PAIR_CTL_BEAT_US : Fld := ⟨0x60000, 30, 21⟩
@[reducible] def PAIR_CTL_GAP_NS : Fld := ⟨0x60000, 20, 11⟩
@[reducible] def PAIR_STATUS_SIDE : Fld := ⟨0x60008, 35, 35⟩
@[reducible] def PAIR_STATUS_OWN : Fld := ⟨0x60008, 34, 34⟩
@[reducible] def PAIR_STATUS_PEER_OWN : Fld := ⟨0x60008, 33, 33⟩
@[reducible] def PAIR_STATUS_STATE : Fld := ⟨0x60008, 32, 30⟩
@[reducible] def PAIR_STATUS_ELIGIBLE : Fld := ⟨0x60008, 29, 29⟩
@[reducible] def PAIR_STATUS_WHY : Fld := ⟨0x60008, 28, 25⟩
@[reducible] def PAIR_PEER_READY_ROW : Fld := ⟨0x60010, 35, 19⟩
@[reducible] def PAIR_PEER_CORE_STATE : Fld := ⟨0x60010, 18, 16⟩
@[reducible] def PAIR_PEER_LOAF_ORD : Fld := ⟨0x60010, 15, 0⟩
@[reducible] def PAIR_PEER_LNCH_LAUNCHED : Fld := ⟨0x60018, 31, 0⟩
@[reducible] def PAIR_TKO_VALID : Fld := ⟨0x60020, 35, 35⟩
@[reducible] def PAIR_TKO_CAUSE : Fld := ⟨0x60020, 34, 31⟩
@[reducible] def PAIR_TKO_TOOK : Fld := ⟨0x60020, 30, 30⟩
@[reducible] def PAIR_TKO_UNASKED : Fld := ⟨0x60020, 29, 29⟩
@[reducible] def PAIR_TKO_FIRST_FIRST : Fld := ⟨0x60028, 31, 0⟩
@[reducible] def PAIR_TKO_FIRED_FIRED : Fld := ⟨0x60030, 31, 0⟩
@[reducible] def PAIR_DIFF_CLEAR : Fld := ⟨0x60038, 35, 35⟩
@[reducible] def PAIR_DIFF_VALID : Fld := ⟨0x60038, 34, 34⟩
@[reducible] def PAIR_DIFF_KIND : Fld := ⟨0x60038, 33, 33⟩
@[reducible] def PAIR_DIFF_LANE : Fld := ⟨0x60038, 32, 28⟩
@[reducible] def PAIR_DIFF_LOAF_ORD : Fld := ⟨0x60038, 27, 12⟩
@[reducible] def PAIR_DIFF_POS_POS : Fld := ⟨0x60040, 35, 0⟩
@[reducible] def PAIR_EVT_TAKEN : Fld := ⟨0x60048, 5, 5⟩
@[reducible] def PAIR_EVT_HANDED : Fld := ⟨0x60048, 4, 4⟩
@[reducible] def PAIR_EVT_SLICE_DIFF : Fld := ⟨0x60048, 3, 3⟩
@[reducible] def PAIR_EVT_SUM_DIFF : Fld := ⟨0x60048, 2, 2⟩
@[reducible] def PAIR_EVT_LINK_DOWN : Fld := ⟨0x60048, 1, 1⟩
@[reducible] def PAIR_EVT_INELIGIBLE : Fld := ⟨0x60048, 0, 0⟩
@[reducible] def PAIR_EVT_CNT_CLEAR : Fld := ⟨0x60050, 35, 35⟩
@[reducible] def PAIR_EVT_CNT_COUNTS : Fld := ⟨0x60050, 23, 0⟩
@[reducible] def TST_FLASH_ADDR_ADDR : Fld := ⟨0x70000, 23, 0⟩
@[reducible] def TST_FLASH_CMD_OP : Fld := ⟨0x70008, 35, 33⟩
@[reducible] def TST_FLASH_CMD_BUSY : Fld := ⟨0x70008, 32, 32⟩
@[reducible] def TST_FLASH_CMD_RESULT : Fld := ⟨0x70008, 31, 30⟩
@[reducible] def TST_BIST_GO : Fld := ⟨0x70010, 35, 35⟩
@[reducible] def TST_BIST_BUSY : Fld := ⟨0x70010, 34, 34⟩
@[reducible] def TST_BIST_LO_BANK : Fld := ⟨0x70018, 35, 32⟩
@[reducible] def TST_BIST_LO_CL : Fld := ⟨0x70018, 31, 0⟩
@[reducible] def TST_BIST_HI_CL : Fld := ⟨0x70020, 31, 0⟩
@[reducible] def TST_EVT_BIST_FAIL : Fld := ⟨0x70028, 1, 1⟩
@[reducible] def TST_EVT_FLASH_ERR : Fld := ⟨0x70028, 0, 0⟩
@[reducible] def TST_EVT_CNT_CLEAR : Fld := ⟨0x70030, 35, 35⟩
@[reducible] def TST_EVT_CNT_COUNTS : Fld := ⟨0x70030, 7, 0⟩
@[reducible] def TST_FLASH_BUF_BYTES (i : Nat) : Fld := ⟨0x70100 + 0x8 * i, 31, 0⟩

end Sys2Proof.Machine.F

namespace Sys2Proof.Machine

/-- The occurrence counter of a flag (R416): the flag at bit `bit` of the event register at `addr`. -/
def flagCounter (addr bit : Nat) : Option Fld :=
  match regRow addr with
  | none => none
  | some r =>
    if r.base = 0x01098 then if bit < 5 then some ⟨addr + 8, 4 * bit + 3, 4 * bit⟩ else none else
    if r.base = 0x02048 then if bit < 6 then some ⟨addr + 8, 4 * bit + 3, 4 * bit⟩ else none else
    if r.base = 0x030A0 then if bit = 18 then some ⟨addr, 16, 13⟩ else if bit = 17 then some ⟨addr, 12, 9⟩ else none else
    if r.base = 0x030B0 then if bit < 7 then some ⟨addr + 8, 4 * bit + 3, 4 * bit⟩ else none else
    if r.base = 0x04038 then if bit < 7 then some ⟨addr + 8, 4 * bit + 3, 4 * bit⟩ else none else
    if r.base = 0x04160 then if bit < 6 then some ⟨addr + 8, 4 * bit + 3, 4 * bit⟩ else none else
    if r.base = 0x05078 then if bit < 4 then some ⟨addr + 8, 4 * bit + 3, 4 * bit⟩ else none else
    if r.base = 0x06078 then if bit < 4 then some ⟨addr + 8, 4 * bit + 3, 4 * bit⟩ else none else
    if r.base = 0x08018 then if bit < 4 then some ⟨addr + 8, 8 * bit + 7, 8 * bit⟩ else none else
    if r.base = 0x10040 then if bit < 3 then some ⟨addr + 8, 8 * bit + 7, 8 * bit⟩ else none else
    if r.base = 0x20038 then if bit < 5 then some ⟨addr + 8, 6 * bit + 5, 6 * bit⟩ else none else
    if r.base = 0x28038 then if bit < 4 then some ⟨addr + 8, 8 * bit + 7, 8 * bit⟩ else none else
    if r.base = 0x30038 then if bit < 5 then some ⟨addr + 8, 6 * bit + 5, 6 * bit⟩ else none else
    if r.base = 0x30120 then if bit < 2 then some ⟨addr + 8, 8 * bit + 7, 8 * bit⟩ else none else
    if r.base = 0x40058 then if bit < 7 then some ⟨addr + 8, 4 * bit + 3, 4 * bit⟩ else none else
    if r.base = 0x50020 then if bit < 8 then some ⟨addr + 8, 4 * bit + 3, 4 * bit⟩ else none else
    if r.base = 0x60048 then if bit < 6 then some ⟨addr + 8, 4 * bit + 3, 4 * bit⟩ else none else
    if r.base = 0x70028 then if bit < 2 then some ⟨addr + 8, 4 * bit + 3, 4 * bit⟩ else none else
    none

end Sys2Proof.Machine
end

