-- ==== Sys2Proof/Machine/State.lean ====
section
/-!
DEFINITION. The state of the FY524 block as plain data (INVENTORY.md, '## State'), the reasons for which a step can stop,
and the state after reset. Sparse stores are association lists in the canonical form of `amWf`.
-/
namespace Sys2Proof.Machine

/-- Why the machine stops. -/
inductive Fault
  /-- Raised by TRANSACTION_ACCEPT for a burst outside the 768 MiB of a pseudo-channel (R184) or a burst count the port
  does not allow (R188). Safe: the spec says no such transaction exists. -/
  | noSuchTransaction
  deriving DecidableEq, Repr

/-- Why a command is rejected. -/
inductive Refusal
  /-- Raised by the dispatcher for a command whose meaning has not been written. Safe: the run stops. -/
  | notModelled (mnemonic : String)
  deriving DecidableEq, Repr

/-- A sparse store in canonical form. -/
abbrev AMap (α : Type) := List (Nat × α)

/-- CORE_STATE (R41). -/
inductive CoreState | boot | idle | job | armed | exposing | safe | recovery
  deriving DecidableEq, Repr

/-! Ports, commands and locks. -/

/-- A lock's holder, its lease time and its deadline in time-base ticks (R405, R406). -/
structure Lease where
  port : Port
  ms : Nat
  deadline : Nat
  deriving DecidableEq, Repr

/-- A request as a port brings it (R377). -/
structure Req where
  port : Port
  tag : BitVec 10
  flags : BitVec 6
  op : Nat
  w : List Word
  deriving DecidableEq, Repr

/-- A command in flight (R390). -/
structure Flight where
  port : Port
  tag : BitVec 10
  op : Nat
  w : List Word
  deriving DecidableEq, Repr

/-- A waiting event record (R412, R413); `epoch` is the epoch whose occurrence posted it. -/
structure EvRec where
  addr : Nat
  bit : Nat
  occ : Nat
  first : Nat
  epoch : Nat
  deriving DecidableEq, Repr

/-- What the device keeps for each port: its event queue (R412), a signal to be sent at the end of the epoch (R385, R415),
its TB_TIME capture (R266) and its CAM_FSTAT capture (R424). -/
structure PortState where
  events : List EvRec
  wake : Bool
  capt : BitVec 96
  fstat : List Word
  deriving DecidableEq, Repr

/-- A vector of the MSI-X table in BAR2 (R373): the message's address and data, and the mask bit. -/
structure MsixEntry where
  addr : Nat
  data : Nat
  masked : Bool
  deriving DecidableEq, Repr

/-- The table of 64 vectors (R373). Its contents come from the host, for whose accesses to BAR2 the table of commands has no row: here every
vector is unmasked and its message zero (DESIGN CHOICE, log 76). -/
def msixReset : List MsixEntry := List.replicate 64 { addr := 0, data := 0, masked := false }

/-- The command sequencer. -/
structure Cmd where
  exp : Option Lease
  cal : Option Lease
  flight : List Flight
  held : List Req
  host : PortState
  service : PortState
  partner : PortState
  /-- A vector-0 message has been sent since the last write to CMD_CQ_HEAD (R385). -/
  v0Sent : Bool
  /-- The SERVICE UART is configured (R417 UP). -/
  uart : Bool
  /-- Bytes received on the SERVICE line from the 0x7E of a frame whose bytes have not all come (R387). -/
  rx : List Byte
  /-- The HOST port is in D3hot (R373). -/
  d3 : Bool
  /-- The MSI-X table and its pending bits (R373, R385). -/
  msix : List MsixEntry
  pba : Nat
  deriving DecidableEq, Repr

/-- A character of the fallback coding (R366): a control character Kx.y or a data byte. -/
inductive LaneChar
  | k (x y : Nat)
  | d (b : Byte)
  deriving DecidableEq, Repr

/-- A lane whose driver is switched on (R353). -/
inductive DriverLane
  | clock (group : Nat)
  | data (group phys : Nat)
  | pairData (lane : Nat)
  | pairClock
  deriving DecidableEq, Repr

/-- What the block sends out (the model's own trace, DESIGN CHOICE, log 8). -/
inductive Out
  /-- A reply of a port (R379): tag, opcode, status, payload. -/
  | reply (p : Port) (tag : BitVec 10) (op status : Nat) (w : List Word)
  /-- A NOTICE (R415). -/
  | notice (p : Port) (waiting : Nat)
  /-- An MSI-X message (R385): its vector, address and data. -/
  | msix (vector addr data : Nat)
  /-- Bytes written to host memory: a group of the completion ring (R381, R382). -/
  | hostWrite (addr : Nat) (bytes : List Byte)
  /-- Groups of the submission ring read from host memory (R381, R382): their addresses. -/
  | hostRead (addrs : List Nat)
  /-- A frame on the SERVICE line (R386). -/
  | uart (bytes : List Byte)
  /-- A packet that goes out on the pair link (R377, R388). -/
  | packet (w : List Word)
  /-- A lane's driver is switched on (R353). -/
  | driver (lane : DriverLane)
  /-- A request to the partner (R465): tag, opcode, payload. -/
  | toPartner (tag : BitVec 10) (op : Nat) (w : List Word)
  /-- A block on a physical lane of an output group, or of the pair link as group 4: its payload and the levels sent for its
  257 symbols (R345 to R349). -/
  | block (group phys : Nat) (control : Bool) (payload : List Byte) (levels : List Int)
  /-- A frame on a lane in fallback coding (R367). -/
  | frame (group phys : Nat) (chars : List LaneChar)
  /-- A setpoint frame: tick and nine words (R307). -/
  | setpoint (k : Nat) (w : List Word)
  /-- A change of the VCXO_TUNE value (R34). -/
  | tune (v : Nat)
  | delayReq (port : Nat)
  /-- A frame sent on a timing port (R269): its correctionField and UDP checksum, and its other bytes. -/
  | ethForward (port : Nat) (correction : Int) (checksum : BitVec 16) (bytes : List Byte)
  /-- A PMBus transaction: address, command and data (R493, R495). -/
  | pmbus (addr command data : Nat)
  /-- A pin driven to a level (asserted or not). -/
  | pin (name : String) (asserted : Bool)
  /-- Bytes that a read row returns, lowest address first (R10, R12, R40). -/
  | barData (addr : Nat) (bytes : List Byte)
  deriving DecidableEq, Repr

/-- The open job (R4, R19, R173, R394). -/
structure Job where
  beams : Nat
  pitch : Nat
  id : Word
  nextOrd : Nat
  /-- JOB_CLOSE is pending (R533). -/
  closing : Bool
  deriving DecidableEq, Repr

/-! Time base. -/

/-- The time base (R264 to R273). -/
structure Tb where
  /-- T in 2^-32 ns (R264). -/
  t : BitVec 96
  /-- Time-base ticks since reset (R406). -/
  ticks : Nat
  /-- The increment in force (R265). -/
  inc : Nat
  /-- A step that the next tick applies, in quarter ns (R267, R272). -/
  step : Int
  /-- Servo accumulator, s48 (R272). -/
  acc : Int
  /-- Successive Syncs within the bound (R272). -/
  goodSyncs : Nat
  /-- The latest Announce of every master heard on a port, with the port (R271). -/
  masters : List (Nat × AnnounceMsg)
  /-- The egress stamp of the last Delay_Req, in quarter ns (R270, R271). -/
  reqStamp : Option Nat
  deriving DecidableEq, Repr

/-! Dough and tiles. -/

/-- A pending LOAF_LOAD (R397). -/
structure Load where
  tag : BitVec 10
  exts : List (Nat × Nat)
  left : Nat
  taken : Nat
  first : Bool
  checkFail : Bool
  /-- A read of an extent has failed: the status with which the command ends (R397). -/
  fault : Option Nat
  /-- The segment in progress: its bytes read so far, and whether all have been and it waits for a slot (R79, R397). -/
  seg : Option (Nat × Bool)
  /-- The segment in progress is to be discarded (R83). -/
  drop : Bool
  deriving DecidableEq, Repr

/-- A loaf held (R47, R58, R173, R175). -/
structure Loaf where
  ord : Nat
  id : Nat
  dir : Bool
  rows : Nat
  ox : Word
  oy : Word
  factors : List Nat
  level : Nat
  half : Nat
  nextRow : Nat
  /-- COST of each row taken, in row order: published where the row's segment has passed (R137). -/
  costs : List (Option Nat)
  /-- Window front in tile rows (R181). -/
  winFront : Nat
  /-- Its end is under way: a LOAF_ABORT discards it at the end of the stop (R398). -/
  discard : Bool
  /-- A bad tile has held its front (R134). -/
  blocked : Bool
  deriving DecidableEq, Repr

/-- A tile row in a dough buffer slot (R79). -/
structure RowSlot where
  slot : Nat
  ord : Nat
  row : Nat
  nodes : List Nat
  deriving DecidableEq, Repr

/-- Where a tile stands on its path (R119 to R143): `written` once its block and container are written and the acknowledgements are
still to come (R131, R140). -/
inductive Stage
  | waiting | queued | taken | passed | compressing | stopped | written | completed | committed | bad
  deriving DecidableEq, Repr

/-- A proof block (R151): container, compressed data, and the pages taken, each by its pseudo-channel and its number in that one's share. -/
structure Block where
  ctr : Container
  data : List Byte
  pages : List (Nat × Nat)
  /-- The memory reported an uncorrectable read (R171 MEM). -/
  memBad : Bool
  deriving DecidableEq, Repr

/-- A tile of a row taken. -/
structure Tile where
  ord : Nat
  row : Nat
  col : Nat
  est : Nat
  figs : List Fig
  /-- Where its figure list stands in the dough buffer slot, in bytes: start and length (R79, R99). -/
  at0 : Nat
  len : Nat
  stage : Stage
  /-- Expansions begun (R109). -/
  attempts : Nat
  /-- Cluster, K and A of the first attempt whose check failed (R106). -/
  firstTry : Option (Nat × Nat × Int)
  cluster : Nat
  /-- Completion-collector slot and kneader (R130). -/
  kneader : Option Nat
  /-- The kneader's area, held until the dose words are read (R140, R162). -/
  area : Option Nat
  words : List Word
  ksum : Option Nat
  asum : Option (Int × Nat)
  /-- Its dose words have been read by its own compressor (R162). -/
  ownRead : Bool
  /-- Its tail has been read by the next tile's compressor (R162). -/
  tailRead : Bool
  /-- Recovered by a new expansion after its commit (R174). -/
  recovered : Bool
  /-- The tail of the tile before it, once its compressor has taken it (R161, R162); kept for a re-compression. -/
  hist : Option (List Byte)
  block : Option Block
  /-- Committed and readable (R133). -/
  readable : Bool
  deriving DecidableEq, Repr

/-- Placement. -/
structure Plc where
  tiles : List Tile
  strikes : AMap Nat
  rate : AMap Nat
  mark : AMap Nat
  lastPc : Nat
  front : Nat
  deriving DecidableEq, Repr

/-- A filler that holds a tile row until one of its blocks has been recovered (R172): for its fill, or for a rebuild. -/
structure FillHold where
  filler : Nat
  ord : Nat
  row : Nat
  rebuild : Bool
  deriving DecidableEq, Repr

/-- The proof ring and the window. -/
structure Prf where
  /-- Live pseudo-channels whose share is out of the ring until the next JOB_OPEN (R217). -/
  outPcs : List Nat
  /-- Spill regions: retired pseudo-channel, target, and the region's number on the target (R178). -/
  spills : List (Nat × Nat × Nat)
  holds : List FillHold
  /-- Segments waiting for a rebuild: loaf ordinal, pixel row, sub-row (R180). -/
  rebuilds : List (Nat × Nat × Nat)
  deriving DecidableEq, Repr

/-! Memory controller. -/

/-- What a unit's own transaction carries. -/
inductive TxnUse
  /-- Traffic of which the model follows no content. -/
  | other
  /-- A window segment, or its check word: loaf ordinal, pixel row and sub-row. -/
  | seg (ord y sub : Nat) (check : Bool)
  /-- Writes of a tile's proof block: loaf ordinal, row and column. -/
  | block (ord row col : Nat)
  /-- Reads of a tile's proof block by a filler, for a fill or a rebuild. -/
  | fill (filler ord row col : Nat) (rebuild : Bool)
  /-- Reads of a tile's figure list from its dough buffer slot. -/
  | dough (ord row col : Nat)
  /-- Writes of a tile row into its dough buffer slot. -/
  | rowData (ord row : Nat)
  /-- A device table of R187, by its number in `deviceTables`. -/
  | table (t : Nat)
  deriving DecidableEq, Repr

/-- An HBM transaction (R188 to R191). -/
structure Txn where
  id : Nat
  port : Nat
  addr : Nat
  bursts : Nat
  left : Nat
  deadline : Nat
  write : Bool
  /-- Bursts of its last slot (R194). -/
  slot : Nat
  /-- Commands repeated for a parity error (R208). -/
  repeats : Nat
  /-- Its access has been repeated after an uncorrectable error (R209). -/
  again : Bool
  use : TxnUse
  deriving DecidableEq, Repr

/-- An access that a unit has posted and whose transactions are held at their handshake until they are accepted (R190): a range of bursts
of a pseudo-channel, of which each transaction takes the first that are left. -/
structure TxnPost where
  pc : Nat
  port : Nat
  addr : Nat
  bursts : Nat
  write : Bool
  /-- It repeats an access that has failed (R209). -/
  again : Bool
  use : TxnUse
  deriving DecidableEq, Repr

/-- A pseudo-channel (R190 to R217). -/
structure Pc where
  txns : List Txn
  ages : AMap Nat
  /-- Transaction that holds the present slot, and the one granted the next. -/
  holder : Option Nat
  grant : Option Nat
  /-- The row the present slot leaves open: bank address and row, and bursts since its activation (R197). -/
  openRow : Option (Nat × Nat)
  /-- Rule 2 of R197 chose the next slot, so the row stays open for it (R198). -/
  hit : Bool
  postponed : Nat
  /-- Due refreshes that have passed a break point (R204). -/
  passed : Nat
  refreshing : Bool
  retired : Bool
  training : Bool
  due : Bool
  temp : Int
  /-- The instant at which the next refresh falls due, in half ns (R201). -/
  refAt : Nat
  /-- What training last wrote to the training area (R186), a value that the spec does not give. -/
  area : Option Nat
  deriving DecidableEq, Repr

/-- A pseudo-channel after reset. -/
def Pc.reset : Pc :=
  { txns := [], ages := [], holder := none, grant := none, openRow := none, hit := false, postponed := 0, passed := 0,
    refreshing := false, retired := false, training := false, due := false, temp := 0, refAt := 0, area := none }

/-- Self-refresh (R219 to R221). -/
inductive SrPhase | awake | asleep | leaving
  deriving DecidableEq, Repr

/-- A MEM_RETRAIN whose reply waits (R218): tag, port, pseudo-channels still to come, and whether any ended retired. -/
structure RetrainCmd where
  port : Port
  tag : BitVec 10
  pcs : List Nat
  anyRetired : Bool
  deriving DecidableEq, Repr

/-- The memory controller. -/
structure Mem where
  pcs : AMap Pc
  sr : SrPhase
  retrains : List RetrainCmd
  /-- LOAF_START waits for the end of a retraining (R214). -/
  startHold : Option (BitVec 10)
  nextTxn : Nat
  /-- Accesses that units have posted and whose transactions are not all accepted, oldest first (R190). -/
  posts : List TxnPost
  /-- Where the two copies of each device table lie (R187): stack 0 and stack 1. -/
  tables : List (Nat × Nat)
  /-- A read of the journal has failed in both copies (R209 port 6). -/
  jnlBad : Bool
  deriving DecidableEq, Repr

/-! Slicer and launch. -/

/-- An epoch: its first slice and the lanes dead in it (R237). -/
structure Epoch where
  first : Nat
  lanes : Nat
  deriving DecidableEq, Repr

/-- The readings of an output group's back-channel (R248, R250). -/
structure Plate where
  pt : Int
  v : Nat
  stale : Bool
  deriving DecidableEq, Repr

/-- A plate before its first reading (DESIGN CHOICE, log 5). -/
def Plate.reset : Plate := { pt := 0, v := 0, stale := false }

/-- An entry of the unbaked journal (R291). -/
structure JEnt where
  kind : Nat
  cause : Nat
  id : Nat
  ord : Nat
  n1 : Nat
  a : Nat
  n2 : Nat
  b : Nat
  v : Nat
  deriving DecidableEq, Repr

/-- What became of a slice on a lane. -/
inductive LaneState | waiting | sent | blanked
  deriving DecidableEq, Repr

/-- A slice built and not yet disposed of (R232, R258, R276). -/
structure Slice where
  n : Nat
  /-- Launch time in quarter ns (R276). -/
  l : Nat
  /-- S_n in 1/64 nm. -/
  pos : Int
  codes : AMap (List Nat)
  lists : AMap (List (Nat × Nat))
  pcrc : AMap Nat
  kt : AMap Nat
  tedge : AMap Nat
  lanes : AMap LaneState
  /-- Found too close to the slice before it (R279). -/
  overspeed : Bool
  /-- Instant of its crossing in quarter ns, where that was found before its launch (R280). -/
  tc : Option Nat
  deriving DecidableEq, Repr

/-- A launched slice whose crossing has not been found (R281). -/
structure Crossing where
  n : Nat
  l : Nat
  pos : Int
  /-- Its DISPLACED entry is open. -/
  displaced : Bool
  deriving DecidableEq, Repr

/-- A stopping event decided (R286): its cause, FIRST and L_FIRST in quarter ns. -/
structure StopRec where
  cause : Nat
  first : Nat
  lFirst : Nat
  deriving DecidableEq, Repr

/-- The running loaf as the launch logic sees it. -/
structure Run where
  ord : Nat
  id : Nat
  last : Nat
  /-- Slices below this number have been launched or journaled. -/
  disposed : Nat
  /-- Launch time of the last slice launched or due to launch (R279). -/
  prevL : Option Nat
  /-- The slice whose launch time was reached last, and that time (R286). -/
  reached : Option (Nat × Nat)
  /-- A stopping event has been decided (R286). -/
  stop : Option StopRec
  /-- No further slice is built: the last one has been predicted, the loaf has been stopped or ended blocked (R288, R337). -/
  ended : Bool
  /-- The loaf ends without journal entries (R474). -/
  quiet : Bool
  deriving DecidableEq, Repr

/-- A cancel that runs (R284, R285). -/
structure Cancel where
  first : Nat
  good : Nat
  deriving DecidableEq, Repr

/-- A slow request that stands (R335): v_slow in nm/ms. -/
structure Slow where
  v : Nat
  deriving DecidableEq, Repr

/-- A clock loss during a loaf (R361): its group, the N_LAST of the group's CLK reports so far, and the first slice not launched when the
loss was found. -/
structure ClkLoss where
  group : Nat
  reports : List Nat
  first : Nat
  deriving DecidableEq, Repr

/-- The launch logic. -/
structure Lch where
  slices : List Slice
  crossings : List Crossing
  run : Option Run
  cancel : Option Cancel
  slow : Option Slow
  /-- The last valid Y word and its sample instant in quarter ns (R280). -/
  word : Option (Int × Nat)
  /-- Open range entries (R294). -/
  openEnts : List JEnt
  /-- Lanes declared dead whose LANE_DEAD entry waits for the next build, with their first slice with code 0 (R295, R359). -/
  deadEnts : List JEnt
  /-- Which physical lane carried which slices: group, physical lane, loaf ordinal, slice, active lane (R365). -/
  carried : List (Nat × Nat × Nat × Nat × Nat)
  /-- The last two loaves of the open job that sent slices: ordinal and LOAF_ID (R365). -/
  sentLoaves : List (Nat × Nat)
  clkLoss : Option ClkLoss
  /-- The interrupted slice of a hard-limit pause (R255). -/
  paused : Option Nat
  deriving DecidableEq, Repr

/-- The slicer. -/
structure Slc where
  epochs : List Epoch
  /-- Lanes declared dead whose epoch waits (R239). -/
  deferred : Nat
  /-- Every lane dead now. -/
  dead : Nat
  gains : AMap Nat
  deadBeams : AMap Bool
  idle : AMap Nat
  heat : AMap Nat
  lastT : Option Nat
  next : Nat
  /-- Slices below this number have been predicted at least once: slices built again after a pause lie below it (R237, R240, R256). -/
  top : Nat
  /-- Pixel rows, with a sub-row, whose pixels are to be journaled at the next pass that can be read, since the first could not (R240). -/
  lowDue : List (Nat × Nat)
  soft : Bool
  plates : AMap Plate
  /-- Segments whose read has come late and whose slice is not built yet (R206, R231): loaf ordinal, pixel row, sub-row. -/
  late : List (Nat × Nat × Nat)
  deriving DecidableEq, Repr

/-! Motion. -/

/-- A phase of constant jerk (R306): start and duration in ns; position, velocity, acceleration and jerk in position units
per powers of 1 ms. The unit is 1/64 nm for the scan and the path parameter for a move. -/
structure Phase where
  t0 : Rat
  dur : Rat
  p0 : Rat
  v0 : Rat
  a0 : Rat
  j : Rat
  deriving DecidableEq, Repr

/-- A limit input (R319). -/
structure Limit where
  raw : Bool
  deb : Bool
  /-- Captured position of the last raw edge, offset not applied; `none` while the next primary word is awaited. -/
  latch : Option Int
  /-- Instant of the raw edge whose word is awaited, in quarter ns. -/
  await : Option Nat
  /-- The debounced state has taken the raw level after reset. -/
  settled : Bool
  /-- Ticks of the latest debounced transitions, newest first (R322). -/
  moves : List Nat
  deriving DecidableEq, Repr

/-- A limit input after reset. -/
def Limit.reset : Limit := { raw := false, deb := false, latch := none, await := none, settled := false, moves := [] }

/-- An axis. Positions are in 1/64 nm. -/
structure Axis where
  rest : Rat
  offset : Int
  /-- Latest words of the two channels, offset not applied: interferometer, encoder. -/
  ifm : Option Int
  enc : Option Int
  homed : Bool
  homing : Bool
  /-- OFF of R318. -/
  off : Int
  devRun : Nat
  xchkRun : Nat
  /-- Successive words within DEV_NM of the target (R313). -/
  settleRun : Nat
  /-- The primary channel has delivered a valid word within the last 1 us. -/
  alive : Bool
  limP : Limit
  limM : Limit
  deriving DecidableEq, Repr

/-- An axis after reset. -/
def Axis.reset : Axis :=
  { rest := 0, offset := 0, ifm := none, enc := none, homed := false, homing := false, off := 0, devRun := 0, xchkRun := 0,
    settleRun := 0, alive := false, limP := Limit.reset, limM := Limit.reset }

/-- What a move serves. -/
inductive MoveKind
  | plain | arm | homing | resume
  deriving DecidableEq, Repr

/-- A move of several axes along a straight line (R311): axis, start and distance; the profile of the path parameter;
whether a stop of R312 runs. A move that replaces another begins where and when that one's stop ends (R314). -/
structure Mv where
  axes : List (Nat × Rat × Rat)
  prof : List Phase
  kind : MoveKind
  stopping : Bool
  deriving DecidableEq, Repr

/-- The HOME in progress (R323): axes left, with the first being homed, and its step 1 to 5. -/
structure Homing where
  axes : List Nat
  named : List Nat
  step : Nat
  aborting : Bool
  deriving DecidableEq, Repr

/-- SCAN (R329). -/
inductive ScanState | none | approach | ready | run | hold | pause | leadout
  deriving DecidableEq, Repr

/-- The LOAF_ARM that waits for its move (R330, R532): its tag and the status with which it ends. -/
structure Arm where
  tag : BitVec 10
  /-- The status of an early end, and whether a reply is sent at all. -/
  ends : Option Nat
  silent : Bool
  deriving DecidableEq, Repr

/-- The scan (R326 to R338). -/
structure Scan where
  state : ScanState
  prof : List Phase
  /-- Committed end E in ns (R331). -/
  e : Rat
  /-- A stop that ends the loaf or pauses it is committed, and its end is awaited. -/
  stopping : Bool
  /-- The instant at which the latest stop of R312 in the profile starts, until Y leaves the rest that it ends in. -/
  stopFrom : Option Rat
  vtgt : Nat
  bind : Nat
  vres : Nat
  /-- The loaf's X, its ORIGIN_Y, direction and pitch, fixed at LOAF_ARM. -/
  oy : Int
  sigma : Int
  pitch : Int
  deriving DecidableEq, Repr

/-- The motion engine. -/
structure Mot where
  axes : AMap Axis
  moves : List Mv
  home : Option Homing
  arm : Option Arm
  scan : Scan
  /-- LOAF_STOP or LOAF_ABORT commands that reply when Y is at rest (R398). -/
  stopReplies : List (Nat × BitVec 10)
  deriving DecidableEq, Repr

/-! Links. -/

/-- The transmit coder of a physical lane: the 58 scrambler bits, newest in bit 0, and the precoder state (R347, R348). -/
structure Line where
  scr : BitVec 58
  pre : Nat
  deriving DecidableEq, Repr

/-- A coder at the start of the block-lock phase (R347, R348). -/
def Line.reset : Line := { scr := BitVec.allOnes 58, pre := 0 }

/-- An output group (R342 to R370). Masks have a bit for each physical lane 0 to 8. -/
structure Grp where
  /-- Training phase 1 to 5 that runs, 0 for none (R354). -/
  phase : Nat
  /-- Lanes that failed in the training that runs. -/
  failed : Nat
  /-- Phases 1 and 2 hold and no clock loss since (R356). -/
  up : Bool
  clkOn : Bool
  /-- Lanes that passed training and have not failed since. -/
  trained : Nat
  /-- Active lanes m that are dead. -/
  dead : Nat
  /-- Physical lane that carries active lane m, 0xF for none. -/
  map : List Nat
  /-- CLK_LOCK of the last STATUS frame. -/
  clkLock : Bool
  /-- The instant, in time-base ticks, of the last valid frame (R375 BC_OK). -/
  bcAt : Option Nat
  /-- Physical lanes that have carried a slice since their assignment last changed, and so have sent LANE_ID (R350). -/
  named : Nat
  /-- DISCARD frames received as R365 counts them. -/
  disc : Nat
  /-- Instants, in time-base ticks, of the DISCARD frames of the last 1 ms that point to a lane, for each lane (R357). -/
  errAt : AMap (List Nat)
  /-- Coding and fallback rate in force since the last training (R375). -/
  coding : Bool
  rate : Nat
  deriving DecidableEq, Repr

/-- An output group after reset. -/
def Grp.reset : Grp :=
  { phase := 0, failed := 0, up := false, clkOn := false, trained := 0, dead := 0, map := List.replicate 8 0xF,
    clkLock := false, bcAt := none, named := 0, disc := 0, errAt := [], coding := false, rate := 2 }

/-- The pair link (R372, R456). -/
structure PairPhy where
  /-- Training phase 2 to 5 of the own transmit direction, 0 for none. -/
  phase : Nat
  failed : Nat
  /-- Live lanes out and in. -/
  tx : Nat
  rx : Nat
  clkOn : Bool
  /-- The received forwarded clock is locked (R341, R349). -/
  rxClk : Bool
  up : Bool
  deriving DecidableEq, Repr

/-- A LINK_TRAIN whose reply waits (R355): named groups, whether the pair link is named, and what still trains (bit 4 is
the pair link). -/
structure TrainCmd where
  port : Port
  tag : BitVec 10
  groups : Nat
  pair : Bool
  left : Nat
  deriving DecidableEq, Repr

/-- A LINK_LOOPBACK that runs (R369, R370). -/
structure LoopCmd where
  port : Port
  tag : BitVec 10
  mode : Nat
  groups : Nat
  pair : Bool
  bc : Bool
  /-- DURATION_MS has passed; the groups train again: those still in training. -/
  left : Option Nat
  deriving DecidableEq, Repr

/-- A slice in progress on a physical lane (R351, R367): its number, the instant in quarter ns at which it started, and the payloads of its
blocks. -/
structure TxSlice where
  n : Nat
  start : Nat
  payloads : List (List Byte)
  deriving DecidableEq, Repr

/-- The links. -/
structure Lnk where
  groups : AMap Grp
  lines : AMap Line
  pair : PairPhy
  trains : List TrainCmd
  loop : Option LoopCmd
  /-- Timing ports with block lock. -/
  eth : Nat
  /-- Driver sets switched on, 0 to 12 (R353). -/
  drivers : Nat
  /-- Slices that physical lanes send now, by the key of the lane (R351). -/
  busy : List (Nat × TxSlice)
  deriving DecidableEq, Repr

/-! Calibration, camera and flash. -/

/-- A calibration command that waits for a CORE_STATE in which it runs (R436). -/
structure CalWait where
  port : Port
  tag : BitVec 10
  op : Nat
  w : List Word
  deriving DecidableEq, Repr

/-- Sums of a beam over a capture's frames: I, MX and MY (R430). -/
structure Spot where
  i : Nat
  mx : Int
  my : Int
  deriving DecidableEq, Repr

/-- A capture of DARK, FLAT or BEAMS that runs (R426 to R432). -/
structure Capt where
  port : Port
  tag : BitVec 10
  kind : Nat
  want : Nat
  tried : Nat
  good : Nat
  first : Option Nat
  seq : Nat
  /-- Sums over the good frames, for each pixel. -/
  sums : AMap Nat
  spots : AMap Spot
  /-- CAM_TRIG has risen in the attempt (R422). -/
  raised : Bool
  /-- The attempt's frame has not started. -/
  await : Bool
  /-- Number of the next calibration slice of the capture (R428). -/
  slice : Nat
  /-- Calibration slices launched in this attempt (R428). -/
  shots : Nat
  /-- A DISCARD frame for ordinal 0xFFFF arrived during this attempt's exposure (R420). -/
  disc : Bool
  /-- Launch time of the last calibration slice, in quarter ns (R428). -/
  lastQ : Option Nat
  deriving DecidableEq, Repr

/-- A frame that is open (R419 to R424). -/
structure CamFrame where
  no : Nat
  seq : Nat
  /-- It is the frame of the running capture's attempt. -/
  mine : Bool
  /-- It has overlapped an exposure during which a DISCARD frame for ordinal 0xFFFF arrived (R420). -/
  disc : Bool
  deriving DecidableEq, Repr

/-- The beam tables: gain and dead-beam map (R433). -/
structure Beams where
  gain : AMap Nat
  dead : AMap Bool
  deriving DecidableEq, Repr

/-- Calibration and the camera. -/
structure Cal where
  waiting : List CalWait
  capt : Option Capt
  /-- CAM_TRIG is high (R422). -/
  trig : Bool
  /-- The RX_OFF capture that runs: its port, tag and the receiver it measures (R438). -/
  rxoff : Option (Port × BitVec 10 × Nat)
  dark : AMap Nat
  flat : AMap Nat
  /-- Frames applied at the next frame start (R434). -/
  nextDark : Option (AMap Nat)
  nextFlat : Option (AMap Nat)
  candDark : Option (AMap Nat)
  candFlat : Option (AMap Nat)
  candBeams : Option Beams
  /-- The active gain table and dead-beam map (R433); the splitter takes them at LOAF_START (R236). -/
  beams : Beams
  /-- Trim entries, by KIND · 64 + INDEX (R439). -/
  trims : AMap Word
  frameNo : Nat
  frame : Option CamFrame
  /-- SEQ of the active settings, and the commits that wait for a frame start (R423). -/
  seq : Nat
  commits : Nat
  /-- The frame watchdog has discarded the open frame (R421). -/
  dropped : Bool
  deriving DecidableEq, Repr

/-- A step of a flash command. -/
inductive FlashPrim
  | erase (addr : Nat)
  | write (addr : Nat) (bytes : List Byte)
  deriving DecidableEq, Repr

/-- A flash operation that waits or runs (R525). -/
inductive FlashJob
  /-- A TST operation: READ 1, PROGRAM 2, ERASE 3 (R524). -/
  | tst (op addr : Nat)
  /-- An NVM_STORE (R443): port, tag, kind, and once it writes its place, bytes and SEQ. -/
  | store (p : Port) (tag : BitVec 10) (kind : Nat) (run : Option (Nat × List Byte × Nat))
  /-- An NVM_LOAD (R442): port, tag, kind. -/
  | load (p : Port) (tag : BitVec 10) (kind : Nat)
  /-- A compaction (R444): port, tag, and once it runs its SEQ and the steps left, the first running. -/
  | compact (p : Port) (tag : BitVec 10) (run : Option (Nat × List FlashPrim))
  deriving DecidableEq, Repr

/-- The flash and its queue of operations; the first one runs. -/
structure Nvm where
  flash : AMap Byte
  jobs : List FlashJob
  /-- CAL_NVM_STATUS.JNL_ERASED (R446). -/
  jnlErased : Bool
  deriving DecidableEq, Repr

/-! Redundant pair. -/

/-- The partner's last BEAT (R465). -/
structure Beat where
  ready : Nat
  core : Nat
  ord : Nat
  launched : Nat
  gm : Nat
  locked : Bool
  expHeld : Bool
  tick : Nat
  deriving DecidableEq, Repr

/-- A handover that the owner has asked for (R470, R471). -/
structure Handing where
  tag : BitVec 10
  first : Nat
  lFirst : Nat
  cause : Nat
  ord : Nat
  /-- The OK has arrived. -/
  ok : Bool
  /-- OWN_N has been deasserted: the token has passed and the loaf ends. -/
  passed : Bool
  /-- The HOST HANDOVER whose reply waits, and whether CORE_STATE was JOB. -/
  host : Option (BitVec 10)
  inJob : Bool
  deriving DecidableEq, Repr

/-- A takeover that the standby has agreed to (R471), or has carried out and for which it awaits the TOKEN frame (R473). -/
structure Taking where
  first : Nat
  lFirst : Nat
  cause : Nat
  ord : Nat
  /-- PEER_OWN_N has been seen deasserted. -/
  seen : Bool
  /-- OWN_N is asserted; the TOKEN frame is awaited. -/
  taken : Bool
  unasked : Bool
  inJob : Bool
  deriving DecidableEq, Repr

/-- A partner's area sums of a tile (R468): ordinal, row, column, K and A. -/
structure PeerTile where
  ord : Nat
  row : Nat
  col : Nat
  k : Nat
  a : Nat
  deriving DecidableEq, Repr

/-- A slice's clean bit and PCRCs (R468). -/
structure PeerSlice where
  ord : Nat
  n : Nat
  clean : Bool
  pcrc : List Nat
  deriving DecidableEq, Repr

/-- The pair logic. -/
structure Pair where
  /-- STATE of R457. -/
  st : Nat
  own : Bool
  /-- JOIN of the partner kept for R458: its digest. -/
  kept : Option Nat
  /-- The HOST JOIN that waits: tag, digest, and STATE before it. -/
  join : Option (BitVec 10 × Nat × Nat)
  beat : Option Beat
  handing : Option Handing
  taking : Option Taking
  /-- A HOST LOAF_ARM or LOAF_START that waits for the partner (R460). -/
  armWait : Option (BitVec 10)
  startWait : Option (BitVec 10)
  /-- The owner started alone: the standby is not eligible for this loaf (R460). -/
  alone : Bool
  /-- A difference has been recorded in the current loaf (R468). -/
  differ : Bool
  /-- JNL messages sent and not acknowledged (R467). -/
  unacked : List (BitVec 10)
  nextTag : Nat
  peerTiles : List PeerTile
  peerSlices : List PeerSlice
  ownTiles : List PeerTile
  ownSlices : List PeerSlice
  /-- Open entries mirrored from the owner (R473). -/
  mirror : List JEnt
  /-- Owner's epochs announced by MARK and not yet reached (R462). -/
  markEpochs : List (Nat × Nat)
  /-- X, Z and the rotation axis as MARK AXES gave them (R464). -/
  axes : Option (Word × Word × Word)
  /-- TRAJ messages that wait for their tick: k, ACTION, v (R465). -/
  trajs : List (Nat × Nat × Nat)
  /-- ELIGIBLE as last evaluated (R469). -/
  elig : Bool
  deriving DecidableEq, Repr

/-! Power, test and pins. -/

/-- Reset sources that make a dump (R485). -/
inductive DumpFor | soft | wdog | pwrFail
  deriving DecidableEq, Repr

/-- The power manager. -/
structure Pwr where
  /-- Causes present, as PWR_SAFE shows them (R482). -/
  causes : Nat
  vset : Nat
  hot : Bool
  avsHold : Bool
  /-- Clusters enabled, 0 to 64, counted from cluster 0 (R35). -/
  clOn : Nat
  /-- Clusters are being enabled one at a time. -/
  enabling : Bool
  idleOff : Bool
  /-- The boot runs (R492). -/
  booting : Bool
  /-- The boot has configured the outputs since the last reset (R487). -/
  driving : Bool
  /-- The power-failure sequence runs (R498). -/
  failing : Bool
  /-- A journal dump runs, and for which reset (R485). -/
  dump : Option DumpFor
  deriving DecidableEq, Repr

/-- Test hooks: the memory test runs (R526). The page buffer and TST_FLASH_CMD stand in the register map. -/
structure Tst where
  bist : Bool
  deriving DecidableEq, Repr

/-- Instructions of the test access port (R521). -/
inductive TapIns
  | extest | sample | idcode | clamp | highz | extestPulse | extestTrain | bypass
  deriving DecidableEq, Repr

/-- How an output pin is driven. -/
inductive Drive | undriven | asserted | deasserted
  deriving DecidableEq, Repr

/-- Pins. Inputs as they stand now; outputs as they are driven. -/
structure Pins where
  /-- RESET_N asserted. -/
  resetN : Bool
  /-- INTERLOCK_N asserted. -/
  interlock : Bool
  /-- RECOVERY_N strapped low. -/
  recovery : Bool
  /-- PAIR_SIDE strapped high: side B. -/
  sideB : Bool
  /-- PEER_OWN_N asserted. -/
  peerOwn : Bool
  safeBlank : Drive
  ownN : Drive
  camTrig : Drive
  /-- VCXO_TUNE driven. -/
  vcxo : Bool
  deriving DecidableEq, Repr

/-- The state of the block. -/
structure State where
  /-- Commands that wait, first in, first out. -/
  pending : List Instr
  /-- What the block has sent, newest first (DESIGN CHOICE, log 8). -/
  out : List Out
  /-- Free values drawn so far (DESIGN CHOICE, log 4); the model's own field. -/
  fresh : Nat
  /-- Handshake epochs so far (DESIGN CHOICE, log 2); the model's own field. -/
  epoch : Nat
  /-- Register contents that differ from their reset values, by BAR0 address. -/
  regs : AMap Word
  /-- Active values of registers with SH fields (R15). -/
  active : AMap Word
  core : CoreState
  job : Option Job
  tb : Tb
  cmd : Cmd
  loads : List Load
  loaves : List Loaf
  rows : List RowSlot
  plc : Plc
  prf : Prf
  /-- Bytes of HBM outside proof blocks, by pseudo-channel · 2^30 + address. -/
  hbm : AMap Byte
  mem : Mem
  slc : Slc
  lch : Lch
  /-- The unbaked journal: committed entries, oldest first (R290). -/
  jnl : List JEnt
  mot : Mot
  lnk : Lnk
  cal : Cal
  nvm : Nvm
  pair : Pair
  pwr : Pwr
  tst : Tst
  tap : TapIns
  /-- The boundary register of the test access port (R523); no row shifts it (DESIGN CHOICE, log 68). -/
  boundary : BitVec 165
  pins : Pins
  deriving DecidableEq, Repr

/-- A port after reset. -/
def PortState.reset : PortState := { events := [], wake := false, capt := 0, fstat := List.replicate 4 0 }

/-- The sequencer after reset. -/
def Cmd.reset : Cmd :=
  { exp := none, cal := none, flight := [], held := [], host := PortState.reset, service := PortState.reset,
    partner := PortState.reset, v0Sent := false, uart := false, rx := [], d3 := false, msix := msixReset, pba := 0 }

/-- The time base after reset (R264, R272). -/
def Tb.reset : Tb := { t := 0, ticks := 0, inc := 0x280000000, step := 0, acc := 0, goodSyncs := 0, masters := [], reqStamp := none }

/-- The scan after reset. -/
def Scan.reset : Scan :=
  { state := .none, prof := [], e := 0, stopping := false, stopFrom := none, vtgt := 0, bind := 6, vres := 0, oy := 0, sigma := 1, pitch := 64 }

/-- The beam tables after reset: gain 2,048, no beam dead (R447). -/
def Beams.reset : Beams := { gain := [], dead := [] }

/-- Calibration after reset (R425, R439). -/
def Cal.reset : Cal :=
  { waiting := [], capt := none, trig := false, rxoff := none, dark := [], flat := [], nextDark := none, nextFlat := none, candDark := none,
    candFlat := none, candBeams := none, beams := Beams.reset, trims := [], frameNo := 0, frame := none, seq := 0,
    commits := 0, dropped := false }

/-- The pair logic after reset. -/
def Pair.reset : Pair :=
  { st := 0, own := false, kept := none, join := none, beat := none, handing := none, taking := none, armWait := none,
    startWait := none, alone := false, differ := false, unacked := [], nextTag := 0, peerTiles := [], peerSlices := [],
    ownTiles := [], ownSlices := [], mirror := [], markEpochs := [], axes := none, trajs := [],
    elig := false }

/-- The power manager after reset (R501). -/
def Pwr.reset : Pwr :=
  { causes := 0, vset := 750, hot := false, avsHold := false, clOn := 0, enabling := false, idleOff := false,
    booting := false, driving := false, failing := false, dump := none }

/-- The links after reset. -/
def Lnk.reset : Lnk :=
  { groups := [], lines := [], pair := { phase := 0, failed := 0, tx := 0, rx := 0, clkOn := false, rxClk := false, up := false },
    trains := [], loop := none, eth := 0, drivers := 0, busy := [] }

/-- The device tables that R187 names, journal, beam gain, dead-beam map and heat map in this order: the pseudo-channels of their copies
before any is retired, table t on pseudo-channels t and 32 + t (DESIGN CHOICE, log 29). -/
def deviceTables : List (Nat × Nat) := [(0, 32), (1, 33), (2, 34), (3, 35)]

/-- The machine right after reset: RESET_N is asserted, every output undriven (R480, R487), CORE_STATE BOOT. -/
def State.reset : State :=
  { pending := [], out := [], fresh := 0, epoch := 0, regs := [], active := [], core := .boot, job := none, tb := Tb.reset,
    cmd := Cmd.reset, loads := [], loaves := [], rows := [],
    plc := { tiles := [], strikes := [], rate := [], mark := [], lastPc := 63, front := 0 },
    prf := { outPcs := [], spills := [], holds := [], rebuilds := [] }, hbm := [],
    mem := { pcs := [], sr := .awake, retrains := [], startHold := none, nextTxn := 0, posts := [], tables := deviceTables, jnlBad := false },
    slc := { epochs := [], deferred := 0, dead := 0, gains := [], deadBeams := [], idle := [], heat := [], lastT := none,
             next := 0, top := 0, lowDue := [], soft := false, plates := [], late := [] },
    lch := { slices := [], crossings := [], run := none, cancel := none, slow := none, word := none, openEnts := [],
             deadEnts := [], carried := [], sentLoaves := [], clkLoss := none, paused := none },
    jnl := [], mot := { axes := [], moves := [], home := none, arm := none, scan := Scan.reset, stopReplies := [] },
    lnk := Lnk.reset, cal := Cal.reset, nvm := { flash := [], jobs := [], jnlErased := false }, pair := Pair.reset,
    pwr := Pwr.reset, tst := { bist := false }, tap := .idcode, boundary := 0,
    pins := { resetN := true, interlock := false, recovery := false, sideB := false, peerOwn := false, safeBlank := .undriven,
              ownN := .undriven, camTrig := .undriven, vcxo := false } }

end Sys2Proof.Machine
end

