-- ==== Sys2Proof/Machine/Flags.lean ====
section
/-!
DEFINITION. Registers of the state and their fields, saturating counters, and the occurrence of a flag: the W1C bit, its
counter and the event records of the three ports (R10 to R17, R411 to R413, R416).
-/
namespace Sys2Proof.Machine

/-- The stored word of a register. -/
def State.getReg (s : State) (addr : Nat) : Word := amGet resetWord s.regs addr

/-- Store a word in a register. -/
def State.setReg (s : State) (addr : Nat) (w : Word) : State := { s with regs := amPut resetWord s.regs addr w }

/-- A field of a stored register. -/
def State.fld (s : State) (f : Fld) : Nat := wbits (s.getReg f.addr) f.hi f.lo

/-- A field as a Boolean. -/
def State.bit (s : State) (f : Fld) : Bool := decide (s.fld f ≠ 0)

/-- A field as a signed number (R8). -/
def State.sfld (s : State) (f : Fld) : Int := sext f.width (s.fld f)

/-- Store a field. -/
def State.setFld (s : State) (f : Fld) (v : Nat) : State := s.setReg f.addr (setBits (s.getReg f.addr) f.hi f.lo v)

/-- The active value of an SH field (R15). -/
def State.act (s : State) (f : Fld) : Nat := wbits (amGet resetWord s.active f.addr) f.hi f.lo

/-- The active value of an SH field as a signed number (R8). -/
def State.sact (s : State) (f : Fld) : Int := sext f.width (s.act f)

/-- Take the shadow values of a register into its active values (R15). -/
def State.activate (s : State) (addr : Nat) : State := { s with active := amPut resetWord s.active addr (s.getReg addr) }

/-- Add to a saturating counter (R41, R416 and the counters of every chapter). -/
def State.bumpBy (s : State) (f : Fld) (n : Nat) : State := s.setFld f (satU f.width (s.fld f + n))

/-- Count one occurrence. -/
def State.bump (s : State) (f : Fld) : State := s.bumpBy f 1

/-- The ns count of the local clock (R264). -/
def State.ns (s : State) : Nat := s.tb.t.toNat / 2 ^ 32

/-- The local clock in quarter ns (R276). -/
def State.quarter (s : State) : Nat := s.tb.t.toNat / 2 ^ 30

/-- The local clock in ns as an exact number (R264). -/
def State.nowRat (s : State) : Rat := mkRat s.tb.t.toNat (2 ^ 32)

/-- Do two records stand in order within one epoch: ascending register address, then bit number (R412)? -/
def EvRec.before (a b : EvRec) : Bool := decide (a.addr < b.addr ∨ (a.addr = b.addr ∧ a.bit < b.bit))

/-- Put a new record at its place among those of its own epoch, which stand at the end of the queue (R412). -/
def insertRec (e : EvRec) : List EvRec → List EvRec
  | [] => [e]
  | x :: r => if x.epoch == e.epoch && e.before x then e :: x :: r else x :: insertRec e r

/-- Post an occurrence to a queue: fold it into a waiting record of the same flag, or add a record (R412, R413). -/
def postRec (e : EvRec) (q : List EvRec) : List EvRec :=
  if q.any (fun x => x.addr == e.addr && x.bit == e.bit) then
    updateFirst (fun x => x.addr == e.addr && x.bit == e.bit) (fun x => { x with occ := satU 16 (x.occ + 1) }) q
  else insertRec e q

/-- Post an occurrence to a port; a queue that was empty calls for a signal (R385, R415). -/
def PortState.post (e : EvRec) (p : PortState) : PortState :=
  { p with events := postRec e p.events, wake := p.wake || p.events.isEmpty }

/-- Post an occurrence to the ports (R411): PARTNER's queue takes it only while the pair link is up. -/
def Cmd.post (c : Cmd) (e : EvRec) (partnerUp : Bool) : Cmd :=
  { c with host := c.host.post e, service := c.service.post e,
           partner := if partnerUp then c.partner.post e else c.partner }

/-- Set a flag and count it (R416), without an event record. -/
def State.mark (s : State) (f : Fld) : State :=
  let s := s.setFld f 1
  match flagCounter f.addr f.lo with
  | some c => s.bump c
  | none => s

/-- The event record of a flag's occurrence now (R413). -/
def State.recOf (s : State) (f : Fld) : EvRec := { addr := f.addr, bit := f.lo, occ := 1, first := s.ns, epoch := s.epoch }

/-- An occurrence of a flag (R411). -/
def raise (f : Fld) (s : State) : State :=
  let s := s.mark f
  { s with cmd := s.cmd.post (s.recOf f) s.lnk.pair.up }

/-- Raise a flag where a condition holds. -/
def raiseIf (b : Bool) (f : Fld) (s : State) : State := if b then raise f s else s

/-- Draw a free value (DESIGN CHOICE, log 4). -/
def State.draw (s : State) : Nat × State := (Config.freeNat s.fresh, { s with fresh := s.fresh + 1 })

/-- Add to the trace of what the block sends (DESIGN CHOICE, log 8). -/
def emit (o : Out) (s : State) : State := { s with out := o :: s.out }

end Sys2Proof.Machine
end

