-- ==== Sys2Proof/Machine/Ops.lean ====
section
/-!
DEFINITION. What every command shares: the ports and their replies (R379 to R385, R389, R390), the locks as a
look-up (R405), the output pins (R480, R487), and the end of a handshake epoch.
-/
namespace Sys2Proof.Machine

/-- The code of CORE_STATE (R41). -/
def CoreState.code : CoreState → Nat
  | .boot => 0 | .idle => 1 | .job => 2 | .armed => 3 | .exposing => 4 | .safe => 5 | .recovery => 6

/-- The port's number in R417. -/
def portIdx : Port → Nat
  | .host => 0 | .service => 1 | .partner => 2

/-- The port code of CMD_LOCK (R417). -/
def portCode (p : Port) : Nat := portIdx p + 1

/-- What the sequencer keeps for a port. -/
def Cmd.port (c : Cmd) : Port → PortState
  | .host => c.host | .service => c.service | .partner => c.partner

/-- Change what the sequencer keeps for a port. -/
def Cmd.updPort (c : Cmd) (p : Port) (f : PortState → PortState) : Cmd :=
  match p with
  | .host => { c with host := f c.host }
  | .service => { c with service := f c.service }
  | .partner => { c with partner := f c.partner }

/-- Status codes of R380. -/
def stOk : Nat := 0x00
def stBusy : Nat := 0x01
def stDenied : Nat := 0x02
def stLocked : Nat := 0x03
def stOrder : Nat := 0x04
def stBadParam : Nat := 0x05
def stBadState : Nat := 0x06
def stCheckFail : Nat := 0x07
def stHoldupLow : Nat := 0x08
def stNoSpace : Nat := 0x09
def stTimeout : Nat := 0x0A
def stRetired : Nat := 0x0B

/-- Can the port take requests (R417 UP)? In D3hot the HOST port counts as reset (R373). No command falls in the
epoch of a break (log 2). -/
def portUp (p : Port) (s : State) : Bool :=
  match p with
  | .host => s.bit F.CMD_Q_CTL_EN && s.core != .recovery && !s.cmd.d3
  | .service => s.cmd.uart
  | .partner => s.lnk.pair.up && s.core != .recovery

/-- Groups of a packet with a payload of `len` words (R381). -/
def packetGroups (len : Nat) : Nat := ceilDiv (1 + len) 2

/-- A ring pointer advanced (R382). -/
def ptrAdd (p n : Nat) : Nat := (p + n) % 2 ^ 21

/-- The words of a packet (R377): the header, with STATUS or FLAGS in its low bits, and the payload. -/
def packetWords (tag : BitVec 10) (op low : Nat) (w : List Word) : List Word :=
  BitVec.ofNat 36 (op % 2 ^ 8 * 2 ^ 28 + tag.toNat * 2 ^ 18 + w.length % 2 ^ 12 * 2 ^ 6 + low % 2 ^ 6) :: w

/-- The address of group `p` of a ring of 2^k groups at an address in host memory (R381, R382). -/
def ringAddr (base k p : Nat) : Nat := base + 9 * (p % 2 ^ k)

/-- The addresses of the rings (R381, R417). -/
def sqBase (s : State) : Nat := s.fld F.CMD_SQ_LO_ADDR + 2 ^ 32 * s.fld F.CMD_SQ_HI_ADDR
def cqBase (s : State) : Nat := s.fld F.CMD_CQ_LO_ADDR + 2 ^ 32 * s.fld F.CMD_CQ_HI_ADDR

/-- Write group `p` of the completion ring (R381, R382). -/
def writeGroup (p : Nat) (b : List Byte) (s : State) : State :=
  emit (.hostWrite (ringAddr (cqBase s) (s.fld F.CMD_Q_CTL_CQ_LOG2) p) b) s

/-- Write a packet into the completion ring from group `p` on; the odd word of a group that holds one word is zero (R381, R382). -/
def writeRing : Nat → List Word → State → State
  | _, [], s => s
  | p, [e], s => writeGroup p (packGroup e 0) s
  | p, e :: o :: r, s => writeRing (p + 1) r (writeGroup p (packGroup e o) s)

/-- A packet as one frame on the SERVICE line (R386). -/
def uartFrame (w : List Word) : List Byte :=
  let g := packWords w
  0x7E :: g ++ leBytes 4 (crc32c g).toNat

/-- Signal an MSI-X vector (R373, R385): a masked one is left pending. -/
def sendMsix (v : Nat) (s : State) : State :=
  match s.cmd.msix[v]? with
  | some e =>
    if e.masked then { s with cmd := { s.cmd with pba := s.cmd.pba ||| 2 ^ v } } else emit (.msix v e.addr e.data) s
  | none => s

/-- MSI-X vector 0 after a reply (R385). -/
def vector0 (s : State) : State :=
  if s.fld F.CMD_CQ_TAIL_PTR ≠ s.fld F.CMD_CQ_HEAD_PTR ∧ s.cmd.v0Sent = false then
    sendMsix 0 { s with cmd := { s.cmd with v0Sent := true } }
  else s

/-- Send a reply (R379): to HOST it is written at CMD_CQ_TAIL, which advances (R382); SERVICE gets a frame (R386). -/
def sendReply (p : Port) (tag : BitVec 10) (op status : Nat) (w : List Word) (s : State) : State :=
  let s := emit (.reply p tag op status w) s
  let x := packetWords tag op status w
  match p with
  | .host =>
    let s := writeRing (s.fld F.CMD_CQ_TAIL_PTR) x s
    vector0 (s.setFld F.CMD_CQ_TAIL_PTR (ptrAdd (s.fld F.CMD_CQ_TAIL_PTR) (packetGroups w.length)))
  | .service => emit (.uart (uartFrame x)) s
  | .partner => emit (.packet x) s

/-- Is the command with this tag of the port in flight (R390)? -/
def inFlight (p : Port) (tag : BitVec 10) (s : State) : Bool := s.cmd.flight.any fun f => f.port == p && f.tag == tag

/-- Commands of a port in flight (R390). -/
def flightsOf (p : Port) (s : State) : List Flight := s.cmd.flight.filter (·.port == p)

/-- Answer a command in flight and end it (R379, R390). -/
def answer (p : Port) (tag : BitVec 10) (status : Nat) (w : List Word) (s : State) : State :=
  match s.cmd.flight.find? fun f => f.port == p && f.tag == tag with
  | none => s
  | some f =>
    let s := { s with cmd := { s.cmd with flight := removeFirst (fun f => f.port == p && f.tag == tag) s.cmd.flight } }
    sendReply p tag f.op status w s

/-- Answer the request being carried out. -/
def Req.reply (r : Req) (status : Nat) (w : List Word) (s : State) : State := answer r.port r.tag status w s

/-- A word of the payload, `w 1` the first (R394). -/
def Req.word (r : Req) (i : Nat) : Word := nth 0 r.w (i - 1)

/-- A field of a payload word. -/
def Req.fld (r : Req) (i hi lo : Nat) : Nat := wbits (r.word i) hi lo

/-- The commands in flight with an opcode, oldest first. -/
def flightsOp (p : Port) (op : Nat) (s : State) : List Flight := s.cmd.flight.filter fun f => f.port == p && f.op == op

/-- Is the command held back by its FENCE flag (R378)? -/
def heldBack (p : Port) (tag : BitVec 10) (s : State) : Bool := s.cmd.held.any fun h => h.port == p && h.tag == tag

/-- Answer every command of a port that has started, with an opcode. -/
def answerAll (p : Port) (op status : Nat) (w : List Word) (s : State) : State :=
  ((flightsOp p op s).filter fun f => !heldBack p f.tag s).foldl (fun s f => answer p f.tag status w s) s

/-- The holder of a lock (R405): 0 the exposure lock, 1 the calibration lock. -/
def lockOf (n : Nat) (s : State) : Option Lease := if n = 0 then s.cmd.exp else s.cmd.cal

/-- Does the port hold the lock? -/
def holds (p : Port) (n : Nat) (s : State) : Bool :=
  match lockOf n s with
  | some l => l.port == p
  | none => false

/-! Memory accesses. -/

/-- Start the exit of both stacks from self-refresh (R221). -/
def wakeMemory (s : State) : State :=
  match s.mem.sr with
  | .asleep => { s with mem := { s.mem with sr := .leaving } }
  | .awake | .leaving => s

/-- Units post accesses (R188, R190), which end self-refresh (R221). -/
def post (l : List TxnPost) (s : State) : State :=
  if l.isEmpty then s
  else
    let s := wakeMemory s
    { s with mem := { s.mem with posts := s.mem.posts ++ l } }

/-- Where a device table stands on its pseudo-channels, above the largest proof ring share (R187; DESIGN CHOICE, log 29). -/
def tableBase (t : Nat) : Nat := 0x2C200000 + 0x800000 * t

/-- The pseudo-channels of the two copies of a device table (R187). -/
def tableCopies (t : Nat) (s : State) : Nat × Nat := nth (0, 32) s.mem.tables t

/-- An access to a device table on port 6 (R187, R188): a write goes to both copies. -/
def postTable (t : Nat) (write : Bool) (s : State) : State :=
  let x (pc : Nat) : TxnPost :=
    { pc := pc, port := 6, addr := tableBase t, bursts := 1, write := write, again := false, use := .table t }
  let (a, b) := tableCopies t s
  post (if write then [x a, x b] else [x a]) s

/-- Is the device held in reset: RESET_N, or an instruction of the test access port that acts as it (R522)? -/
def heldInReset (s : State) : Bool :=
  s.pins.resetN || (match s.tap with
    | .extest | .clamp | .highz | .extestPulse | .extestTrain => true
    | .sample | .idcode | .bypass => false)

/-- The drive of SAFE_BLANK (R480, R487). -/
def safeBlankRule (s : State) : Drive :=
  if heldInReset s || !s.pwr.driving then .undriven
  else match s.core with
    | .idle | .job | .armed | .exposing => .deasserted
    | .boot | .safe | .recovery => .asserted

/-- The drive of OWN_N (R452, R487). -/
def ownRule (s : State) : Drive :=
  if heldInReset s || !s.pwr.driving then .undriven else if s.pair.own then .asserted else .deasserted

/-- The drive of CAM_TRIG (R422, R487). -/
def camTrigRule (s : State) : Drive :=
  if heldInReset s || !s.pwr.driving then .undriven
  else if s.cal.trig then .asserted else .deasserted

/-- The output pins as the rules drive them. -/
def drivePins (s : State) : State :=
  { s with pins := { s.pins with safeBlank := safeBlankRule s, ownN := ownRule s, camTrig := camTrigRule s,
                                 vcxo := !heldInReset s && s.pwr.driving } }

/-- The words of a NOTICE (R415). -/
def noticeWords (n : Nat) : List Word := packetWords 0x3FF 0x70 stOk [BitVec.ofNat 36 (n % 2 ^ 11)]

/-- Send the signals due: vector 1 (R385; none in D3hot, R373), and a NOTICE to SERVICE and PARTNER (R415). -/
def sendWakes (s : State) : State :=
  let s := if s.cmd.host.wake && !s.cmd.host.events.isEmpty && !s.cmd.d3 then sendMsix 1 s else s
  let s := if s.cmd.service.wake && !s.cmd.service.events.isEmpty && s.cmd.uart then
      emit (.uart (uartFrame (noticeWords s.cmd.service.events.length))) (emit (.notice .service s.cmd.service.events.length) s) else s
  let s := if s.cmd.partner.wake && !s.cmd.partner.events.isEmpty && s.lnk.pair.up then
      emit (.packet (noticeWords s.cmd.partner.events.length)) (emit (.notice .partner s.cmd.partner.events.length) s) else s
  { s with cmd := { s.cmd with host := { s.cmd.host with wake := false }, service := { s.cmd.service with wake := false },
                               partner := { s.cmd.partner with wake := false } } }

/-- The end of a handshake epoch: the queue stays as it was, the signals are sent, the pins follow (DESIGN CHOICE, log 2). -/
def finish (s t : State) : State := drivePins { sendWakes t with pending := s.pending, epoch := s.epoch + 1 }

/-- The outcome of a row that watches the pins or the test access port, whose effect is `t`. -/
def donePin (s t : State) : Host.Outcome State Fault Refusal := .next (finish s t)

/-- The outcome of a command whose effect is `t`: a device held in reset does nothing (R480, R522). -/
def done (s t : State) : Host.Outcome State Fault Refusal := donePin s (if heldInReset s then s else t)

end Sys2Proof.Machine
end

