-- ==== Sys2Proof/Machine/Lines.lean ====
section
/-!
DEFINITION. Line coding of the Plonus lanes (R345 to R349), the fallback coding (R366, R367), and the control blocks.
-/
namespace Sys2Proof.Machine

/-- An output group. -/
def State.grp (s : State) (g : Nat) : Grp := amGet (fun _ => Grp.reset) s.lnk.groups g

/-- Change an output group. -/
def State.updGrp (s : State) (g : Nat) (f : Grp → Grp) : State :=
  { s with lnk := { s.lnk with groups := amPut (fun _ => Grp.reset) s.lnk.groups g (f (s.grp g)) } }

/-- Has a valid frame arrived on a back-channel within 1 ms (R375 BC_OK)? -/
def bcOk (g : Nat) (s : State) : Bool :=
  match (s.grp g).bcAt with
  | some t => decide (s.tb.ticks < t + 400000)
  | none => false

/-- The key of a physical lane's coder: 9g + k; the pair lanes follow as group 4. -/
def lineKey (g phys : Nat) : Nat := 9 * g + phys

/-- Scramble payload bits in transmission order (R347): each output bit joins the state as its newest bit. -/
def scramble : BitVec 58 → List Bool → List Bool × BitVec 58
  | c, [] => ([], c)
  | c, d :: r =>
    let o := xor d (xor (c.getLsbD 38) (c.getLsbD 57))
    let c' := (c <<< 1) ||| (if o then 1#58 else 0#58)
    let (l, e) := scramble c' r
    (o :: l, e)

/-- The Gray value of a bit pair (R348). -/
def grayOf (a b : Bool) : Nat := if a then (if b then 2 else 3) else (if b then 1 else 0)

/-- The Gray values of the bits of a block (R345). -/
def grayList : List Bool → List Nat
  | a :: b :: r => grayOf a b :: grayList r
  | _ => []

/-- The level of a precoded value (R348). -/
def levelOf (p : Nat) : Int := 2 * (p : Int) - 3

/-- Precode Gray values (R348): the levels and the last value. -/
def precode : Nat → List Nat → List Int × Nat
  | p, [] => ([], p)
  | p, g :: r =>
    let q := (g + 4 - p) % 4
    let (l, e) := precode q r
    (levelOf q :: l, e)

/-- The levels of a block (R345 to R348) and the coder after it. -/
def encodeBlock (c : Line) (control : Bool) (payload : List Byte) : List Int × Line :=
  let (bits, scr) := scramble c.scr (bitsOfBytes payload)
  let (lv, pre) := precode c.pre (grayList ([control, !control] ++ bits))
  (lv, { scr := scr, pre := pre })

/-- A control block's payload (R349): TYPE and fields as one number of 480 bits, then the CRC-32C of bytes 0 to 59. -/
def ctlPayload (v : Nat) : List Byte := let b := leBytes 60 v; b ++ leBytes 4 (crc32c b).toNat

/-- TIME (R349, R274), from a time in quarter ns. -/
def timePayload (q : Nat) : List Byte := ctlPayload (0x2D + q / 4 % 2 ^ 64 * 2 ^ 8 + q % 4 * 2 ^ 72)

/-- CANCEL (R349, R283). -/
def cancelPayload (ord first copy : Nat) : List Byte :=
  ctlPayload (0x4B + ord % 2 ^ 16 * 2 ^ 8 + first % 2 ^ 32 * 2 ^ 24 + copy * 2 ^ 56)

/-- LANE_ID (R349, R350). -/
def laneIdPayload (g phys active : Nat) (carry : Bool) : List Byte :=
  ctlPayload (0x55 + g * 2 ^ 8 + phys * 2 ^ 10 + active * 2 ^ 14 + (if carry then 2 ^ 19 else 0))

/-- PAIR_LINK (R349, R456). -/
def pairLinkPayload (mask : Nat) (clk : Bool) : List Byte :=
  ctlPayload (0x66 + mask % 2 ^ 9 * 2 ^ 8 + (if clk then 2 ^ 17 else 0))

/-- A frame of the fallback coding for one control block (R367). -/
def ctlFrame (payload : List Byte) : List LaneChar := [.k 28 2] ++ payload.map .d ++ [.k 29 7]

/-- The slice frame of the fallback coding (R367). -/
def sliceFrame (payloads : List (List Byte)) : List LaneChar := [.k 27 7] ++ payloads.flatten.map .d ++ [.k 29 7]

/-- Send a block on a physical lane in PAM4 coding; its coder goes on (R347, R348; IDLE blocks between are left out, DESIGN CHOICE, log 21). -/
def sendBlock (g phys : Nat) (control : Bool) (payload : List Byte) (s : State) : State :=
  let k := lineKey g phys
  let (lv, c) := encodeBlock (amGet (fun _ => Line.reset) s.lnk.lines k) control payload
  emit (.block g phys control payload lv)
    { s with lnk := { s.lnk with lines := amPut (fun _ => Line.reset) s.lnk.lines k c } }

/-- The blocks or the frame of a whole slice on a physical lane in its group's coding (R258 to R260, R367). -/
def emitSlice (g phys : Nat) (payloads : List (List Byte)) (s : State) : State :=
  if (s.grp g).coding then emit (.frame g phys (sliceFrame payloads)) s
  else payloads.foldl (fun s p => sendBlock g phys false p s) s

/-- The slice that a physical lane sends now. -/
def State.sending (s : State) (g phys : Nat) : Option TxSlice := (s.lnk.busy.find? (·.1 == lineKey g phys)).map (·.2)

/-- A physical lane sends no slice any more. -/
def freeLane (g phys : Nat) (s : State) : State :=
  { s with lnk := { s.lnk with busy := s.lnk.busy.filter (·.1 != lineKey g phys) } }

/-- The slice in progress on a lane, whose blocks come before anything else that the lane sends, goes out to its end (log 77). -/
def flushLane (g phys : Nat) (s : State) : State :=
  match s.sending g phys with
  | some x => emitSlice g phys x.payloads (freeLane g phys s)
  | none => s

/-- Send a control block on a lane of an output group in the group's coding, after a slice in progress. -/
def sendCtl (g phys : Nat) (payload : List Byte) (s : State) : State :=
  let s := flushLane g phys s
  if (s.grp g).coding then emit (.frame g phys (ctlFrame payload)) s else sendBlock g phys true payload s

/-- The fallback rate of a code in 1/16 Gb/s (R375). -/
def fbRate16 (code : Nat) : Nat := if code = 0 then 100 else if code = 1 then 165 else 200

/-- What has left, and what is in progress, of a slice cut now (R351, R367): a block takes 257/14 quarter ns, a character 640 over the rate in
1/16 Gb/s. A frame that is cut ends with /E/ (K30.7). -/
def emitCut (g phys : Nat) (x : TxSlice) (s : State) : State :=
  let q := s.quarter - x.start
  if (s.grp g).coding then
    let f := sliceFrame x.payloads
    let n := q * fbRate16 (s.grp g).rate / 640 + 1
    emit (.frame g phys (if n < f.length then f.take n ++ [.k 30 7] else f)) s
  else (x.payloads.take (q * 14 / 257 + 1)).foldl (fun s p => sendBlock g phys false p s) s

/-- The slice in progress on a lane ends after the block, or in fallback the character, in progress. -/
def cutLane (g phys : Nat) (s : State) : State :=
  match s.sending g phys with
  | some x => emitCut g phys x (freeLane g phys s)
  | none => s

/-- A lane starts a slice (R278). -/
def beginSlice (g phys n : Nat) (payloads : List (List Byte)) (s : State) : State :=
  let s := flushLane g phys s
  { s with lnk := { s.lnk with busy := s.lnk.busy ++ [(lineKey g phys, { n := n, start := s.quarter, payloads := payloads })] } }

/-- The slices in progress with a number, whose last block has left (R278), go out to their end. -/
def flushSlice (n : Nat) (s : State) : State :=
  (s.lnk.busy.filter (·.2.n == n)).foldl (fun s e => flushLane (e.1 / 9) (e.1 % 9) s) s

/-- The physical lane that carries an active lane, 0xF for none (R342). -/
def physOf (lam : Nat) (s : State) : Nat := nth 0xF (s.grp (lam / 8)).map (lam % 8)

/-- The active lane m that a physical lane carries, if any (R342). -/
def carriedOn (g phys : Nat) (s : State) : Option Nat := (List.range 8).find? fun m => nth 0xF (s.grp g).map m == phys

/-- Send a control block on the lane that carries an active lane. -/
def sendOnActive (lam : Nat) (payload : List Byte) (s : State) : State :=
  let k := physOf lam s
  if k = 0xF then s else sendCtl (lam / 8) k payload s

/-- Does a physical lane transmit blocks (R354, R371): it has passed its training, or trains past the phase DESKEW? -/
def transmits (g phys : Nat) (s : State) : Bool :=
  let x := s.grp g
  if x.phase = 0 then x.trained.testBit phys else decide (4 ≤ x.phase) && !x.failed.testBit phys

/-- LANE_ID of a physical lane (R349, R350). A lane that carries none sends CARRY = 0; what stands in ACTIVE then is the lane's own active lane
(DEDUCED, log 81), for the spare a free value. -/
def sendLaneId (g phys : Nat) (s : State) : State :=
  match carriedOn g phys s with
  | some m => sendCtl g phys (laneIdPayload g phys (8 * g + m) true) s
  | none =>
    if phys < 8 then sendCtl g phys (laneIdPayload g phys (8 * g + phys) false) s
    else
      let (n, s) := s.draw
      sendCtl g phys (laneIdPayload g phys (n % 32) false) s

/-- A time word on a physical lane (R274): the time at which the first bit of its block reaches the receiver. -/
def sendTime (g phys : Nat) (s : State) : State := sendCtl g phys (timePayload (s.quarter + s.fld (F.TB_TW_DLY_DLY_Q g))) s

/-- What a lane sends before a slice (R274, R350): a time word, and LANE_ID as the last block before the first slice after a change of its
assignment. -/
def leadSlice (g phys : Nat) (s : State) : State :=
  let s := sendTime g phys s
  if (s.grp g).named.testBit phys then s
  else sendLaneId g phys (s.updGrp g fun x => { x with named := x.named ||| 2 ^ phys })

end Sys2Proof.Machine
end

