-- ==== Sys2Proof/Machine/Traj.lean ====
section
/-!
DEFINITION. Planned trajectories (R306 to R312, R326 to R328): phases of constant jerk evaluated exactly in rational
numbers, ramps, moves and stops, and launch times by the exact comparison that rounding half up asks for.
Times are in ns, one tick is 10,000 ns, velocities are in units per ms, and so on.
-/
namespace Sys2Proof.Machine

/-- Position, velocity and acceleration. -/
structure Kin where
  p : Rat
  v : Rat
  a : Rat
  deriving DecidableEq, Repr

/-- The state of a phase `x` ms after its start. -/
def Phase.after (f : Phase) (x : Rat) : Kin :=
  { p := f.p0 + f.v0 * x + f.a0 * x * x / 2 + f.j * x * x * x / 6, v := f.v0 + f.a0 * x + f.j * x * x / 2, a := f.a0 + f.j * x }

/-- The end of a phase in ns. -/
def Phase.end (f : Phase) : Rat := f.t0 + f.dur

/-- The state at the end of a phase. -/
def Phase.last (f : Phase) : Kin := f.after (f.dur / 1000000)

/-- The state of a profile at an instant; after its end the velocity stays (R323: the cruise of homing goes on until an event
ends it; any other profile ends at rest). -/
def profAt : List Phase → Rat → Kin
  | [], _ => { p := 0, v := 0, a := 0 }
  | [f], t =>
    if t < f.t0 then { p := f.p0, v := 0, a := 0 }
    else if t < f.end then f.after ((t - f.t0) / 1000000)
    else { p := f.last.p + f.last.v * ((t - f.end) / 1000000), v := f.last.v, a := 0 }
  | f :: g :: r, t =>
    if t < f.t0 then { p := f.p0, v := 0, a := 0 }
    else if t < f.end then f.after ((t - f.t0) / 1000000)
    else if t < g.t0 then { p := f.last.p, v := 0, a := 0 }
    else profAt (g :: r) t

/-- The end of a profile in ns. -/
def profEnd (l : List Phase) : Rat := (l.getLast?.map Phase.end).getD 0

/-- The part of a profile before an instant. -/
def profCut (t : Rat) (l : List Phase) : List Phase :=
  (l.filter fun f => decide (f.t0 < t)).map fun f => if t < f.end then { f with dur := t - f.t0 } else f

/-- Extend a profile to an instant at the velocity it ends with. -/
def extendTo (t : Rat) (l : List Phase) : List Phase :=
  match l.getLast? with
  | none => l
  | some f => if f.end < t then l ++ [{ t0 := f.end, dur := t - f.end, p0 := f.last.p, v0 := f.last.v, a0 := f.last.a, j := 0 }] else l

/-- The profile with every boundary shifted in time (R308). -/
def profShift (d : Rat) (l : List Phase) : List Phase := l.map fun f => { f with t0 := f.t0 + d }

/-- The profile shifted in position (R323 step 3). -/
def profMove (d : Rat) (l : List Phase) : List Phase := l.map fun f => { f with p0 := f.p0 + d }

/-- The phase of constant jerk from a state. -/
def phaseFrom (t : Rat) (k : Kin) (dur j : Rat) : Phase := { t0 := t, dur := dur, p0 := k.p, v0 := k.v, a0 := k.a, j := j }

/-- Phases of given durations (ns) and jerks from a state, one after the other; a phase of no duration is left out. -/
def chain : Rat → Kin → List (Rat × Rat) → List Phase
  | _, _, [] => []
  | t, k, (dur, j) :: r =>
    if dur = 0 then chain t k r
    else
      let f := phaseFrom t k dur j
      f :: chain f.end f.last r

/-- The state and instant at the end of a chain that began at `t` in `k`. -/
def chainEnd (t : Rat) (k : Kin) (l : List Phase) : Rat × Kin :=
  match l.getLast? with
  | none => (t, k)
  | some f => (f.end, f.last)

/-- The largest number below `2 ^ n` whose square is less than `c`, by bits. -/
def sqrtBelow (c : Nat) : Nat → Nat → Nat
  | 0, acc => acc
  | n + 1, acc => let x := acc + 2 ^ n; sqrtBelow c n (if x * x < c then x else acc)

/-- The smallest natural number whose square is at least `q`. -/
def ratCeilSqrt (q : Rat) : Nat :=
  let c := (ratCeil q).toNat
  if c = 0 then 0 else sqrtBelow c 64 0 + 1

/-- The counts n1 and n2 of a ramp (R309). -/
def rampCounts (dv amax jmax : Rat) : Nat × Nat :=
  let n1 := max 1 (min (ratCeil (100 * amax / jmax)).toNat (ratCeilSqrt (10000 * dv / jmax)))
  (n1, ((ratCeil (100 * dv / amax)).toNat - n1))

/-- The ticks a ramp lasts (R309). -/
def rampTicks (dv amax jmax : Rat) : Nat := let c := rampCounts dv amax jmax; 2 * c.1 + c.2

/-- The phases of a ramp from velocity `v` to `v1` (R309), as durations in ns and jerks. -/
def rampParts (v v1 amax jmax : Rat) : List (Rat × Rat) :=
  if v1 = v then []
  else
    let dv := |v1 - v|
    let (n1, n2) := rampCounts dv amax jmax
    let j := 10000 * dv / ((n1 : Rat) * ((n1 : Rat) + (n2 : Rat)))
    let j := if v1 < v then -j else j
    [(10000 * (n1 : Rat), j), (10000 * (n2 : Rat), 0), (10000 * (n1 : Rat), -j)]

/-- The distance a ramp covers (R309), in the velocity's position unit. -/
def rampDist (v v1 amax jmax : Rat) : Rat := if v1 = v then 0 else (v + v1) * (rampTicks |v1 - v| amax jmax : Rat) / 200

/-- The least number that satisfies a monotone test, by doubling and then by bits. -/
def leastFrom (p : Nat → Bool) : Nat → Nat → Nat
  | 0, acc => acc + 1
  | n + 1, acc => let x := acc + 2 ^ n; leastFrom p n (if p x then acc else x)

/-- The least number of at least 1 that satisfies a monotone test, below 2 ^ 60. -/
def leastNat (p : Nat → Bool) : Nat := leastFrom p 60 0

/-- The search of R310: the ticks m from the start of the move to the start of its last ramp. A larger m lowers the cruise
velocity and never lengthens its ramp, so the test is monotone. -/
def moveTicks (dist vmax amax jmax : Rat) : Nat :=
  leastNat fun m => let vc := 100 * dist / (m : Rat); decide (vc ≤ vmax ∧ rampTicks vc amax jmax ≤ m)

/-- The parts of a move over a distance (R310). -/
def moveParts (dist vmax amax jmax : Rat) : List (Rat × Rat) :=
  if dist ≤ 0 then []
  else
    let m := moveTicks dist vmax amax jmax
    let vc := 100 * dist / (m : Rat)
    rampParts 0 vc amax jmax ++ [(10000 * ((m - rampTicks vc amax jmax : Nat) : Rat), 0)] ++ rampParts vc 0 amax jmax

/-- The parts of a stop from a velocity and an acceleration (R312). -/
def stopParts (v a astop jstop : Rat) : List (Rat × Rat) :=
  let va := v + a * |a| / (2 * jstop)
  (if a = 0 then [] else [(1000000 * |a| / jstop, if 0 < a then -jstop else jstop)]) ++ rampParts va 0 astop jstop

/-- The phases of some parts from a state at an instant; a rest of no duration where there are none, so that the profile holds the instant
and the place at which the axis rests. -/
def chainOrRest (t : Rat) (k : Kin) (parts : List (Rat × Rat)) : List Phase :=
  match chain t k parts with
  | [] => [phaseFrom t k 0 0]
  | l => l

/-- A profile that follows `l` to an instant and stops from there with the given limits (R312), along `sg`. -/
def profStop (t : Rat) (l : List Phase) (sg astop jstop : Rat) : List Phase :=
  let base := extendTo t l
  let k := profAt base t
  let parts := if k.v = 0 ∧ k.a = 0 then []
    else (stopParts (sg * k.v) (sg * k.a) astop jstop).map fun x => (x.1, sg * x.2)
  profCut t base ++ chainOrRest t k parts

/-- The distance of a stop (R332). -/
def stopDist (v a astop jstop : Rat) : Rat :=
  (chainEnd 0 { p := 0, v := v, a := a } (chain 0 { p := 0, v := v, a := a } (stopParts v a astop jstop))).2.p

/-- The latest rest of a profile at or before an instant: the instant and the place where it left it (R328). -/
def lastRest (l : List Phase) (t : Rat) : Option Phase :=
  (l.filter fun f => decide (f.t0 ≤ t ∧ f.v0 = 0 ∧ f.a0 = 0)).getLast?

/-- The largest number of at most `2 ^ n` steps above `lo` that satisfies a test true at `lo` and falling once. -/
def greatestFrom (p : Nat → Bool) : Nat → Nat → Nat
  | 0, acc => acc
  | n + 1, acc => let x := acc + 2 ^ n; greatestFrom p n (if p x then x else acc)

/-- round_half_up(4·τ(p)) in quarter ns (R276, R282): the greatest L such that the planned position at (2L − 1) / 8 ns has not
passed p. The search starts at the rest from which the trajectory runs; `sg` is σ. -/
def launchQuarter (l : List Phase) (rest : Rat) (sg : Int) (p : Rat) : Nat :=
  let lo := (4 * rest).floor.toNat
  greatestFrom (fun n => decide ((sg : Rat) * ((profAt l (((2 * (n : Int) - 1 : Int) : Rat) / 8)).p - p) ≤ 0)) 60 lo

/-- The first rest of a profile at a place, or its end there: the instant at which a stop that ends on the place arrives (R328). -/
def arrivalAt (l : List Phase) (p : Rat) : Option Rat :=
  match l.find? fun f => decide (f.v0 = 0 ∧ f.a0 = 0 ∧ f.p0 = p) with
  | some f => some f.t0
  | none => match l.getLast? with
    | some f => if f.last.v = 0 ∧ f.last.a = 0 ∧ f.last.p = p then some f.end else none
    | none => none

/-- round_half_up(4 · τ(p)) for a place ahead of the rest that a phase leaves (R276, R282, R328): a stop that ends on the place arrives
there, any other motion passes it. -/
def reachQuarter (l : List Phase) (from0 : Phase) (sg : Int) (p : Rat) : Nat :=
  match arrivalAt (l.filter fun f => decide (from0.t0 < f.t0)) p with
  | some t => (ratRound (4 * t)).toNat
  | none => launchQuarter l from0.t0 sg p

/-- The instant at which a profile leaves the rest of a phase: the end of a rest, the start of a ramp (R328). -/
def Phase.leaves (f : Phase) : Rat := if f.j = 0 then f.end else f.t0

end Sys2Proof.Machine
end

