-- ==== Sys2Proof/Machine/Axes.lean ====
section
/-!
DEFINITION. The motion engine's shared operations (R303 to R316, R321): axes, planned positions, setpoint ticks, the start of
a move, its replacement and the stop of R312.
-/
namespace Sys2Proof.Machine

/-- An axis. -/
def State.axis (s : State) (a : Nat) : Axis := amGet (fun _ => Axis.reset) s.mot.axes a

/-- Change an axis. -/
def State.updAxis (s : State) (a : Nat) (f : Axis → Axis) : State :=
  { s with mot := { s.mot with axes := amPut (fun _ => Axis.reset) s.mot.axes a (f (s.axis a)) } }

/-- The axis numbers (R303). -/
def allAxes : List Nat := [0, 1, 2, 3]

/-- The instant of a setpoint tick in ns (R307). -/
def tickNs (k : Nat) : Rat := 10000 * (k : Rat)

/-- The first tick whose setpoint frame has not left: the frame of tick k leaves at t_k − SP_LEAD_US (R307). -/
def frameTick (s : State) : Nat :=
  (s.tb.t.toNat + s.fld F.MOT_CTL_SP_LEAD_US * 1000 * 2 ^ 32) / (10000 * 2 ^ 32) + 1

/-- Has a move begun at an instant? -/
def Mv.begun (t : Rat) (m : Mv) : Bool :=
  match m.prof with
  | [] => true
  | f :: _ => decide (f.t0 ≤ t)

/-- The move that plans an axis at an instant: the last that has begun. -/
def moveOf (a : Nat) (t : Rat) (s : State) : Option Mv :=
  (s.mot.moves.filter fun m => m.axes.any (·.1 == a) && m.begun t).getLast?

/-- The planned position, velocity and acceleration of an axis at an instant, in 1/64 nm (R306): by the move that has begun last, else by
the scan on Y, else the axis rests. -/
def planOf (a : Nat) (t : Rat) (s : State) : Kin :=
  match moveOf a t s with
  | some m =>
    match m.axes.find? (·.1 == a) with
    | some (_, p, d) => let k := profAt m.prof t; { p := p + d * k.p, v := d * k.v, a := d * k.a }
    | none => { p := (s.axis a).rest, v := 0, a := 0 }
  | none =>
    if a = 1 ∧ s.mot.scan.prof ≠ [] then profAt s.mot.scan.prof t else { p := (s.axis a).rest, v := 0, a := 0 }

/-- Is the axis's planned velocity other than 0 now (R339)? -/
def moving (a : Nat) (s : State) : Bool := decide ((planOf a s.nowRat s).v ≠ 0)

/-- Is the axis part of a move that has not ended? -/
def inMove (a : Nat) (s : State) : Bool := s.mot.moves.any fun m => m.axes.any (·.1 == a)

/-- Does a stop of R312 run in the scan's profile now? -/
def scanStopRuns (s : State) : Bool :=
  match s.mot.scan.stopFrom with
  | some t => decide (t ≤ s.nowRat ∧ s.nowRat < profEnd s.mot.scan.prof)
  | none => false

/-- Does a stop of R312 run on the axis, or is one committed whose end is awaited? -/
def stopping (a : Nat) (s : State) : Bool :=
  (s.mot.moves.any fun m => m.stopping && m.axes.any (·.1 == a)) || (a == 1 && (s.mot.scan.stopping || scanStopRuns s))

/-- MOT_AX_STATUS.STOPPING (R339): a stop of R312 runs on the axis; one of the scan that starts later does not run yet. -/
def stopShown (a : Nat) (s : State) : Bool :=
  (s.mot.moves.any fun m => m.stopping && m.axes.any (·.1 == a)) || (a == 1 && scanStopRuns s)

/-- Has the axis a fault cause set (R316)? -/
def faulted (a : Nat) (s : State) : Bool := decide (s.getReg (A.MOT_AX_FAULT a) ≠ 0)

/-- MOT_AX_STATUS.HOMING: named by a HOME in progress and not yet homed (R323). -/
def homing (a : Nat) (s : State) : Bool := (s.axis a).homing

/-- The smallest of some limits; 0 for none. -/
def minRat : List Rat → Rat
  | [] => 0
  | x :: r => r.foldl (fun a b => if b < a then b else a) x

/-- The limit of a path parameter: the least of the axes' limits over their distances (R311, R312). -/
def pathLimit (lim : Nat → Nat) (axes : List (Nat × Rat × Rat)) : Rat :=
  minRat ((axes.filter fun x => decide (x.2.2 ≠ 0)).map fun x => 64 * (lim x.1 : Rat) / |x.2.2|)

/-- The instant at which a move can stop from: not before it begins. -/
def Mv.stopAt (t : Rat) (m : Mv) : Rat :=
  match m.prof with
  | [] => t
  | f :: _ => if t < f.t0 then f.t0 else t

/-- Stop a move at an instant along R312; a move that already stops goes on as it is, and one that has not begun rests where it would
begin. -/
def stopMv (s : State) (t : Rat) (m : Mv) : Mv :=
  if m.stopping then m
  else { m with prof := profStop (m.stopAt t) m.prof 1 (pathLimit (fun a => s.fld (F.MOT_AX_ACC_A_STOP a)) m.axes)
                  (pathLimit (fun a => s.fld (F.MOT_AX_JERK_J_STOP a)) m.axes), stopping := true }

/-- Stop every move that involves an axis of a set, from the first tick whose frame has not left (R315, R316). -/
def stopMoves (p : Nat → Bool) (s : State) : State :=
  let t := tickNs (frameTick s)
  { s with mot := { s.mot with moves := s.mot.moves.map fun m => if m.axes.any (fun x => p x.1) then stopMv s t m else m } }

/-- Has the profile of a move ended (R313)? -/
def Mv.over (t : Rat) (m : Mv) : Bool := decide (profEnd m.prof ≤ t) && decide ((profAt m.prof t).v = 0)

/-- Stop every move that involves an axis of a set and has not reached its end (R315). -/
def stopMovesIf (p : Nat → Bool) (s : State) : State :=
  let t := tickNs (frameTick s)
  let stop (m : Mv) : Mv := if m.axes.any (fun x => p x.1) && !m.over s.nowRat then stopMv s t m else m
  { s with mot := { s.mot with moves := s.mot.moves.map stop } }

/-- The position at the end of a move for each of its axes. -/
def Mv.ends (m : Mv) : List (Nat × Rat) :=
  let k := profAt m.prof (profEnd m.prof)
  m.axes.map fun x => (x.1, x.2.1 + x.2.2 * k.p)

/-- A move from given starts to given targets that begins at an instant (R310, R311). -/
def mkMove (s : State) (t : Rat) (targets : List (Nat × Rat × Rat)) (kind : MoveKind) : Mv :=
  let axes := targets.map fun x => (x.1, x.2.1, x.2.2 - x.2.1)
  let parts := if axes.all fun x => decide (x.2.2 = 0) then []
    else moveParts 1 (pathLimit (fun a => s.fld (F.MOT_AX_VEL_V_MOVE a)) axes)
      (pathLimit (fun a => s.fld (F.MOT_AX_ACC_A_MOVE a)) axes) (pathLimit (fun a => s.fld (F.MOT_AX_JERK_J_MOVE a)) axes)
  { axes := axes, prof := chainOrRest t { p := 0, v := 0, a := 0 } parts, kind := kind, stopping := false }

/-- Begin counting settled words anew for the axes of a move (R313). -/
def unsettle (axes : List Nat) (s : State) : State := axes.foldl (fun s a => s.updAxis a fun x => { x with settleRun := 0 }) s

/-- The moves that involve one of some axes. -/
def movesOf (axes : List Nat) (s : State) : List Mv := s.mot.moves.filter fun m => m.axes.any fun x => axes.contains x.1

/-- Would a target be a reversal of a stopped move (R314)? `t` is the instant at which the stop starts. -/
def reverses (t : Rat) (old stopped : Mv) (target : Nat × Int) : Bool :=
  match old.axes.find? (·.1 == target.1), stopped.ends.find? (·.1 == target.1) with
  | some (_, _, d), some (_, e) => decide (d * (profAt old.prof t).v * ((target.2 : Rat) - e) < 0)
  | _, _ => false

/-- Would a MOVE to these targets be a reversal (R314)? -/
def wouldReverse (targets : List (Nat × Int)) (s : State) : Bool :=
  let t := tickNs (frameTick s)
  (movesOf (targets.map (·.1)) s).any fun m => targets.any fun x => reverses t m (stopMv s t m) x

/-- Take a finished or stopped move out: its axes rest where it ended. -/
def endMove (m : Mv) (s : State) : State :=
  let s := m.ends.foldl (fun s e => s.updAxis e.1 fun x => { x with rest := e.2 }) s
  { s with mot := { s.mot with moves := removeFirst (fun x => decide (x = m)) s.mot.moves } }

/-- Begin a move to absolute targets (R313, R314): a move of a named axis that has reached its end and still settles is given up; running moves of the named axes stop as a whole, reversals are recorded in
MOT_AX_STOPPT with MOT_EVT.REVERSE, and the new move begins where and when the stops end. -/
def beginMove (targets : List (Nat × Int)) (kind : MoveKind) (s : State) : State :=
  let t := tickNs (frameTick s)
  let named := targets.map (·.1)
  let s := ((movesOf named s).filter (·.over s.nowRat)).foldl (fun s m => endMove m s) s
  let old := movesOf named s
  let stopped := old.map (stopMv s t)
  let rev := (old.zip stopped).filter fun x => targets.any (reverses t x.1 x.2)
  let start := stopped.foldl (fun a m => if a < profEnd m.prof then profEnd m.prof else a) t
  let at0 := stopped.flatMap Mv.ends
  let s := rev.foldl (fun s x => (x.2.ends.filter fun e =>
      match x.1.axes.find? (·.1 == e.1) with
      | some (_, _, d) => decide (d * (profAt x.1.prof t).v ≠ 0)
      | none => false).foldl (fun s e => s.setReg (A.MOT_AX_STOPPT e.1) (BitVec.ofInt 36 (ratRound e.2))) s) s
  let s := raiseIf (!rev.isEmpty) F.MOT_EVT_REVERSE s
  let from0 (a : Nat) : Rat := match at0.reverse.find? (·.1 == a) with
    | some e => e.2
    | none => (planOf a start s).p
  let m := mkMove s start (targets.map fun x => (x.1, from0 x.1, (x.2 : Rat))) kind
  let moves := s.mot.moves.map fun m => if m.axes.any (fun x => named.contains x.1) then stopMv s t m else m
  unsettle named { s with mot := { s.mot with moves := moves ++ [m] } }

/-- A drive of homing at HOME_V in a direction, which cruises until an event ends it (R323 steps 1 and 2). -/
def homeDrive (a : Nat) (dir : Int) (s : State) : State :=
  let t := tickNs (frameTick s)
  let d : Rat := (dir : Rat)
  let parts := rampParts 0 (64 * (s.fld (F.MOT_AX_CTL_HOME_V a) : Rat)) (64 * (s.fld (F.MOT_AX_ACC_A_MOVE a) : Rat))
    (64 * (s.fld (F.MOT_AX_JERK_J_MOVE a) : Rat))
  let m : Mv := { axes := [(a, (planOf a t s).p, d)], prof := chain t { p := 0, v := 0, a := 0 } parts, kind := .homing,
                  stopping := false }
  { s with mot := { s.mot with moves := s.mot.moves ++ [m] } }

/-- Direction of the reference limit (R323): −1 for the negative limit, +1 for the positive one. -/
def refDir (a : Nat) (s : State) : Int := if s.bit (F.MOT_AX_CTL_REF_DIR a) then 1 else -1

/-- A limit input of an axis. -/
def Axis.limit (x : Axis) (pos : Bool) : Limit := if pos then x.limP else x.limM

/-- Change a limit input of an axis. -/
def Axis.updLimit (x : Axis) (pos : Bool) (f : Limit → Limit) : Axis :=
  if pos then { x with limP := f x.limP } else { x with limM := f x.limM }

/-- Begin the homing of the first axis left (R323): step 1 when its reference limit is asserted, else step 2. -/
def homeNext (s : State) : State :=
  match s.mot.home with
  | none => s
  | some h =>
    match h.axes with
    | [] => { s with mot := { s.mot with home := none } }
    | a :: _ =>
      let d := refDir a s
      let on := ((s.axis a).limit (decide (0 < d))).deb
      let s := { s with mot := { s.mot with home := some { h with step := if on then 1 else 2 } } }
      let s := s.updAxis a fun x => { x with homed := false }
      homeDrive a (if on then -d else d) s

/-- Abort a HOME (R324): its axis stops, HOME_ABORT is set, and no axis is homing any more. -/
def abortHome (s : State) : State :=
  match s.mot.home with
  | none => s
  | some h =>
    if h.aborting then s
    else
      let s := stopMoves (fun a => h.axes.head? == some a) s
      let s := h.named.foldl (fun s a => s.updAxis a fun x => { x with homing := false }) s
      let run := s.mot.moves.any fun m => m.kind == .homing
      raise F.MOT_EVT_HOME_ABORT { s with mot := { s.mot with home := if run then some { h with aborting := true } else none } }

/-- Abort a HOME that names an axis (R324). -/
def abortHomeOf (a : Nat) (s : State) : State :=
  match s.mot.home with
  | some h => if h.named.contains a then abortHome s else s
  | none => s

/-- Stop every move and abort homing (R316 INTERLOCK_N, R409 step 3, R482). -/
def stopAllMotion (s : State) : State := stopMoves (fun _ => true) (abortHome s)

/-- Mark the LOAF_ARM that waits: its move ends before it settles, with this status; no reply where the port was reset (R532). -/
def failArm (status : Nat) (silent : Bool) (s : State) : State :=
  match s.mot.arm with
  | none => s
  | some a => { s with mot := { s.mot with arm := some { a with ends := some (a.ends.getD status), silent := a.silent || silent } } }

/-- Does the LOAF_ARM move run? -/
def armRuns (s : State) : Bool := s.mot.moves.any fun m => m.kind == .arm && !m.stopping

/-- A LOAF_ARM whose move is stopped or replaced ends with BAD_STATE (R532). -/
def armBroken (s : State) : State := if s.mot.arm.isSome && !armRuns s then failArm stBadState false s else s

end Sys2Proof.Machine
end

