-- ==== Sys2Proof/Machine/Journal.lean ====
section
/-!
DEFINITION. The unbaked journal (R290 to R298, R529): entries and their words, the commit of an entry, range entries that
stay open, and the JNL messages that an owner sends to its standby (R465, R467).
-/
namespace Sys2Proof.Machine

/-- The capacity of the journal (R290). -/
def jnlCapacity : Nat := 65536

/-- Entry kinds (R292). -/
def kBlanked : Nat := 0x1
def kCancelled : Nat := 0x2
def kDisplaced : Nat := 0x3
def kUnreached : Nat := 0x4
def kRow : Nat := 0x5
def kFront : Nat := 0x6
def kPass : Nat := 0x7
def kLaneDead : Nat := 0x8
def kPixel : Nat := 0x9
def kLost : Nat := 0xF

/-- Causes of stops and of CANCELLED and UNREACHED entries (R293). -/
def cDisplace : Nat := 0x1
def cStop : Nat := 0x2
def cLease : Nat := 0x3
def cTakeover : Nat := 0x4
def cFault : Nat := 0x5
def cInterlock : Nat := 0x6
def cPwrFail : Nat := 0x7
def cFull : Nat := 0x8
def cBadRow : Nat := 0x9

/-- The four words of an entry (R291). -/
def JEnt.words (e : JEnt) : List Word :=
  [BitVec.ofNat 36 (e.kind % 16 * 2 ^ 32 + e.cause % 16 * 2 ^ 28 + e.id % 2 ^ 16 * 2 ^ 12 + e.ord % 2 ^ 12),
   BitVec.ofNat 36 (e.n1 % 2 ^ 25 * 2 ^ 11 + e.a % 2 ^ 11), BitVec.ofNat 36 (e.n2 % 2 ^ 25 * 2 ^ 11 + e.b % 2 ^ 11),
   BitVec.ofNat 36 (e.v % 2 ^ 32)]

/-- The entry of four words (R291). -/
def JEnt.ofWords (w : List Word) : JEnt :=
  let g (i hi lo : Nat) := wbits (nth 0 w i) hi lo
  { kind := g 0 35 32, cause := g 0 31 28, id := g 0 27 12, ord := g 0 11 0, n1 := g 1 35 11, a := g 1 10 0, n2 := g 2 35 11,
    b := g 2 10 0, v := g 3 31 0 }

/-- A LOST entry (R292). -/
def lostEnt (v : Nat) : JEnt := { kind := kLost, cause := 0, id := 0, ord := 0, n1 := 0, a := 0, n2 := 0, b := 0, v := satU 32 v }

/-- Has this device handed its token over, with its loaf still ending (R471, R473)? -/
def handed (s : State) : Bool :=
  match s.pair.handing with
  | some h => h.passed
  | none => false

/-- Is the device the owner of a formed pair that follows (STATE SYNC, link up)? A new owner whose loaf still ends is not. -/
def pairOwner (s : State) : Bool := s.pair.st == 2 && s.pair.own && s.lnk.pair.up && s.pair.taking.isNone

/-- Is the device the standby of a pair in SYNC (R459)? An old owner whose loaf still ends is not. -/
def pairStandby (s : State) : Bool := s.pair.st == 2 && !s.pair.own && !handed s

/-- Send a request to the partner (R465), with the next tag; answers the tag. -/
def sendPeer (op : Nat) (w : List Word) (s : State) : BitVec 10 × State :=
  let tag := BitVec.ofNat 10 (s.pair.nextTag % 0x3FF)
  (tag, emit (.packet (packetWords tag op 0 w)) <| emit (.toPartner tag op w) { s with pair := { s.pair with nextTag := (s.pair.nextTag + 1) % 0x3FF } })

/-- The first payload word of a PAIR_SYNC (R465). -/
def fnWord (fn : Nat) : Word := BitVec.ofNat 36 (fn * 2 ^ 32)

/-- The owner's JNL message of an entry committed, opened or extended (R465, R467). -/
def sendJnl (e : JEnt) (s : State) : State :=
  if pairOwner s then
    let (tag, s) := sendPeer 0x60 (fnWord 0x6 :: e.words) s
    { s with pair := { s.pair with unacked := s.pair.unacked ++ [tag] } }
  else s

/-- Store an entry at the end of the journal, in both of its copies (R187, R290); TOTAL counts it and wraps (R301). -/
def storeEnt (e : JEnt) (s : State) : State :=
  let s := postTable 0 true { s with jnl := s.jnl ++ [e] }
  s.setFld F.TB_JNL_TOTAL_TOTAL ((s.fld F.TB_JNL_TOTAL_TOTAL + 1) % 2 ^ 36)

/-- The LOST entry of entries that could not be stored, once there is room (R529). -/
def flushDropped (s : State) : State :=
  let d := s.fld F.TB_JNL_DROP_DROPPED
  if d ≠ 0 ∧ s.jnl.length < jnlCapacity then storeEnt (lostEnt d) (s.setFld F.TB_JNL_DROP_DROPPED 0) else s

/-- Commit an entry (R290, R529): a full journal stores nothing, counts the entry in DROPPED and sets JNL_FULL. -/
def commitEnt (e : JEnt) (s : State) : State :=
  let s := flushDropped s
  let s := if s.jnl.length < jnlCapacity then storeEnt e s
    else raise F.TB_EVT_JNL_FULL (s.bump F.TB_JNL_DROP_DROPPED)
  sendJnl e s

/-- Commit entries in order. -/
def commitAll (l : List JEnt) (s : State) : State := l.foldl (fun s e => commitEnt e s) s

/-- Do a record and an open entry concern one loaf, kind and cause? -/
def JEnt.same (e r : JEnt) : Bool := e.kind == r.kind && e.cause == r.cause

/-- The entry an open entry becomes when it takes a record, `none` where the record opens a new entry (R294). -/
def JEnt.take (e r : JEnt) : Option JEnt :=
  if e.id ≠ r.id ∨ e.ord ≠ r.ord then none
  else if e.v = r.v ∧ r.n1 ≤ e.n2 + 1 ∧ e.n2 < r.n2 then some { e with n2 := r.n2 }
  else if e.kind ≠ kFront ∧ e.n1 = e.n2 ∧ r.n1 = e.n1 ∧ r.n2 = e.n1 then some { e with v := e.v ||| r.v }
  else if e.n1 ≤ r.n1 ∧ r.n2 ≤ e.n2 ∧ (if e.kind = kFront then e.v ≤ r.v else e.v ||| r.v = e.v) then some e
  else none

/-- Take a record of BLANKED, CANCELLED or FRONT (R294). -/
def recordRange (r : JEnt) (s : State) : State :=
  match s.lch.openEnts.find? (JEnt.same r) with
  | none => sendJnl r { s with lch := { s.lch with openEnts := s.lch.openEnts ++ [r] } }
  | some e =>
    match e.take r with
    | some e' =>
      let s := { s with lch := { s.lch with openEnts := updateFirst (JEnt.same r) (fun _ => e') s.lch.openEnts } }
      if e' = e then s else sendJnl e' s
    | none =>
      let s := { s with lch := { s.lch with openEnts := removeFirst (JEnt.same r) s.lch.openEnts ++ [r] } }
      sendJnl r (commitEnt e s)

/-- Slice `n` has been launched, cancelled or journaled: entries that end before it close (R294). -/
def closeBefore (n : Nat) (s : State) : State :=
  let (done, rest) := s.lch.openEnts.partition fun e => decide (e.n2 < n)
  commitAll done { s with lch := { s.lch with openEnts := rest } }

/-- A record journals slices `r.n1` to `r.n2`: open entries of another kind or cause whose first slice after N2 is among them close (R294). -/
def closeAt (r : JEnt) (s : State) : State :=
  let (done, rest) := s.lch.openEnts.partition fun e => !e.same r && decide (r.n1 ≤ e.n2 + 1 ∧ e.n2 + 1 ≤ r.n2)
  commitAll done { s with lch := { s.lch with openEnts := rest } }

/-- Close every open entry (R294: the loaf ends). -/
def closeAll (s : State) : State := commitAll s.lch.openEnts { s with lch := { s.lch with openEnts := [] } }

/-- Entries free (R297). -/
def jnlFree (s : State) : Nat := jnlCapacity - s.jnl.length

end Sys2Proof.Machine
end

