-- ==== Sys2Proof/Machine/Operands.lean ====
section
/-!
DEFINITION. The operand forms of the Toreb requests: the form check of R380, the payload table of R394 with the room a reply
may take (R383), and the rights, locks, states and pending limits of R392, R393, R402, R405, R408, R436 and R466.
-/
namespace Sys2Proof.Machine

/-- The opcodes of R393. -/
def knownOps : List Nat :=
  [0x01, 0x02, 0x03, 0x04, 0x10, 0x11, 0x12, 0x13, 0x14, 0x15, 0x16, 0x18, 0x20, 0x21, 0x22, 0x30, 0x31, 0x32, 0x40, 0x41,
   0x42, 0x43, 0x50, 0x51, 0x58, 0x60, 0x61, 0x70, 0x7F]

/-- Number of ones in the low four bits of an AXES mask. -/
def popcount (n : Nat) (m : Nat) : Nat := (List.range n).countP m.testBit

/-- Bits set in a mask of `n` bits, ascending. -/
def bitsSet (n m : Nat) : List Nat := (List.range n).filter m.testBit

/-- Active lanes of a beam configuration (R4). -/
def lanesOf (beams : Nat) : Nat := if beams = 1 then 8 else if beams = 2 then 16 else if beams = 3 then 32 else 0

/-- FN of a PAIR_SYNC (R465). -/
def Req.fn (r : Req) : Nat := r.fld 1 35 32

/-- KIND of a MARK (R465). -/
def Req.markKind (r : Req) : Nat := r.fld 2 3 0

/-- The LEN of a PAIR_SYNC is the one of its FN (R465). A JOIN of SERVICE, for which the table has no LEN, may have either of the two; a
reserved FN has none, and fails later (R466); a MARK or TRAJ with a reserved code fails here (DEDUCED, log 78). -/
def pairForm (r : Req) (s : State) : Bool :=
  let n := r.w.length
  if n = 0 then false
  else match r.fn with
  | 0 => (match r.port with
      | .host => n == 1
      | .partner => n == 2
      | .service => n == 1 || n == 2)
  | 1 => n == 6
  | 2 => decide (n = 4 ∧ r.fld 3 17 15 ≤ 4)
  | 3 => decide ((r.markKind = 1 ∧ n = 4) ∨ (r.markKind = 2 ∧ n = 3) ∨ (r.markKind = 3 ∧ n = 5))
  | 4 => n == 4
  | 5 => (match s.job with
      | some j => decide (n = 2 + lanesOf j.beams)
      | none => decide (2 ≤ n))
  | 6 => n == 5
  | 7 | 8 => n == 1
  | _ => true

/-- Does the From column of R465 give the FN of a PAIR_SYNC to its port (R466)? -/
def fnFrom (r : Req) : Bool :=
  match r.fn with
  | 0 | 7 => r.port != .service
  | 1 | 2 | 3 | 4 | 5 | 6 => r.port == .partner
  | 8 => r.port == .host
  | _ => false

/-- The LEN of a request as the payload table allows it (R394). -/
def lenOk (r : Req) (s : State) : Bool :=
  let n := r.w.length
  match r.op with
  | 0x01 => decide (n ≤ 4095)
  | 0x02 => n == 1
  | 0x03 => decide (2 ≤ n ∧ n = 1 + r.fld 1 30 19)
  | 0x04 => n == 3
  | 0x10 => n == 2
  | 0x11 | 0x13 | 0x14 | 0x15 => n == 0
  | 0x12 => decide (4 ≤ n ∧ n = 1 + 3 * r.fld 1 7 0)
  | 0x16 | 0x18 | 0x20 | 0x21 | 0x22 | 0x31 | 0x32 | 0x40 | 0x41 | 0x42 | 0x43 | 0x50 | 0x51 | 0x70 | 0x7F => n == 1
  | 0x30 => decide (2 ≤ n ∧ n = 1 + popcount 4 (r.fld 1 3 0))
  | 0x58 => n == 2
  | 0x60 => pairForm r s
  | 0x61 => n == 4
  | _ => false

/-- The form check (R380 step 1): a known opcode, TAG not 0x3FF, reserved flags 0, and the LEN. -/
def formOk (r : Req) (s : State) : Bool :=
  knownOps.contains r.op && r.tag != 0x3FF && decide (r.flags.toNat < 2) && lenOk r s

/-- The FENCE flag (R378). -/
def Req.fence (r : Req) : Bool := r.flags.getLsbD 0

/-- The words of the largest reply that the payload table allows for a request (R383). -/
def maxReply (op : Nat) (w : List Word) : Nat :=
  let w1 := nth 0 w 0
  match op with
  | 0x01 => w.length
  | 0x02 => wbits w1 30 19
  | 0x18 | 0x70 => 1 + 4 * wbits w1 9 0
  | 0x40 => if wbits w1 7 0 ∈ [0x01, 0x02, 0x03] then 5 else 0
  | 0x03 | 0x04 | 0x12 | 0x42 | 0x43 => 1
  | _ => 0

/-- What a refused request's reply carries (R394 with R397, R435): LOAF_LOAD its count of bytes read, 0; a capture of DARK,
FLAT or BEAMS its five words, of which no frame gives the first two and the last (DEDUCED, log 20). -/
def refusalPayload (r : Req) (s : State) : List Word × State :=
  if r.op = 0x12 then ([0], s)
  else if r.op = 0x40 ∧ r.fld 1 7 0 ∈ [0x01, 0x02, 0x03] then
    let (a, s) := s.draw
    let (b, s) := s.draw
    let (c, s) := s.draw
    ([BitVec.ofNat 36 (a % 2 ^ 32), BitVec.ofNat 36 (b % 2 ^ 32), 0, 0, BitVec.ofNat 36 c], s)
  else ([], s)

/-- Answer a request that is refused with a status. -/
def refuse (r : Req) (status : Nat) (s : State) : State :=
  let (w, s) := refusalPayload r s
  r.reply status w s

/-- Does the request consume journal entries (R400)? -/
def Req.consumes (r : Req) : Bool := decide (r.op = 0x18 ∧ r.fld 1 17 17 = 1)

/-- A calibration command (R434). -/
def isCal (op : Nat) : Bool := decide (0x40 ≤ op ∧ op ≤ 0x43)

/-- Has the port the calibration right (R402)? -/
def calRight (p : Port) (s : State) : Bool :=
  match p with
  | .service => true
  | .host => s.bit F.CMD_GRANT_HOST_CAL
  | .partner => false

/-- Step 2 of R380: may the port issue the command (R402)? REG_WRITE, REG_MODIFY and LOCK_ACQUIRE are decided by their own
rules (R403, R405). -/
def rightOk (r : Req) (s : State) : Bool :=
  if isCal r.op then calRight r.port s
  else match r.op with
  | 0x10 | 0x11 | 0x12 | 0x13 | 0x14 | 0x15 | 0x16 | 0x30 | 0x31 | 0x32 => r.port == .host
  | 0x18 => !r.consumes || r.port == .host
  | 0x50 | 0x51 | 0x58 | 0x7F => r.port != .partner
  | 0x60 => r.port != .service
  | 0x61 => r.port == .partner
  | _ => true

/-- The lock that a command needs, held by its own port (R393, R466). -/
def needsLock (r : Req) : Option Nat :=
  if isCal r.op then some 1
  else match r.op with
  | 0x10 | 0x11 | 0x12 | 0x13 | 0x14 | 0x30 | 0x31 => some 0
  | 0x18 => if r.consumes then some 0 else none
  | 0x60 => if r.port = .host ∧ r.fn ∈ [0, 7, 8] then some 0 else none
  | _ => none

/-- Step 3 of R380: the locks (R393, R408). -/
def lockOk (r : Req) (s : State) : Bool :=
  match needsLock r with
  | some n => holds r.port n s
  | none => match r.op with
    | 0x50 | 0x51 | 0x58 | 0x7F => (match s.cmd.exp with
        | some l => l.port == r.port
        | none => true)
    | _ => true

/-- Step 4 of R380: CORE_STATE is one in which the opcode table accepts the command (R393, R436, R466). -/
def stateOk (r : Req) (s : State) : Bool :=
  match r.op with
  | 0x10 => s.core == .idle
  | 0x11 => s.core == .job || s.core == .safe
  | 0x12 => s.core == .job || s.core == .armed || s.core == .exposing
  | 0x13 => s.core == .job
  | 0x14 => s.core == .armed
  | 0x15 => s.core == .armed || s.core == .exposing
  | 0x16 => s.core == .job || s.core == .armed || s.core == .exposing || s.core == .safe
  | 0x40 | 0x41 => s.core != .boot && s.core != .recovery
  | 0x42 | 0x43 => s.core != .boot
  | 0x50 => s.core == .idle || s.core == .job
  | 0x51 => s.core == .idle
  | 0x60 => match r.port, r.fn with
    | .host, 0 | .host, 7 => s.core == .idle || s.core == .job
    | .host, 8 => s.core == .job || s.core == .exposing
    | _, _ => true
  | _ => true

/-- Step 5 of R380: the pending limits (R392): 16 LOAF_LOAD commands and one of each other opcode. -/
def limitOk (r : Req) (s : State) : Bool :=
  let n := ((flightsOp r.port r.op s).filter fun f =>
    f.tag != r.tag && !(s.cmd.held.any fun h => h.port == f.port && h.tag == f.tag)).length
  if r.op = 0x12 then decide (n < 16) else n == 0

/-- The first check of R380 that fails, after the form, with its status. -/
def firstFailure (r : Req) (s : State) : Option Nat :=
  if !formOk r s then some stBadParam
  else if !rightOk r s then some stDenied
  else if !lockOk r s then some stLocked
  else if !stateOk r s then some stBadState
  else if !limitOk r s then some stBusy
  else none

/-- Carry out a request that starts: the checks of R380 in their order, then the command's own body. -/
def start (body : Req → State → State) (r : Req) (s : State) : State :=
  match firstFailure r s with
  | some st => refuse r st s
  | none => body r s

/-- How many commands of a port may be in flight (R390). -/
def flightLimit : Port → Nat
  | .host => 960 | .service => 32 | .partner => 32

/-- Answer at once without counting as in flight (R390, R393). -/
def answerNow (r : Req) (status : Nat) (s : State) : State :=
  let (w, s) := refusalPayload r s
  sendReply r.port r.tag r.op status w s

/-- The command in flight of a request. -/
def Req.flight (r : Req) : Flight := { port := r.port, tag := r.tag, op := r.op, w := r.w }

/-- Groups of the completion ring in use or reserved for replies to come (R383). -/
def ringUsed (s : State) : Nat :=
  (s.fld F.CMD_CQ_TAIL_PTR + 2 ^ 21 - s.fld F.CMD_CQ_HEAD_PTR) % 2 ^ 21 +
    ((flightsOf .host s).map fun f => packetGroups (maxReply f.op f.w)).sum

/-- Does the completion ring have room for the largest reply to a HOST request (R383)? -/
def ringRoom (r : Req) (s : State) : Bool :=
  r.port != .host || decide (ringUsed s + packetGroups (maxReply r.op r.w) ≤ 2 ^ s.fld F.CMD_Q_CTL_CQ_LOG2)

/-- Take a request that a port has brought (R378, R380, R383, R390, R391, R393): a port that is not up takes none; a HOST request for
whose reply the completion ring has no room is left where it is, and so is one beyond the limit; a tag still in flight discards it; BOOT
answers BUSY; a request with FENCE waits for the port's earlier requests (DEDUCED, log 10). -/
def takeReq (body : Req → State → State) (r : Req) (s : State) : State :=
  if !portUp r.port s || !ringRoom r s then s
  else if inFlight r.port r.tag s then raise F.CMD_EVT_DUP_TAG (s.bump (F.CMD_PORT_ERR_DUP_TAG (portIdx r.port)))
  else if s.core = .boot then answerNow r stBusy s
  else if flightLimit r.port ≤ (flightsOf r.port s).length then
    match r.port with
    | .host => s
    | _ => answerNow r stBusy s
  else
    let waits := r.fence && !(flightsOf r.port s).isEmpty
    let s := { s with cmd := { s.cmd with flight := s.cmd.flight ++ [r.flight] } }
    if waits then { s with cmd := { s.cmd with held := s.cmd.held ++ [r] } } else start body r s

/-- A request of a row: port, header and opcode as the row names it. -/
def mkReq (p : Port) (h : Hdr) (op : Nat) (w : List Word) : Req := { port := p, tag := h.tag, flags := h.flags, op := op, w := w }

/-- A payload whose first word carries a KIND in bits 7 to 0 (R434). -/
def withKind (k : Nat) : List Word → List Word
  | [] => []
  | w :: r => setBits w 7 0 k :: r

/-- A payload whose first word carries an FN in bits 35 to 32 (R465). -/
def withFn (fn : Nat) : List Word → List Word
  | [] => []
  | w :: r => setBits w 35 32 fn :: r

end Sys2Proof.Machine
end

