-- ==== Sys2Proof/Machine/Launch.lean ====
section
/-!
DEFINITION. The launch logic's shared operations: slices of the loaf (R226, R227), FIRST and L_FIRST (R284), the cancel symbol
(R283, R351), the stop of the scan (R277, R312, R337), stopping events (R286, R287), the hard-limit pause (R255) and slow
requests (R335).
-/
namespace Sys2Proof.Machine

/-- Beam rows of a configuration (R227). -/
def beamRows (beams : Nat) : Nat := if beams = 1 then 128 else if beams = 2 then 256 else if beams = 3 then 512 else 0

/-- The beam configuration of the open job, 0 for none (R41). -/
def jobBeams (s : State) : Nat :=
  match s.job with
  | some j => j.beams
  | none => 0

/-- Active lanes of the open job (R227). -/
def jobLanes (s : State) : Nat := lanesOf (jobBeams s)

/-- The mask of all active lanes. -/
def laneMask (s : State) : Nat := 2 ^ jobLanes s - 1

/-- The pixel pitch in 1/64 nm (R19). -/
def jobPitch (s : State) : Nat :=
  match s.job with
  | some j => j.pitch
  | none => 64

/-- The last slice of a loaf (R226). -/
def lastSliceOf (beams rows : Nat) : Nat := 256 * rows + 8 * (beamRows beams - 1) - 1

/-- Output groups that the open job makes active, all four when no job is open (R250). -/
def activeGroups (s : State) : List Nat := if s.job.isSome then List.range (jobLanes s / 8) else List.range 4

/-- A group is active in the open job. -/
def groupActive (g : Nat) (s : State) : Bool := decide (8 * g < jobLanes s)

/-- The loaf held with an ordinal. -/
def loafOf (ord : Nat) (s : State) : Option Loaf := s.loaves.find? (·.ord == ord)

/-- The current loaf: the first held (R47). -/
def currentLoaf (s : State) : Option Loaf := s.loaves.head?

/-- Change the loaf with an ordinal. -/
def updLoaf (ord : Nat) (f : Loaf → Loaf) (s : State) : State := { s with loaves := updateFirst (·.ord == ord) f s.loaves }

/-- The first predicted slice launched at or after an instant, else the first slice not yet predicted (R284). -/
def firstAt (q : Nat) (s : State) : Nat :=
  match s.lch.slices.find? fun x => decide (q ≤ x.l) with
  | some x => x.n
  | none => s.slc.next

/-- L_FIRST (R284): the launch time of FIRST, or 500 ns from now where FIRST has not been predicted. -/
def lFirstOf (first : Nat) (s : State) : Nat :=
  match s.lch.slices.find? (·.n == first) with
  | some x => x.l
  | none =>
    match s.lch.run.bind Run.reached with
    | some (n, l) => if n = first then l else s.quarter + 2000
    | none => s.quarter + 2000

/-- The slice whose period contains this instant (R286): the last whose launch time has been reached, else the first that has
not been launched or journaled (DEDUCED, log 22). -/
def periodSlice (s : State) : Nat :=
  let due := s.lch.slices.filter fun x => decide (x.l ≤ s.quarter)
  let reached := (s.lch.run.bind Run.reached).map (·.1)
  match due.getLast?, reached with
  | some x, some n => max x.n n
  | some x, none => x.n
  | none, some n => n
  | none, none => match s.lch.slices with
    | x :: _ => x.n
    | [] => s.slc.next

/-- Send the cancel symbol (R283, R351): three copies on every physical lane that carries an active lane of an active group, after the block in
progress of a slice, of which nothing more is sent. A standby sends none (R461). -/
def sendCancel (ord first : Nat) (s : State) : State :=
  if pairStandby s then s
  else (List.range (jobLanes s)).foldl (fun s lam =>
    [0, 1, 2].foldl (fun s c => sendOnActive lam (cancelPayload ord first c) s) (cutLane (lam / 8) (physOf lam s) s)) s

/-- A record of a range kind over the running loaf. -/
def rangeRec (kind cause : Nat) (r : Run) (n1 n2 v : Nat) : JEnt :=
  { kind := kind, cause := cause, id := r.id, ord := r.ord % 2 ^ 12, n1 := n1, a := 0, n2 := n2, b := 0, v := v }

/-- Journal slices `n1` to `n2` as CANCELLED over all active lanes; nothing for an empty range. -/
def recordCancelled (cause : Nat) (r : Run) (n1 n2 : Nat) (s : State) : State :=
  if n2 < n1 then s
  else
    let e := rangeRec kCancelled cause r n1 n2 (laneMask s)
    recordRange e (closeAt e s)

/-- Journal slices as UNREACHED (R286, R288); nothing for an empty range. -/
def commitUnreached (cause : Nat) (r : Run) (n1 n2 : Nat) (s : State) : State :=
  if n2 < n1 then s
  else
    let e := rangeRec kUnreached cause r n1 n2 (laneMask s)
    commitEnt e (closeAt e s)

/-- Set SCAN (R329). -/
def setScan (x : ScanState) (s : State) : State := { s with mot := { s.mot with scan := { s.mot.scan with state := x } } }

/-- The scan's profile with a stop of R312 from an instant on. -/
def stopProf (t : Rat) (l : List Phase) (s : State) : List Phase :=
  profStop t l (s.mot.scan.sigma : Rat) (64 * (s.fld (F.MOT_AX_ACC_A_STOP 1) : Rat)) (64 * (s.fld (F.MOT_AX_JERK_J_STOP 1) : Rat))

/-- Has a stop of the scan, of R334 or of its end, begun at an instant, so that it runs to its end (R312)? -/
def stopBegun (t : Rat) (s : State) : Bool :=
  match s.mot.scan.stopFrom with
  | some t0 => decide (t0 ≤ t)
  | none => false

/-- Stop the scan from an instant on (R312, R337): a stop that has begun by then is not changed, one that begins later gives way. -/
def stopScanAt (t : Rat) (s : State) : State :=
  let sc := s.mot.scan
  if stopBegun t s then { s with mot := { s.mot with scan := { sc with stopping := true } } }
  else { s with mot := { s.mot with scan := { sc with prof := stopProf t sc.prof s, stopping := true, stopFrom := some t } } }

/-- Stop the scan at the start instant of R277: the later of the named instant (quarter ns) and the first tick whose frame has
not left. -/
def stopScan (q : Nat) (s : State) : State :=
  let t0 := tickNs (frameTick s)
  let named : Rat := mkRat q 4
  stopScanAt (if t0 < named then named else t0) s

/-- Change the run. -/
def updRun (f : Run → Run) (s : State) : State := { s with lch := { s.lch with run := s.lch.run.map f } }

/-- Close a DISPLACE cancel that runs at the slice before `first` (R287): the slices that it covers are journaled, and no lane sends or
launches them any more. Those before its own FIRST launch as sent. -/
def closeDisplace (first : Nat) (s : State) : State :=
  match s.lch.cancel, s.lch.run with
  | some c, some r =>
    let s := { s with lch := { s.lch with cancel := none } }
    if c.first < first then
      let before := s.lch.slices.filter fun x => decide (x.n < c.first)
      let kept := before ++ s.lch.slices.filter fun x => decide (first ≤ x.n)
      let s := recordCancelled cDisplace r c.first (first - 1) { s with lch := { s.lch with slices := kept } }
      if before.isEmpty then updRun (fun r => { r with disposed := max r.disposed first }) s else s
    else s
  | _, _ => s

/-- Keep only the slices below a number. -/
def dropSlices (first : Nat) (s : State) : State :=
  { s with lch := { s.lch with slices := s.lch.slices.filter fun x => decide (x.n < first) } }

/-- A stopping event with its FIRST decided (R286): the cancel, the CANCELLED and UNREACHED entries, and the stop of Y. A second
stopping event changes nothing (R287; two of one epoch: log 2). A standby journals nothing (R474). -/
def stopWith (cause first : Nat) (s : State) : State :=
  match s.lch.run with
  | none => s
  | some r =>
    if r.stop.isSome then s
    else
      let lq := lFirstOf first s
      let s := closeDisplace first s
      let s := sendCancel r.ord first s
      let s := raise F.TB_EVT_CANCEL (s.setFld F.TB_LAUNCH_STATUS_CANCELLING 1)
      let next := s.slc.next
      let s := if pairStandby s then s
        else
          let s := if first < next then recordCancelled cause r first (next - 1) s else s
          commitUnreached cause r (max first next) r.last s
      let s := updRun (fun r => { r with stop := some { cause := cause, first := first, lFirst := lq }, ended := true }) s
      let s := dropSlices first s
      let s := match s.mot.scan.state with
        | .approach => stopMoves (· == 1) s
        | .pause => { s with mot := { s.mot with scan := { s.mot.scan with stopping := true } } }
        | .none | .ready | .run | .hold | .leadout => stopScan lq s
      setScan .leadout { s with lch := { s.lch with paused := none } }

/-- A stopping event of R286: FIRST as R284 gives, or the slice whose period contains the instant, or the interrupted slice
during a pause (R257). -/
def stopLoaf (cause : Nat) (period : Bool) (s : State) : State :=
  let first := match s.lch.paused with
    | some i => i
    | none => if period then periodSlice s else firstAt (s.quarter + 2000) s
  stopWith cause first s

/-- Does a loaf run and is it not being stopped? -/
def running (s : State) : Bool :=
  match s.lch.run with
  | some r => r.stop.isNone
  | none => false

/-- A slice that is never predicted (R284): the next one is the one after it, and the pixels of which it would have been the first pass are
journaled with a later one (R240). -/
def skipSlice (r : Run) (s : State) : State :=
  let n := s.slc.next
  if r.last < n then s
  else
    let rows := (List.range 8).filterMap fun sub => if 8 * sub ≤ n then some (n - 8 * sub, sub) else none
    { s with slc := { s.slc with next := n + 1, top := max s.slc.top (n + 1),
                                 lowDue := s.slc.lowDue ++ if n < s.slc.top then [] else rows } }

/-- Begin a cancel (R284): FIRST, the symbol, CANCELLING and its flag. -/
def beginCancel (s : State) : State :=
  match s.lch.run with
  | none => s
  | some r =>
    if s.lch.cancel.isSome || r.stop.isSome || s.lch.paused.isSome then s
    else
      let first := firstAt (s.quarter + 2000) s
      let s := sendCancel r.ord first s
      let s := { s with lch := { s.lch with cancel := some { first := first, good := 0 } } }
      let s := if first = s.slc.next then skipSlice r s else s
      raise F.TB_EVT_CANCEL (s.setFld F.TB_LAUNCH_STATUS_CANCELLING 1)

/-- The end of a cancel (R285): the entry, and transmission resumes with the first slice at least 7 µs ahead; slices kept are
sent again on every lane, since the receivers discarded them (R283). -/
def endCancel (s : State) : State :=
  match s.lch.cancel, s.lch.run with
  | some c, some r =>
    let resume := max c.first (firstAt (s.quarter + 28000) s)
    let s := { s with lch := { s.lch with cancel := none } }
    let s := if c.first < resume then recordCancelled cDisplace r c.first (resume - 1) s else s
    let keep := s.lch.slices.filter fun x => !(decide (c.first ≤ x.n) && decide (x.n < resume))
    let again := keep.map fun x => if resume ≤ x.n ∧ x.overspeed = false then
      { x with lanes := x.lanes.map fun e => (e.1, if e.2 = .sent then .waiting else e.2) } else x
    let s := { s with lch := { s.lch with slices := again } }
    let s := updRun (fun r => { r with disposed := max r.disposed resume }) s
    s.setFld F.TB_LAUNCH_STATUS_CANCELLING 0
  | _, _ => s

/-- A slow request (R335). -/
def slowRequest (s : State) : State :=
  let s := raise F.MOT_EVT_SLOW (s.setFld F.TB_LAUNCH_STATUS_SLOW_REQ 1)
  let k := profAt s.mot.scan.prof s.mot.scan.e
  let vc := ((s.mot.scan.sigma : Rat) * k.v / 64)
  let fac := s.fld F.MOT_PLAN_SLOW_FACTOR
  let lower : Nat := max 1 ((vc * (fac : Rat) / 256).floor.toNat)
  let v := match s.lch.slow with
    | none => lower
    | some x => if vc ≤ (x.v : Rat) then lower else x.v
  { s with lch := { s.lch with slow := some { v := v } } }

/-- The hard-limit pause (R255): the interrupted slice, the cancel of what was sent, and the stop of Y. -/
def pauseAt (i : Nat) (s : State) : State :=
  match s.lch.run with
  | none => s
  | some r =>
    if r.stop.isSome || s.lch.paused.isSome || decide (r.last < i) then s
    else
      let lq := lFirstOf i s
      let s := closeDisplace i s
      let s := s.setFld F.TB_LAUNCH_STATUS_CANCELLING 0
      let s := sendCancel r.ord i s
      let s := dropSlices i s
      let s := { s with slc := { s.slc with next := min s.slc.next i }, lch := { s.lch with paused := some i } }
      let s := updRun (fun r => { r with ended := false }) s
      let s := s.setFld F.SLC_STATUS_PAUSED 1
      setScan .pause (match s.mot.scan.state with
        | .approach => stopMoves (· == 1) s
        | .none | .ready | .run | .hold | .pause | .leadout => stopScan lq s)

/-! Blanker temperature. -/

/-- The readings of a group. -/
def plateOf (g : Nat) (s : State) : Plate := amGet (fun _ => Plate.reset) s.slc.plates g

/-- PT in 1/16 °C (R254): the largest PT_g of the active groups; a stale group counts as HARD_T (R250). -/
def plateMax (s : State) : Int :=
  ((activeGroups s).map fun g => if (plateOf g s).stale then (4 * s.fld F.SLC_THERM_HARD_T : Int) else (plateOf g s).pt).foldl max (-2048)

/-- The soft state at a change of PT (R254). -/
def judgeSoft (s : State) : State :=
  let pt := plateMax s
  let lim : Int := 4 * s.fld F.SLC_THERM_SOFT_T
  if s.slc.soft = false ∧ lim ≤ pt then raise F.SLC_EVT_SOFT_T { s with slc := { s.slc with soft := true } }
  else if s.slc.soft = true ∧ pt < lim - 16 then { s with slc := { s.slc with soft := false } }
  else s

/-- The hard limit while a loaf runs and is not paused (R254, R255). A standby makes no temperature decision (R462); an owner tells its
standby of the pause (R465 MARK). -/
def judgeHard (s : State) : State :=
  if s.lch.run.isNone || s.lch.paused.isSome || pairStandby s || decide (plateMax s < (4 * s.fld F.SLC_THERM_HARD_T : Int)) then s
  else
    let i := firstAt (s.quarter + 2000) s
    let t := pauseAt i s
    if t.lch.paused.isNone then s
    else
      let t := raise F.SLC_EVT_HARD_T t
      if pairOwner t then (sendPeer 0x60 [fnWord 0x3, 2, BitVec.ofNat 36 (i % 2 ^ 32)] t).2 else t

end Sys2Proof.Machine
end

