-- ==== Sys2Proof/Machine/Elig.lean ====
section
/-!
DEFINITION. Eligibility of the standby (R469): the conditions in their order, and the flag that its end raises.
-/
namespace Sys2Proof.Machine

/-- Time-base ticks in a number of ms (R264: 2.5 ns a tick). -/
def msTicks (n : Nat) : Nat := 400000 * n

/-- The order of the data sets of two Announce messages (R271): the numbers in the order in which they decide. -/
def announceKey (m : AnnounceMsg) : List Nat :=
  [m.prio1.toNat, m.clockClass.toNat, m.accuracy.toNat, m.variance.toNat, m.prio2.toNat, m.identity.toNat, m.steps.toNat]

/-- Lexicographic order of two lists of numbers. -/
def lexLt : List Nat → List Nat → Bool
  | a :: r, b :: t => if a = b then lexLt r t else decide (a < b)
  | _, _ => false

/-- The best of some masters, each with its port (R271): of equal ones that of the lower port. -/
def bestOf (l : List (Nat × AnnounceMsg)) : Option (Nat × AnnounceMsg) :=
  leastBy (fun a b : Nat × AnnounceMsg => lexLt (announceKey a.2 ++ [a.1]) (announceKey b.2 ++ [b.1])) l

/-- The best master over the Announce messages of both ports (R271). -/
def bestMaster (s : State) : Option (Nat × AnnounceMsg) := bestOf s.tb.masters

/-- clockIdentity of the grandmaster that this device follows, from the slave port's best Announce (R271); 0 where none. -/
def gmOf (s : State) : Nat :=
  match bestOf (s.tb.masters.filter fun x => x.1 == s.fld F.TB_PTP_STATUS_PORT) with
  | some (_, m) => m.identity.toNat
  | none => 0

/-- Has a BEAT arrived within TOKEN_MS (R469, R472)? -/
def beatFresh (s : State) : Bool :=
  match s.pair.beat with
  | some b => decide (s.tb.ticks - b.tick ≤ msTicks (s.fld F.PAIR_CTL_TOKEN_MS))
  | none => false

/-- Condition 1 of R469: both devices LOCKED to one grandmaster. -/
def clocksAgree (s : State) : Bool :=
  match s.pair.beat with
  | some b => s.bit F.TB_PTP_STATUS_LOCKED && b.locked && decide (gmOf s = b.gm)
  | none => false

/-- Lanes dead in the current epoch (R237). -/
def epochDead (s : State) : Nat :=
  match s.slc.epochs.getLast? with
  | some e => e.lanes
  | none => s.slc.dead

/-- Condition 2 of R469 on the standby: every active lane not dead in the current epoch has a physical lane. The owner takes it
as holding: no message tells it. -/
def lanesCarried (s : State) : Bool :=
  s.pair.own || (List.range (jobLanes s)).all fun l => (epochDead s).testBit l || decide (physOf l s ≠ 0xF)

/-- Ordinal of the loaf armed or exposing here, if any. -/
def armedOrd (s : State) : Option Nat :=
  match s.core with
  | .armed => (currentLoaf s).map (·.ord)
  | .exposing => s.lch.run.map (·.ord)
  | .safe => s.lch.run.map (·.ord)
  | .boot | .idle | .job | .recovery => none

/-- Condition 3 of R469: no difference, and the standby armed or exposing for the owner's loaf with the exposure lock held. -/
def standbyArmed (s : State) : Bool :=
  !s.pair.differ && !s.pair.alone && (match s.pair.beat, armedOrd s with
    | some b, some o => b.ord == o && (if s.pair.own then b.expHeld && (b.core == 3 || b.core == 4)
        else holds .host 0 s && (s.core == .armed || s.core == .exposing))
    | _, _ => false)

/-- Conditions 0 to 2 of R469, which a HANDOVER in JOB asks for (R466). -/
def followReady (s : State) : Bool := s.pair.st == 2 && beatFresh s && clocksAgree s && lanesCarried s

/-- PAIR_STATUS.WHY (R469): the first condition that fails. -/
def whyOf (s : State) : Nat :=
  if !(s.pair.st == 2 && beatFresh s) then 1
  else if !clocksAgree s then 2
  else if !lanesCarried s then 4
  else if !standbyArmed s then 8
  else 0

/-- PAIR_STATUS.ELIGIBLE (R469). -/
def eligible (s : State) : Bool := whyOf s == 0

/-- Evaluate ELIGIBLE anew: INELIGIBLE when it goes from 1 to 0 (R469). -/
def checkElig (s : State) : State :=
  let e := eligible s
  raiseIf (s.pair.elig && !e) F.PAIR_EVT_INELIGIBLE { s with pair := { s.pair with elig := e } }

/-- Set STATE (R457). -/
def setPairSt (n : Nat) (s : State) : State := checkElig { s with pair := { s.pair with st := n } }

end Sys2Proof.Machine
end

