-- ==== Sys2Proof/Machine/Clock.lean ====
section
/-!
DEFINITION. The local clock and PTP (R264 to R273, R308): the slave-only ordinary clock with its servo, holdover, the transparent
clock, and the clock's tick with a step of T.
-/
namespace Sys2Proof.Machine

/-- Does the device serve PTP messages of a domain over a transport (R268)? -/
def servesPtp (domain : BitVec 8) (udp : Bool) (s : State) : Bool :=
  s.bit F.TB_CTL_PTP_EN && decide (domain.toNat = s.fld F.TB_CTL_DOMAIN) && s.bit (if udp then F.TB_CTL_UDP_EN else F.TB_CTL_L2_EN)

/-- May T be stepped and INC be written (R265, R267)? -/
def clockFree (s : State) : Bool := s.core == .idle || s.core == .job

/-- Ask for a step of T by `q` quarter ns at the next tick (R267); refused, it sets STEP_REFUSED and answers false. -/
def askStep (q : Int) (s : State) : Bool × State :=
  if clockFree s then (true, { s with tb := { s.tb with step := s.tb.step + q } }) else (false, raise F.TB_EVT_STEP_REFUSED s)

/-- A number that fits `n` signed bits, else a free value of that width (DESIGN CHOICE, log 4). -/
def fitS (n : Nat) (v : Int) (s : State) : Int × State :=
  if satS n v = v then (v, s) else let (f, s) := s.draw; (sext n f, s)

/-- A number that fits `n` bits, else a free value of that width (DESIGN CHOICE, log 4). -/
def fitU (n : Nat) (v : Int) (s : State) : Nat × State :=
  if 0 ≤ v ∧ v < 2 ^ n then (v.toNat, s) else let (f, s) := s.draw; (f % 2 ^ n, s)

/-- Set TUNE (R272): HOLD keeps its value. -/
def setTune (v : Int) (s : State) : State :=
  let t := (clampI v 0 65535).toNat
  if s.bit F.TB_VCXO_HOLD ∨ s.fld F.TB_VCXO_TUNE = t then s else emit (.tune t) (s.setFld F.TB_VCXO_TUNE t)

/-- The servo's branch (R272). -/
def servo (o : Int) (s : State) : State :=
  let (acc, s) := fitS 48 (s.tb.acc + o) s
  let s := { s with tb := { s.tb with acc := acc } }
  setTune ((s.fld F.TB_VCXO_CENTRE : Int) + ((s.fld F.TB_SERVO_KP : Int) * o + (s.fld F.TB_SERVO_KI : Int) * acc).fdiv (2 ^ 20)) s

/-- LOCKED after a Sync with an offset (R272). -/
def judgeLock (o : Int) (s : State) : State :=
  if o.natAbs ≤ 4 * s.fld F.TB_CTL_LOCK_NS then
    let n := min 16 (s.tb.goodSyncs + 1)
    let s := { s with tb := { s.tb with goodSyncs := n } }
    if n = 16 then s.setFld F.TB_PTP_STATUS_LOCKED 1 else s
  else { s with tb := { s.tb with goodSyncs := 0 } }.setFld F.TB_PTP_STATUS_LOCKED 0

/-- A valid Sync with its delay measurement (R272, R273). -/
def takeSync (offset delay : Int) (s : State) : State :=
  let (o, s) := fitS 32 offset s
  let (d, s) := fitU 32 delay s
  let s := ((s.setFld F.TB_PTP_STATUS_OFFSET (twos 32 o)).setFld F.TB_PTP_DELAY_MPD d).setFld F.TB_PTP_STATUS_STATE 2
  let far := decide (0 < s.fld F.TB_CTL_STEP_NS ∧ 4 * s.fld F.TB_CTL_STEP_NS < o.natAbs)
  let s := if far then
      match askStep (-o) s with
      | (true, s) => { s with tb := { s.tb with acc := 0 } }
      | (false, s) => servo o s
    else servo o s
  checkElig (judgeLock o s)

/-- An ingress stamp at the boundary to the medium, in quarter ns (R270). -/
def ingressStamp (port t : Nat) (s : State) : Int := (t : Int) - s.fld (F.TB_TS_TRIM_RX_Q port)

/-- An egress stamp at the boundary to the medium, in quarter ns (R270). -/
def egressStamp (port t : Nat) (s : State) : Int := (t : Int) + s.fld (F.TB_TS_TRIM_TX_Q port)

/-- A correctionField in quarter ns (R269: units of 2^-16 ns). -/
def corrQuarters (c : Int) : Rat := (c : Rat) / 16384

/-- The mean path delay in quarter ns, as IEEE 1588-2019 defines it (R268, R272), from the egress stamp of the Delay_Req. -/
def meanDelay (m : SyncMsg) (req : Nat) (s : State) : Rat :=
  (((ingressStamp m.port.val m.ingress s : Rat) - (req : Rat)) + (4 * (m.received : Rat) - 4 * (m.origin : Rat))
    - corrQuarters m.correction - corrQuarters m.respCorrection) / 2

/-- The offset from the master in quarter ns, as IEEE 1588-2019 defines it (R272). -/
def masterOffset (m : SyncMsg) (req : Nat) (s : State) : Rat :=
  (ingressStamp m.port.val m.ingress s : Rat) - 4 * (m.origin : Rat) - meanDelay m req s - corrQuarters m.correction

/-- A whole number of quarter ns; of two neighbours either one, since no rule rounds it (DESIGN CHOICE, log 18). -/
def wholeQuarters (x : Rat) (s : State) : Int × State :=
  if (x.floor : Rat) = x then (x.floor, s) else let (f, s) := s.draw; (x.floor + (f % 2 : Nat), s)

/-- A Sync with the delay measured from a Delay_Req (R270, R272). -/
def measureSync (m : SyncMsg) (req : Nat) (s : State) : State :=
  let (o, s) := wholeQuarters (masterOffset m req s) s
  let (d, s) := wholeQuarters (meanDelay m req s) s
  takeSync o d s

/-- Is a Sync one of the slave port, from its master (R271, R272)? -/
def fromMaster (m : SyncMsg) (s : State) : Bool :=
  servesPtp m.domain m.udp s && decide (m.port.val = s.fld F.TB_PTP_STATUS_PORT) && decide (s.fld F.TB_PTP_STATUS_STATE ≠ 0) &&
    (bestMaster s).map (fun x => (x.1, x.2.identity)) == some (m.port.val, m.identity)

/-- SYNC (R272): a Sync of the slave port, from its master, with the delay measured by the last Delay_Req sent. -/
def execSync (m : SyncMsg) (s : State) : Host.Outcome State Fault Refusal :=
  done s (match fromMaster m s, s.tb.reqStamp with
    | true, some req => measureSync m req s
    | _, _ => s)

/-- Choose the slave port (R271). A new master makes the clock uncalibrated (DESIGN CHOICE, log 18). -/
def chooseMaster (old : Option (Nat × AnnounceMsg)) (s : State) : State :=
  match bestMaster s with
  | none => s
  | some (p, m) =>
    let same := match old with
      | some (q, n) => q == p && n.identity == m.identity
      | none => false
    let s := s.setFld F.TB_PTP_STATUS_PORT p
    checkElig (if same && decide (s.fld F.TB_PTP_STATUS_STATE ≠ 0) then s else s.setFld F.TB_PTP_STATUS_STATE 1)

/-- The masters heard, with the latest Announce of one of them on a port (R271). -/
def hearMaster (port : Nat) (m : AnnounceMsg) (s : State) : State :=
  { s with tb := { s.tb with masters := (s.tb.masters.filter fun x => !(x.1 == port && x.2.identity == m.identity)) ++ [(port, m)] } }

/-- ANNOUNCE (R271). -/
def execAnnounce (port : Fin 2) (m : AnnounceMsg) (s : State) : Host.Outcome State Fault Refusal :=
  done s (if servesPtp m.domain m.udp s then chooseMaster (bestMaster s) (hearMaster port.val m s) else s)

/-- Has a timing port a MAC address (R374)? -/
def ethHasMac (p : Nat) (s : State) : Bool :=
  decide (s.fld (F.LNK_ETH_MAC_HI_MAC_HI p) ≠ 0 ∨ s.fld (F.LNK_ETH_MAC_LO_MAC_LO p) ≠ 0)

/-- A Delay_Req leaves on the slave port, and its egress stamp is kept (R270, R271). -/
def sendDelayReq (p : Nat) (s : State) : State :=
  emit (.delayReq p) { s with tb := { s.tb with reqStamp := some (egressStamp p s.quarter s).toNat } }

/-- DELAY_REQ_SEND (R270, R271, R374): no PTP message leaves while the slave port has no MAC address. -/
def execDelayReqSend (s : State) : Host.Outcome State Fault Refusal :=
  let p := s.fld F.TB_PTP_STATUS_PORT
  done s (if s.bit F.TB_CTL_PTP_EN && decide (s.fld F.TB_PTP_STATUS_STATE ≠ 0) && ethHasMac p s then sendDelayReq p s else s)

/-- HOLDOVER (R273). -/
def execHoldover (s : State) : Host.Outcome State Fault Refusal :=
  let st := s.fld F.TB_PTP_STATUS_STATE
  done s (if s.bit F.TB_CTL_PTP_EN && decide (st = 1 ∨ st = 2) then
    let t := (s.setFld F.TB_PTP_STATUS_STATE 3).setFld F.TB_PTP_STATUS_LOCKED 0
    checkElig (raise F.TB_EVT_HOLDOVER { t with tb := { t.tb with goodSyncs := 0 } }) else s)

/-- PTP is switched off (R271, R301 STATE; DESIGN CHOICE, log 18). -/
def ptpOff (s : State) : State :=
  let t := (s.setFld F.TB_PTP_STATUS_STATE 0).setFld F.TB_PTP_STATUS_LOCKED 0
  checkElig { t with tb := { t.tb with goodSyncs := 0, masters := [], reqStamp := none } }

/-- The longest frame a timing port accepts (R374). -/
def ethMaxFrame : Nat := 1522

/-- VLAN tags of a frame (R374): from byte 12 on, four bytes each, with the type 0x8100 of IEEE 802.1Q or 0x88A8. -/
def vlanTags : Nat → List Byte → Nat
  | 0, _ => 0
  | fuel + 1, b =>
    if b.take 2 = [0x81, 0x00] ∨ b.take 2 = [0x88, 0xA8] then vlanTags fuel (b.drop 4) + 1 else 0

/-- Does a timing port accept a frame (R374): untagged or single-tagged, of up to 1,522 B? -/
def ethAccepts (bytes : List Byte) : Bool := decide (bytes.length ≤ ethMaxFrame ∧ vlanTags 2 (bytes.drop 12) ≤ 1)

/-- A frame leaves on a port (R269, R270): events gain their residence time, 2^14 units for a quarter ns, and carry no UDP checksum. -/
def ethSend (i : Nat) (f : EthFrame) (ingress egress : Nat) (s : State) : State :=
  let o := 1 - i
  let residence : Int := egressStamp o egress s - ingressStamp i ingress s
  let corr := if f.event then f.correction + residence * 2 ^ 14 else f.correction
  emit (.ethForward o corr (if f.event && f.udp then 0 else f.checksum) f.bytes) s

/-- TRANSPARENT_CLOCK_FORWARD (R269, R270, R374): a frame received on a port, with the stamps of its message timestamp point in quarter
ns. -/
def execTransparentClockForward (port : Fin 2) (f : EthFrame) (ingress egress : Nat) (s : State) : Host.Outcome State Fault Refusal :=
  done s (if !f.fcsOk then s.bump (F.LNK_ETH_STATUS_FCS_ERR port.val)
    else if !s.bit F.TB_CTL_TC_EN || !ethAccepts f.bytes then s
    else ethSend port.val f ingress egress s)

/-- TIMING_PORT_BLOCK_LOCK (R375): a timing port gains or loses block lock. -/
def execTimingPortBlockLock (port : Fin 2) (up : Bool) (s : State) : Host.Outcome State Fault Refusal :=
  let rest := s.lnk.eth - (s.lnk.eth &&& 2 ^ port.val)
  done s { s with lnk := { s.lnk with eth := if up then rest + 2 ^ port.val else rest } }

/-! The tick. -/

/-- Shift the phases of a profile by a number of ns (R308). -/
def shiftProf (d : Rat) (l : List Phase) : List Phase := l.map fun f => { f with t0 := f.t0 + d }

/-- Shift an awaited limit edge by quarter ns (DESIGN CHOICE, log 18). -/
def Limit.shift (l : Limit) (q : Int) : Limit := { l with await := l.await.map fun t => ((t : Int) + q).toNat }

/-- Every planned trajectory follows a step of T (R308). -/
def shiftPlans (q : Int) (s : State) : State :=
  let d : Rat := mkRat q 4
  let sc := { s.mot.scan with prof := shiftProf d s.mot.scan.prof, e := s.mot.scan.e + d, stopFrom := s.mot.scan.stopFrom.map (· + d) }
  let s := { s with mot := { s.mot with moves := s.mot.moves.map fun m => { m with prof := shiftProf d m.prof }, scan := sc },
                    tb := { s.tb with reqStamp := s.tb.reqStamp.map fun t => ((t : Int) + q).toNat } }
  [0, 1, 2, 3].foldl (fun s a => s.updAxis a fun x => { x with limP := x.limP.shift q, limM := x.limM.shift q }) s

/-- One tick of the time-base clock (R264, R265, R267): INC as written, and a step that waits. -/
def tickClock (s : State) : State :=
  let inc := s.fld F.TB_INC_INC
  let q := s.tb.step
  let t : Int := (s.tb.t.toNat : Int) + inc + q * 2 ^ 30
  let s := if q = 0 then s else shiftPlans q s
  { s with tb := { s.tb with t := BitVec.ofInt 96 t, ticks := s.tb.ticks + 1, inc := inc, step := 0 } }

end Sys2Proof.Machine
end

