-- ==== Sys2Proof/Machine/Camera.lean ====
section
/-!
DEFINITION. The camera's arithmetic: correction (R425), dark frame and flat field (R426, R427), spots and beams (R429 to R431),
and the replies of captures (R435).
-/
namespace Sys2Proof.Machine

/-- The capture's beam configuration: that of the open job, or 524,288 beams (R428). -/
def captBeams (s : State) : Nat := if s.job.isSome then jobBeams s else 3

/-- The active lane of a beam (R228). -/
def laneOfBeam (nl r c : Nat) : Nat := (r / 8 + (8 * c + r % 8)) % nl

/-- A flat value not listed is 32,768 (R425). -/
def flatDefault (_ : Nat) : Nat := 32768

/-- The active width and height (R420). -/
def frameSize (s : State) : Nat × Nat := (s.act F.CAM_GEOM_WIDTH, s.act F.CAM_GEOM_HEIGHT)

/-- The key of a pixel in the frame stores. -/
def pixKey (x y : Nat) : Nat := 8192 * y + x

/-- A corrected pixel (R425). -/
def correct (dark flat : AMap Nat) (x y raw : Nat) : Nat :=
  let k := pixKey x y
  let v : Int := ((raw : Int) - amGet (fun _ => 0) dark k) * amGet flatDefault flat k
  (max 0 ((v + 16384).fdiv 32768)).toNat

/-- A raw pixel of a frame. -/
def pixAt (lines : List (List (BitVec 14))) (x y : Nat) : Nat := (nth 0 (nth [] lines y) x).toNat

/-- The expected camera point of a beam in 1/4096 px (R429). -/
def beamPoint (s : State) (r c : Nat) : Int × Int :=
  (256 * (s.act F.CAM_GRID_ORG_X0 : Int) + c * s.sact F.CAM_GRID_COL_DXC + r * s.sact F.CAM_GRID_ROW_DXR,
   256 * (s.act F.CAM_GRID_ORG_Y0 : Int) + c * s.sact F.CAM_GRID_COL_DYC + r * s.sact F.CAM_GRID_ROW_DYR)

/-- The pixel that holds a beam's point (R429). -/
def beamPixel (s : State) (r c : Nat) : Int × Int := let p := beamPoint s r c; (p.1.fdiv 4096, p.2.fdiv 4096)

/-- Is a beam of the capture's configuration measured (R429)? -/
def measured (s : State) (r c : Nat) : Bool :=
  let h : Int := ((s.act F.CAM_SPOT_W - 1) / 2 : Nat)
  let (px, py) := beamPixel s r c
  let (w, ht) := frameSize s
  let lam := laneOfBeam (lanesOf (captBeams s)) r c
  decide (0 ≤ px - h ∧ px + h < w ∧ 0 ≤ py - h ∧ py + h < ht) && decide (physOf lam s ≠ 0xF)

/-- The measured beams of a capture, as rows and columns. -/
def measuredBeams (s : State) : List (Nat × Nat) :=
  (List.range (beamRows (captBeams s))).flatMap fun r => ((List.range 1024).filter fun c => measured s r c).map fun c => (r, c)

/-- Beam index (R429). -/
def beamIndex (r c : Nat) : Nat := 1024 * r + c

/-- A spot nothing has been added to. -/
def Spot.zero : Spot := { i := 0, mx := 0, my := 0 }

/-- Offsets −h to h. -/
def offsets (h : Nat) : List Int := (List.range (2 * h + 1)).map fun (i : Nat) => (i : Int) - h

/-- Add one good frame to a beam's sums (R430). -/
def addSpot (s : State) (lines : List (List (BitVec 14))) (r c : Nat) (sp : Spot) : Spot :=
  let w := s.act F.CAM_SPOT_W
  let h := (w - 1) / 2
  let (px, py) := beamPixel s r c
  let cp (dx dy : Int) : Nat :=
    let x := (px + dx).toNat
    let y := (py + dy).toNat
    correct s.cal.dark s.cal.flat x y (pixAt lines x y)
  let all := (offsets h).flatMap fun dy => (offsets h).map fun dx => (dx, dy)
  let inner (d : Int × Int) : Bool := decide (d.1.natAbs < h ∧ d.2.natAbs < h)
  let b0 := ((all.filter fun d => !inner d).map fun d => cp d.1 d.2).sum / (4 * w - 4)
  let ws := (all.filter inner).map fun d => (d, cp d.1 d.2 - b0)
  { i := satU 36 (sp.i + (ws.map (·.2)).sum), mx := sp.mx + (ws.map fun x => (x.2 : Int) * x.1.1).sum,
    my := sp.my + (ws.map fun x => (x.2 : Int) * x.1.2).sum }

/-- Insert a number into an ascending list. -/
def insNat (x : Nat) : List Nat → List Nat
  | [] => [x]
  | y :: r => if x ≤ y then x :: y :: r else y :: insNat x r

/-- The reference intensity (R431). -/
def refIntensity (s : State) (is : List Nat) : Nat :=
  let f := s.act F.CAM_IREF_IREF
  if f ≠ 0 then f else nth 0 (is.foldr insNat []) ((is.length - 1) / 2)

/-- Gain and death of a measured beam (R431). -/
def judgeBeam (s : State) (ref r c : Nat) (sp : Spot) : Nat × Bool :=
  let g := min 4095 (roundHalfUp (2048 * sp.i) ref).toNat
  let (xq, yq) := beamPoint s r c
  let (px, py) := beamPixel s r c
  let off (m : Int) (p q : Int) : Int := roundHalfUp (4096 * m) sp.i + 4096 * p + 2048 - q
  let tol := 256 * s.act F.CAM_SPOT_POS_TOL
  let dead := if sp.i = 0 then true
    else decide (4096 * sp.i < s.act F.CAM_SPOT_DEAD_FRAC * ref ∨ tol < (off sp.mx px xq).natAbs ∨ tol < (off sp.my py yq).natAbs)
  (g, dead)

/-- A gain not listed is 2,048, a beam not listed is live (R447). -/
def gainDefault (_ : Nat) : Nat := 2048

/-- The pixels of a frame of the active size. -/
def framePixels (s : State) : List (Nat × Nat) :=
  let (w, h) := frameSize s
  (List.range h).flatMap fun y => (List.range w).map fun x => (x, y)

/-- The dark frame of a capture (R426): `n` good frames. -/
def darkOf (s : State) (c : Capt) : AMap Nat :=
  (framePixels s).foldl (fun m p => let k := pixKey p.1 p.2
    amPut (fun _ => 0) m k ((2 * amGet (fun _ => 0) c.sums k + c.want) / (2 * c.want))) []

/-- The flat field of a capture and its mean m (R427). -/
def flatOf (s : State) (c : Capt) : AMap Nat × Nat :=
  let a (p : Nat × Nat) : Nat := (roundHalfUp ((amGet (fun _ => 0) c.sums (pixKey p.1 p.2) : Nat) : Int) c.want).toNat
  let ps := framePixels s
  let m := (ps.map a).sum / ps.length
  (ps.foldl (fun t p => amPut flatDefault t (pixKey p.1 p.2)
    (if a p = 0 then 0 else min 65535 (roundHalfUp (32768 * m) (a p)).toNat)) [], m)

/-- The five words of a capture's reply (R435). -/
def captReplyWords (first seq meas tried good dead iref : Nat) : List Word :=
  [BitVec.ofNat 36 (first % 2 ^ 32), BitVec.ofNat 36 (seq % 2 ^ 32),
   BitVec.ofNat 36 (meas % 2 ^ 20 * 2 ^ 16 + tried % 2 ^ 8 * 2 ^ 8 + good % 2 ^ 8), BitVec.ofNat 36 (dead % 2 ^ 20 * 2 ^ 16),
   BitVec.ofNat 36 iref]

/-- End the capture that runs: its words stand in CAL_LAST and in the reply (R435). -/
def replyCapt (status : Nat) (w : List Word) (s : State) : State :=
  match s.cal.capt with
  | none => s
  | some c =>
    let s := { s with cal := { s.cal with capt := none } }
    let s := (List.range 5).foldl (fun s i => s.setReg (A.CAL_LAST i) (nth 0 w i)) s
    answer c.port c.tag status w s

/-- Stop the capture that runs without a result (R409, R432, R437): what was not determined is free (DEDUCED, log 20). -/
def stopCapt (status : Nat) (s : State) : State :=
  match s.cal.capt with
  | none => s
  | some c =>
    let (f1, s) := s.draw
    let (f2, s) := s.draw
    let (f3, s) := s.draw
    let (f4, s) := s.draw
    let first := c.first.getD f1
    let seq := if c.first.isSome then c.seq else f2
    let beams := c.kind == 0x03
    let meas := if beams then (measuredBeams s).length else 0
    replyCapt status (captReplyWords first seq meas c.tried c.good (if beams then f3 else 0) (if c.kind = 0x01 then 0 else f4)) s

end Sys2Proof.Machine
end

