-- ==== Sys2Proof/Machine/Front.lean ====
section
/-!
DEFINITION. Commit order and the ready front (R131 to R139): tiles and their identity, the comparison of tiles and slices with the partner
(R468), the commit walk, and what it frees.
-/
namespace Sys2Proof.Machine

/-- A tile's identity. -/
def Tile.same (t : Tile) (ord row col : Nat) : Bool := t.ord == ord && t.row == row && t.col == col

/-- Change a tile. -/
def updTile (x : Tile) (f : Tile → Tile) (s : State) : State :=
  { s with plc := { s.plc with tiles := updateFirst (fun t => t.same x.ord x.row x.col) f s.plc.tiles } }

/-- The tile as it stands. -/
def tileOf (ord row col : Nat) (s : State) : Option Tile := s.plc.tiles.find? fun t => t.same ord row col

/-! Comparison with the partner (R468). -/

/-- Record the first difference in PAIR_DIFF, unless a record is held (R468). -/
def recordDiff (slice : Bool) (lane ord pos : Nat) (s : State) : State :=
  if s.bit F.PAIR_DIFF_VALID then s
  else ((((s.setFld F.PAIR_DIFF_VALID 1).setFld F.PAIR_DIFF_KIND slice.toNat).setFld F.PAIR_DIFF_LANE lane).setFld
    F.PAIR_DIFF_LOAF_ORD ord).setFld F.PAIR_DIFF_POS_POS pos

/-- A difference: flagged and recorded when it is the first of the loaf; the standby is not eligible from then on. -/
def pairDiffer (slice : Bool) (lane ord pos : Nat) (s : State) : State :=
  if s.pair.differ then s
  else
    let t := { s with pair := { s.pair with differ := true } }
    checkElig (recordDiff slice lane ord pos (raise (if slice then F.PAIR_EVT_SLICE_DIFF else F.PAIR_EVT_SUM_DIFF) t))

/-- Do the devices exchange and compare TILE and SLICE messages? -/
def pairCompares (s : State) : Bool := s.pair.st == 2 && s.lnk.pair.up

/-- Two sums of one tile meet. -/
def meetTiles (a b : PeerTile) (s : State) : State :=
  if a.k = b.k ∧ a.a = b.a then s else pairDiffer false 0 a.ord (a.row * 32 + a.col) s

/-- Do two entries concern one tile? -/
def PeerTile.same (a b : PeerTile) : Bool := a.ord == b.ord && a.row == b.row && a.col == b.col

/-- An own tile is committed: its sums go to the partner and are compared with the partner's (R465 TILE, R468). -/
def tellTile (x : PeerTile) (s : State) : State :=
  if !pairCompares s then s
  else
    let (_, s) := sendPeer 0x60 [fnWord 0x4, BitVec.ofNat 36 (x.row * 2 ^ 16 + x.col), BitVec.ofNat 36 x.k, BitVec.ofNat 36 x.a] s
    match s.pair.peerTiles.find? x.same with
    | some y => meetTiles x y { s with pair := { s.pair with peerTiles := removeFirst x.same s.pair.peerTiles } }
    | none => { s with pair := { s.pair with ownTiles := s.pair.ownTiles ++ [x] } }

/-- The partner's sums of a tile arrive (R468). -/
def takePeerTile (x : PeerTile) (s : State) : State :=
  match s.pair.ownTiles.find? x.same with
  | some y => meetTiles y x { s with pair := { s.pair with ownTiles := removeFirst x.same s.pair.ownTiles } }
  | none => { s with pair := { s.pair with peerTiles := s.pair.peerTiles ++ [x] } }

/-- The first index at which two lists differ. -/
def firstDiff : Nat → List Nat → List Nat → Option Nat
  | i, a :: r, b :: t => if a = b then firstDiff (i + 1) r t else some i
  | _, _, _ => none

/-- Two slices meet: they compare only when both are clean (R468). -/
def meetSlices (a b : PeerSlice) (s : State) : State :=
  if a.clean && b.clean then
    match firstDiff 0 a.pcrc b.pcrc with
    | some l => pairDiffer true l a.ord a.n s
    | none => s
  else s

/-- Do two entries concern one slice? -/
def PeerSlice.same (a b : PeerSlice) : Bool := a.ord == b.ord && a.n == b.n

/-- An own slice is built (R465 SLICE, R468). -/
def tellSlice (x : PeerSlice) (s : State) : State :=
  if !pairCompares s then s
  else
    let w1 := BitVec.ofNat 36 (x.n % 2 ^ 32 + (if x.clean then 2 ^ 35 else 0))
    let (_, s) := sendPeer 0x60 (fnWord 0x5 :: w1 :: x.pcrc.map fun v => BitVec.ofNat 36 v) s
    match s.pair.peerSlices.find? x.same with
    | some y => meetSlices x y { s with pair := { s.pair with peerSlices := removeFirst x.same s.pair.peerSlices } }
    | none => { s with pair := { s.pair with ownSlices := s.pair.ownSlices ++ [x] } }

/-- The partner's slice arrives (R468). -/
def takePeerSlice (x : PeerSlice) (s : State) : State :=
  match s.pair.ownSlices.find? x.same with
  | some y => meetSlices y x { s with pair := { s.pair with ownSlices := removeFirst x.same s.pair.ownSlices } }
  | none => { s with pair := { s.pair with peerSlices := s.pair.peerSlices ++ [x] } }

/-! Commit and the ready front. -/

/-- Does a tile count as ready (R133)? -/
def Tile.ready (t : Tile) : Bool := t.stage == .committed && t.readable

/-- Every tile of a row is committed and readable. -/
def rowReady (ord row : Nat) (s : State) : Bool :=
  let l := s.plc.tiles.filter fun t => t.ord == ord && t.row == row
  l.length == 32 && l.all (·.ready)

/-- READY_ROW of a loaf (R133, R134). A bad tile is never committed, so the front does not pass it. -/
def readyRow (l : Loaf) (s : State) : Nat := countWhile (fun n => rowReady l.ord n s) l.nextRow 0

/-- Is a tile of the loaf marked bad (R134)? -/
def hasBad (ord : Nat) (s : State) : Bool := s.plc.tiles.any fun t => t.ord == ord && t.stage == .bad

/-- PLC_FRONT.BLOCKED of a loaf held (R134). -/
def isBlocked (ord : Nat) (s : State) : Bool :=
  match loafOf ord s with
  | some l => l.blocked
  | none => false

/-- Publish the front of the armed or running loaf (R134 to R136): a fall and a new block are flagged. The block stays with the loaf until
it ends or is aborted (R134). -/
def publishFront (s : State) : State :=
  match armedOrd s with
  | none => s
  | some o =>
    match loafOf o s with
    | none => s
    | some l =>
      if l.discard then s else
      let n := readyRow l s
      let fall := decide (n < s.plc.front)
      let rise := hasBad o s && !l.blocked
      let s := { s with plc := { s.plc with front := n } }
      let s := if rise then updLoaf o (fun l => { l with blocked := true }) s else s
      raiseIf rise F.PLC_EVT_FRONT_BLOCK (raiseIf fall F.PLC_EVT_FRONT_BACK s)

/-- A loaf is armed: the front starts at what its committed tiles give, and PLC_FRONT shows its LOAF_ID (R139, R149). -/
def armFront (s : State) : State :=
  match armedOrd s with
  | none => s
  | some o =>
    match loafOf o s with
    | none => s
    | some l =>
      publishFront ({ s with plc := { s.plc with front := readyRow l s } }.setFld F.PLC_FRONT_LOAF_ID l.id)

/-- Commit one tile (R132). -/
def commitTile (t : Tile) (s : State) : State :=
  let s := updTile t (fun t => { t with stage := .committed, readable := true, kneader := none }) s
  let n := match t.block with
    | some b => 32 + b.data.length
    | none => 32
  let s := s.setFld F.PRF_ORIG_BYTES_BYTES (s.fld F.PRF_ORIG_BYTES_BYTES + 99072)
  let s := s.setFld F.PRF_COMP_BYTES_BYTES (s.fld F.PRF_COMP_BYTES_BYTES + n)
  let a := match t.asum with
    | some (a, _) => twos 36 (satS 36 a)
    | none => 0
  tellTile { ord := t.ord, row := t.row, col := t.col, k := satU 36 (t.ksum.getD 0), a := a } s

/-- The commit walk (R132, R174): a tile that has neither completed nor been marked bad stops it; a recovered tile is behind the
pointer and commits when it completes. -/
def commitWalk : List Tile → State → State
  | [], s => s
  | t :: r, s =>
    match t.stage with
    | .completed => commitWalk r (commitTile t s)
    | .bad => commitWalk r (updTile t (fun t => { t with kneader := none }) s)
    | .committed => commitWalk r s
    | .waiting | .queued | .taken | .passed | .compressing | .stopped | .written => if t.recovered then commitWalk r s else s

/-- Free the dough buffer slots of rows of which every tile is committed or bad (R79). -/
def freeSlots (s : State) : State :=
  { s with rows := s.rows.filter fun x => s.plc.tiles.any fun t =>
      t.ord == x.ord && t.row == x.row && t.stage != .committed && t.stage != .bad }

/-- May a tile's area be given back (R140, R162)? -/
def areaDone (t : Tile) (s : State) : Bool :=
  t.ownRead && (jobBeams s != 3 || t.tailRead || t.col == 31 ||
    (match tileOf t.ord t.row (t.col + 1) s with
     | some n => n.stage == .bad
     | none => false))

/-- Give back the areas whose dose words have been read (R140, R162). The model keeps the words of a tile whose writes are not all
acknowledged: a failed write makes it compress them again (R209 port 3; DESIGN CHOICE, log 86). -/
def freeAreas (s : State) : State :=
  { s with plc := { s.plc with tiles := s.plc.tiles.map fun t =>
      if t.area.isSome && areaDone t s then { t with area := none, words := if t.stage == .written then t.words else [] } else t } }

/-- After a tile has completed or been marked bad: commit, slots, areas and the front. -/
def settleTiles (s : State) : State := publishFront (freeAreas (freeSlots (commitWalk s.plc.tiles s)))

end Sys2Proof.Machine
end

