-- ==== Sys2Proof/Machine/Loaf.lean ====
section
/-!
DEFINITION. Shared operations on loaves: disarming, discarding (R83, R112, R139, R398, R533), the end of a loaf (R288, R337),
the end of pending loads (R389, R409, R533) and of a LOAF_ARM that did not settle (R532).
-/
namespace Sys2Proof.Machine

/-- Disarm an armed loaf, which stays held (R398, R409, R482). -/
def disarm (s : State) : State :=
  match s.core with
  | .armed => setScan .none { s with core := .job }
  | _ => s

/-- Does a transaction carry something of a loaf? -/
def TxnUse.ofLoaf (ord : Nat) : TxnUse → Bool
  | .seg o _ _ _ | .block o _ _ | .fill _ o _ _ _ | .dough o _ _ | .rowData o _ => o == ord
  | .other | .table _ => false

/-- Discard the dough of a loaf, its tiles, their proof pages, the rebuilds of its segments and what its units have posted and is not yet
accepted (R83, R112, R139, R169, R398). The tiles of a next loaf that have completed then commit (R139). -/
def discardDough (ord : Nat) (s : State) : State :=
  { s with rows := s.rows.filter (·.ord != ord), plc := { s.plc with tiles := s.plc.tiles.filter (·.ord != ord) },
           prf := { s.prf with rebuilds := s.prf.rebuilds.filter (·.1 != ord), holds := s.prf.holds.filter (·.ord != ord) },
           mem := { s.mem with posts := s.mem.posts.filter fun x => !x.use.ofLoaf ord } }

/-- Discard a loaf: its dough and tiles and its window half (R83, R112, R139, R168, R175). The next loaf held becomes the current one
(R47). -/
def discardLoaf (ord : Nat) (s : State) : State :=
  let s := discardDough ord s
  settleTiles { s with
           loaves := s.loaves.filter (·.ord != ord),
           pair := { s.pair with ownTiles := s.pair.ownTiles.filter (·.ord != ord),
                                 peerTiles := s.pair.peerTiles.filter (·.ord != ord),
                                 ownSlices := s.pair.ownSlices.filter (·.ord != ord),
                                 peerSlices := s.pair.peerSlices.filter (·.ord != ord) } }

/-- The bytes a LOAF_LOAD has read from host memory (R397): those of the segments taken and of the one in progress. -/
def Load.read (x : Load) : Nat :=
  x.taken + match x.seg with
    | some (n, _) => n
    | none => 0

/-- End every pending LOAF_LOAD with a status and the bytes it has read (R397, R409, R533); `none` sends no reply (R389). -/
def endLoads (status : Option Nat) (s : State) : State :=
  let l := s.loads
  let s := { s with loads := [] }
  match status with
  | none => s
  | some st => l.foldl (fun s x => answer .host x.tag st [BitVec.ofNat 36 x.read] s) s

/-- Replies that wait for Y to be at rest (R398). -/
def stopRepliesDone (s : State) : State :=
  let l := s.mot.stopReplies
  let s := { s with mot := { s.mot with stopReplies := [] } }
  l.foldl (fun s x => answer .host x.2 x.1 [] s) s

/-- ERR of a displaced slice whose crossing was never found (R281). -/
def errUnknown : Nat := 0x7FFFFFFF

/-- A DISPLACED entry (R281, R292). -/
def displacedEnt (r : Run) (n : Nat) (err : Nat) : JEnt :=
  { kind := kDisplaced, cause := 0, id := r.id, ord := r.ord % 2 ^ 12, n1 := n, a := 0, n2 := n, b := 0, v := err }

/-- Y is at rest after the loaf has ended or been stopped (R288, R337): open entries are committed (R281, R294), SCAN becomes NONE,
CORE_STATE becomes JOB unless it is SAFE, the loaf is no longer held (R47, R175), and waiting replies are sent (R398). In a
pair, STATE becomes SPLIT where the token has passed (R473). -/
def loafEnd (s : State) : State :=
  match s.lch.run with
  | none => s
  | some r =>
    let s := closeDisplace s.slc.next s
    let late := s.lch.crossings.filter (·.displaced)
    let s := if pairStandby s || r.quiet then s else commitAll (late.map fun x => displacedEnt r x.n errUnknown) s
    let s := if pairStandby s || r.quiet then { s with lch := { s.lch with openEnts := [] } } else closeAll s
    let s := (s.setFld F.TB_LAUNCH_STATUS_CANCELLING 0).setFld F.SLC_STATUS_PAUSED 0
    let y := profAt s.mot.scan.prof (profEnd s.mot.scan.prof)
    let s := if s.mot.scan.prof = [] then s else s.updAxis 1 fun x => { x with rest := y.p }
    let s := { s with lch := { s.lch with slices := [], crossings := [], run := none, paused := none, clkLoss := none },
                      mot := { s.mot with scan := { s.mot.scan with state := .none, prof := [], stopping := false, stopFrom := none } },
                      slc := { s.slc with epochs := [], deferred := 0 } }
    let s := discardLoaf r.ord s
    let s := if s.core = .exposing then { s with core := .job } else s
    let gone := handed s || (match s.pair.taking with
      | some t => t.taken
      | none => false)
    let p := { s.pair with differ := false, alone := false, mirror := [], markEpochs := [], trajs := [],
                           axes := none }
    let s := { s with pair := if gone then { p with st := 3, handing := none, taking := none } else p }
    checkElig (stopRepliesDone s)

/-- A LOAF_ARM move that was stopped or replaced has come to rest: the reply of R532, and SCAN returns to NONE. -/
def armEnd (s : State) : State :=
  match s.mot.arm with
  | none => s
  | some a =>
    match a.ends with
    | none => s
    | some st =>
      let s := setScan .none { s with mot := { s.mot with arm := none } }
      if a.silent then s else answer .host a.tag st [] s

/-- A LOAF_START that waits ends with the disarming of its loaf. -/
def failStart (s : State) : State :=
  let waits := s.mem.startHold.isSome || s.pair.startWait.isSome
  let s := { s with mem := { s.mem with startHold := none }, pair := { s.pair with startWait := none } }
  if waits then answerAll .host 0x14 stBadState [] s else s

/-- Journal the whole of an armed loaf as UNREACHED and end it (R286, R316 for a loaf armed and not started; DEDUCED, log 23). -/
def endArmedLoaf (cause : Nat) (s : State) : State :=
  match s.core, currentLoaf s with
  | .armed, some l =>
    let r : Run := { ord := l.ord, id := l.id, last := lastSliceOf (jobBeams s) l.rows, disposed := 0, prevL := none,
                     reached := none, stop := none, ended := true, quiet := false }
    let s := commitUnreached cause r 0 r.last s
    discardLoaf l.ord (failStart (disarm s))
  | _, _ => s

/-- Is a JOB_CLOSE pending (R533)? -/
def closing (s : State) : Bool :=
  match s.job with
  | some j => j.closing
  | none => false

/-- A pending JOB_CLOSE ends once nothing of the job is left (R533): CORE_STATE becomes IDLE, or stays SAFE. -/
def jobCloseEnd (s : State) : State :=
  if closing s && s.loads.isEmpty && s.mot.arm.isNone && s.loaves.isEmpty then
    let s := { s with job := none, core := if s.core = .safe then .safe else .idle,
                      plc := { s.plc with front := 0 } }
    judgeSoft (answerAll .host 0x11 stOk [] s)
  else s

end Sys2Proof.Machine
end

