-- ==== Sys2Proof/Machine/Pairs.lean ====
section
/-!
DEFINITION. The redundant pair's shared operations: the stop with a handover (R470, R471, R475), the passing and the taking of
the token (R471 to R473), a standby's loaf that ends without entries (R474), and mirrored entries (R465, R467).
-/
namespace Sys2Proof.Machine

/-- Record a takeover in PAIR_TKO (R473). -/
def setTko (cause : Nat) (took unasked : Bool) (first : Nat) (s : State) : State :=
  let s := (s.setFld F.PAIR_TKO_VALID 1).setFld F.PAIR_TKO_CAUSE cause
  let s := (s.setFld F.PAIR_TKO_TOOK took.toNat).setFld F.PAIR_TKO_UNASKED unasked.toNat
  (s.setFld F.PAIR_TKO_FIRST_FIRST first).setFld F.PAIR_TKO_FIRED_FIRED 0xFFFFFFFF

/-- The payload of PAIR_TAKEOVER (R471). -/
def takeoverWords (first lFirst cause ord : Nat) : List Word :=
  [BitVec.ofNat 36 (first % 2 ^ 32), BitVec.ofNat 36 (lFirst % 2 ^ 36), BitVec.ofNat 36 (lFirst / 2 ^ 36 % 2 ^ 30),
   BitVec.ofNat 36 (cause * 2 ^ 16 + ord % 2 ^ 16)]

/-- Send PAIR_TAKEOVER and wait for its reply (R471). -/
def sendTakeover (first lFirst cause ord : Nat) (host : Option (BitVec 10)) (inJob : Bool) (s : State) : State :=
  let (tag, s) := sendPeer 0x61 (takeoverWords first lFirst cause ord) s
  { s with pair := { s.pair with handing := some { tag := tag, first := first, lFirst := lFirst, cause := cause, ord := ord,
                                                   ok := false, passed := false, host := host, inJob := inJob } } }

/-- A stopping event that hands over while the standby is eligible (R470); otherwise the owner stops with the same cause. A stop
already decided is not changed and hands nothing over (R287, R475). -/
def stopHand (cause : Nat) (stop : State → State) (host : Option (BitVec 10)) (s : State) : State :=
  let pass := pairOwner s && eligible s && running s
  let t := stop s
  match t.lch.run with
  | some r => (match pass, r.stop with
      | true, some x => sendTakeover x.first x.lFirst cause r.ord host false t
      | _, _ => t)
  | none => t

/-- The owner deasserts OWN_N (R471): the token has passed. A HANDOVER in JOB leaves STATE and the records alone (R466). -/
def passToken (s : State) : State :=
  match s.pair.handing with
  | none => s
  | some h =>
    if h.passed then s
    else
      let s := { s with pair := { s.pair with own := false, handing := if h.inJob then none else some { h with passed := true } } }
      let s := if h.inJob then s else setTko h.cause false false h.first (raise F.PAIR_EVT_HANDED s)
      let s := match h.host with
        | some tag => answer .host tag stOk [] s
        | none => s
      let s := if s.lch.run.isNone && !h.inJob then { s with pair := { s.pair with st := 3, handing := none } } else s
      checkElig s

/-- The takeover was refused or not answered: the owner keeps the token and STATE becomes SPLIT (R471); a HANDOVER replies. -/
def keepToken (status : Nat) (s : State) : State :=
  match s.pair.handing with
  | none => s
  | some h =>
    if h.passed then s
    else
      let s := { s with pair := { s.pair with handing := none } }
      let s := match h.host with
        | some tag => answer .host tag status [] s
        | none => s
      setPairSt 3 s

/-- The owner's local clock has reached L_FIRST and the OK has arrived: the token passes (R471). -/
def passIfDue (s : State) : State :=
  match s.pair.handing with
  | some h => if h.ok && decide (h.lFirst ≤ s.quarter) then passToken s else s
  | none => s

/-- A standby's loaf ends without journal entries (R471, R474): it stops following, and its loaf ends when the last trajectory
it received does. -/
def quietEnd (s : State) : State :=
  let s := { s with pair := { s.pair with mirror := [] }, lch := { s.lch with openEnts := [] } }
  match s.lch.run with
  | none => s
  | some r =>
    let x : StopRec := { cause := cTakeover, first := s.slc.next, lFirst := s.quarter }
    let s := { s with lch := { s.lch with run := some { r with quiet := true, ended := true, stop := some (r.stop.getD x) },
                                          slices := [], paused := none } }
    setScan .leadout { s with mot := { s.mot with scan := { s.mot.scan with stopping := true } } }

/-- Commit the open mirrored entries (R473). -/
def commitMirror (s : State) : State := commitAll s.pair.mirror { s with pair := { s.pair with mirror := [] } }

/-- The standby asserts OWN_N: the takeover (R471 to R473). The stop of R312 starts at the later of L_FIRST and the first tick
whose frame it has not sent; nothing more is sent of the loaf, and its open mirrored entries are committed. -/
def takeToken (t : Taking) (s : State) : State :=
  let s := { s with pair := { s.pair with own := true, taking := if t.inJob then none else some { t with taken := true } } }
  if t.inJob then checkElig s
  else
    let s := setTko t.cause true t.unasked t.first (raise F.PAIR_EVT_TAKEN s)
    match s.lch.run with
    | none => setPairSt 3 { (disarm s) with pair := { s.pair with st := 3, taking := none } }
    | some r =>
      let x : StopRec := { cause := t.cause, first := t.first, lFirst := t.lFirst }
      let s := { s with lch := { s.lch with run := some { r with ended := true, stop := some x }, slices := [], cancel := none,
                                            paused := none } }
      commitMirror (setScan .leadout (stopScan t.lFirst s))

/-- Is Y at rest for the rest of its planned trajectory? -/
def scanAtRest (s : State) : Bool :=
  (s.mot.scan.prof.filter fun f => decide (s.nowRat < f.end)).all fun f => decide (f.v0 = 0 ∧ f.a0 = 0 ∧ f.j = 0)

/-- The entries of a takeover (R473 steps 2 and 3): CANCELLED from a first number to the last slice predicted, then UNREACHED; a
LOST entry where no report tells what fired. The loaf ends when Y is at rest. -/
def takeoverEnts (start : Nat) (lost : Bool) (s : State) : State :=
  match s.lch.run, s.pair.taking with
  | some r, some t =>
    if !t.taken then s
    else
      let next := s.slc.next
      let s := if start < next then commitEnt (rangeRec kCancelled t.cause r start (next - 1) (laneMask s)) s else s
      let s := commitUnreached t.cause r (max start next) r.last s
      let s := if lost then commitEnt (lostEnt 1) s else s
      let s := { s with pair := { s.pair with taking := some { t with seen := false } } }
      if scanAtRest s then loafEnd s else s
  | _, _ => s

/-- Does a new owner still wait for the TOKEN frame (R473)? While it waits, `seen` stays set. -/
def awaitsToken (s : State) : Bool :=
  match s.pair.taking with
  | some t => t.taken && t.seen
  | none => false

/-- Does an entry extend or equal an open mirrored one? -/
def JEnt.extends (e m : JEnt) : Bool := e.kind == m.kind && e.cause == m.cause && e.ord == m.ord && e.id == m.id && e.n1 == m.n1

/-- Is an entry of a kind that stays open (R294)? -/
def JEnt.isRange (e : JEnt) : Bool := e.kind == kBlanked || e.kind == kCancelled || e.kind == kFront

/-- The standby mirrors one entry of the owner (R465 JNL): an entry it repeats has been committed, one that extends an open one
replaces it, and a new open one follows the commit of the one before it. Other kinds come only when they are committed. -/
def mirrorEnt (e : JEnt) (s : State) : State :=
  if !e.isRange then commitEnt e s
  else
    let put (l : List JEnt) (s : State) : State := { s with pair := { s.pair with mirror := l } }
    if s.pair.mirror.contains e then commitEnt e (put (removeFirst (fun m => decide (m = e)) s.pair.mirror) s)
    else if s.pair.mirror.any e.extends then put (updateFirst e.extends (fun _ => e) s.pair.mirror) s
    else match s.pair.mirror.find? e.same with
    | some m => commitEnt m (put (removeFirst e.same s.pair.mirror ++ [e]) s)
    | none => put (s.pair.mirror ++ [e]) s

end Sys2Proof.Machine
end

