-- ==== Sys2Proof/Machine/Guard.lean ====
section
/-!
DEFINITION. What ends work from outside it: an axis that gains a fault cause (R316), the end of a lease (R409), a port reset
(R389), and the entry to SAFE (R482).
-/
namespace Sys2Proof.Machine

/-- An occurrence of a fault cause of an axis (R316). One that is set already is counted and recorded only. -/
def gainFault (a : Nat) (f : Fld) (s : State) : State :=
  if s.bit f then raise f s
  else
    let s := raise F.MOT_EVT_FAULT (stopMoves (· == a) (raise f s))
    let s := abortHomeOf a s
    let s := match s.core with
      | .exposing => stopLoaf cFault false s
      | .armed => endArmedLoaf cFault s
      | .boot | .idle | .job | .safe | .recovery => s
    armBroken s

/-- No pending LOAF_START (R214, R460). -/
def dropStart (s : State) : State :=
  { s with mem := { s.mem with startHold := none }, pair := { s.pair with startWait := none, armWait := none } }

/-- No pending JOB_CLOSE. -/
def dropClose (s : State) : State := { s with job := s.job.map fun j => { j with closing := false } }

/-- A HOST JOIN that waits is given up: STATE is what it was before (R458). -/
def dropJoin (s : State) : State :=
  match s.pair.join with
  | some (_, _, st) => { s with pair := { s.pair with join := none, st := st } }
  | none => s

/-- No HANDOVER waits for the passing of the token. -/
def dropHandover (s : State) : State :=
  { s with pair := { s.pair with handing := s.pair.handing.map fun h => { h with host := none } } }

/-- The expiry actions of the exposure lease (R409, R470); no reply where the holder's port is reset (R389). -/
def endExposure (silent : Bool) (s : State) : State :=
  let s := match s.core with
    | .exposing => stopHand cLease (stopLoaf cLease false) none s
    | .armed => disarm s
    | .boot | .idle | .job | .safe | .recovery => s
  let s := stopAllMotion s
  let s := endLoads (if silent then none else some stLocked) s
  let waits := s.pair.armWait.isSome
  let s := failArm stLocked silent s
  let s := if silent then s
    else
      let s := if waits then answerAll .host 0x13 stLocked [] s else s
      [0x10, 0x11, 0x14, 0x60].foldl (fun s op => answerAll .host op stLocked [] s) s
  let s := dropHandover (dropJoin (dropClose (dropStart s)))
  checkElig (raise F.CMD_EVT_LEASE_EXP { s with cmd := { s.cmd with exp := none } })

/-- Calibration commands that wait end with LOCKED (R409); those of a port being reset are in flight no more and have no reply (R389). -/
def endCalWaits (s : State) : State :=
  let l := s.cal.waiting
  l.foldl (fun s x => answer x.port x.tag stLocked [] s) { s with cal := { s.cal with waiting := [] } }

/-- The five words of a waiting capture of DARK, FLAT or BEAMS that ends unbegun (DEDUCED, log 20). -/
def lockedWaits (s : State) : State :=
  (s.cal.waiting.filter fun x => x.op == 0x40 && decide (wbits (nth 0 x.w 0) 7 0 ≤ 0x03)).foldl (fun s x =>
    refuse { port := x.port, tag := x.tag, flags := 0, op := x.op, w := x.w } stLocked s) s

/-- The reply that a flash job owes, with whether it has begun writing (R409). -/
def FlashJob.owed : FlashJob → Option (Port × BitVec 10 × Bool)
  | .tst _ _ => none
  | .store p tag _ r => some (p, tag, r.isSome)
  | .load p tag _ => some (p, tag, false)
  | .compact p tag r => some (p, tag, r.isSome)

/-- Flash commands that have not begun are given up with the calibration lease (R409). -/
def endNvmWaits (s : State) : State :=
  let waits (j : FlashJob) : Bool := match j.owed with
    | some (_, _, begun) => !begun
    | none => false
  let gone := s.nvm.jobs.filter waits
  gone.foldl (fun s j => match j.owed with
    | some (p, tag, _) => answer p tag stLocked [] s
    | none => s) { s with nvm := { s.nvm with jobs := s.nvm.jobs.filter fun j => !waits j } }

/-- The RX_OFF capture that runs stops (R409). -/
def stopRxOff (status : Nat) (s : State) : State :=
  match s.cal.rxoff with
  | some (p, tag, _) => answer p tag status [] { s with cal := { s.cal with rxoff := none } }
  | none => s

/-- The expiry actions of the calibration lease (R409). The commands of a port being reset have no reply: it has freed their tags (R389). -/
def endCalLease (s : State) : State :=
  let s := endCalWaits (lockedWaits s)
  let s := stopRxOff stLocked (stopCapt stLocked s)
  let s := endNvmWaits s
  raise F.CMD_EVT_LEASE_EXP { s with cmd := { s.cmd with cal := none } }

/-- End a lease (R409): lock 0 or 1. -/
def endLease (n : Nat) (silent : Bool) (s : State) : State := if n = 0 then endExposure silent s else endCalLease s

/-- A tag that no request carries (R377, R380): the reply of an abandoned command finds no command in flight. -/
def noTag : BitVec 10 := 0x3FF

/-- Commands of a port whose actions go on lose their reply (R389). A LOAF_ARM that is abandoned arms nothing when its move has settled
(DEDUCED, log 79). -/
def orphan (p : Port) (s : State) : State :=
  let drop (q : Port) (tag : BitVec 10) : BitVec 10 := if q = p then noTag else tag
  let jobs := s.nvm.jobs.map fun j => match j with
    | .tst op a => FlashJob.tst op a
    | .store q tag k r => .store q (drop q tag) k r
    | .load q tag k => .load q (drop q tag) k
    | .compact q tag r => .compact q (drop q tag) r
  let s := { s with nvm := { s.nvm with jobs := jobs },
                    lnk := { s.lnk with trains := s.lnk.trains.filter (·.port != p),
                                        loop := s.lnk.loop.map fun l => { l with tag := drop l.port l.tag } },
                    mem := { s.mem with retrains := s.mem.retrains.filter (·.port != p) },
                    mot := { s.mot with arm := s.mot.arm.map fun a => if p = .host then { a with ends := some (a.ends.getD stLocked), silent := true } else a },
                    cal := { s.cal with waiting := s.cal.waiting.filter (·.port != p),
                                        rxoff := s.cal.rxoff.map fun x => (x.1, drop x.1 x.2.1, x.2.2),
                                        capt := s.cal.capt.map fun c => { c with tag := drop c.port c.tag } } }
  match p with
  | .host => dropHandover (dropJoin (dropClose (dropStart { s with mot := { s.mot with stopReplies := [] }, loads := [] })))
  | .service | .partner => s

/-- Reset a port (R389): its leases end, its commands are abandoned, its tags freed, its event queue emptied and its captures of
the clock dropped. -/
def resetPort (p : Port) (s : State) : State :=
  let abandoned := s.cmd.flight.filter (·.port != p)
  let s := { s with cmd := { s.cmd with flight := abandoned, held := s.cmd.held.filter (·.port != p) } }
  let s := if holds p 0 s then endLease 0 true s else s
  let s := if holds p 1 s then endLease 1 true s else s
  let s := orphan p s
  let s := { s with cmd := s.cmd.updPort p fun x => { x with events := [], wake := false, capt := 0 } }
  raise F.CMD_EVT_PORT_RESET s

/-- Enter SAFE (R482): the loaf stops with the given cause, an armed loaf is disarmed, every axis stops. -/
def enterSafe (cause : Nat) (s : State) : State :=
  match s.core with
  | .idle | .job | .armed | .exposing =>
    let s := if s.core = .exposing then stopLoaf cause true s else failStart (disarm s)
    checkElig (armBroken (stopAllMotion { s with core := .safe }))
  | .boot | .safe | .recovery => s

end Sys2Proof.Machine
end

