-- ==== Sys2Proof/Machine/Power.lean ====
section
/-!
DEFINITION. The power manager's shared operations: the commanded core voltage (R493 to R496), the enabling and disabling of the
clusters (R35, R496), and the causes of SAFE (R482).
-/
namespace Sys2Proof.Machine

/-- VOUT_COMMAND data in LINEAR16 (R493): round_half_up(mV · 2^(−N) / 1,000), N the exponent of VOUT_MODE. -/
def linear16 (mv : Nat) (n : Int) : Nat :=
  if n ≤ 0 then (roundHalfUp ((mv * 2 ^ n.natAbs : Nat) : Int) 1000).toNat else (roundHalfUp (mv : Int) (1000 * 2 ^ n.natAbs)).toNat

/-- Command VDD_CORE (R493), unless AVS_HOLD keeps the regulator's last output (R494). -/
def commandVdd (mv : Nat) (s : State) : State :=
  if s.pwr.avsHold then s
  else emit (.pmbus (s.fld F.PWR_PMB_ADDR) 0x21 (linear16 mv (s.sfld F.PWR_PMB_VOUT_N))) { s with pwr := { s.pwr with vset := mv } }

/-- A failed PMBus transaction or a fault bit (R494). -/
def pmbFail (s : State) : State := raise F.PWR_EVT_PMB_FAIL { s with pwr := { s.pwr with avsHold := true } }

/-- Are the clusters off and not being enabled? -/
def coreOff (s : State) : Bool := decide (s.pwr.clOn < 64) && !s.pwr.enabling

/-- Wake the core (R496): VMAX_MV, then the clusters one at a time (R35). -/
def wakeCore (s : State) : State :=
  if coreOff s then
    let s := commandVdd (s.fld F.PWR_AVS_CTL_VMAX_MV) s
    { s with pwr := { s.pwr with enabling := true, idleOff := false } }
  else s

/-- Disable all clusters and command VMIN_MV (R496, R497, R498). -/
def sleepCore (s : State) : State :=
  commandVdd (s.fld F.PWR_AVS_CTL_VMIN_MV) { s with pwr := { s.pwr with clOn := 0, enabling := false } }

/-- SAFE causes as bits of PWR_SAFE (R482, R501). -/
def causeInterlock : Nat := 1
def causeTherm : Nat := 2
def causeUv : Nat := 4
def causePwrFail : Nat := 8

/-- Is a cause present? -/
def hasCause (b : Nat) (s : State) : Bool := s.pwr.causes &&& b != 0

/-- A cause of SAFE arises (R482): it is shown, and SAFE is entered with the cause R286 gives. -/
def causeArises (b stop : Nat) (s : State) : State :=
  enterSafe stop { s with pwr := { s.pwr with causes := s.pwr.causes ||| b } }

/-- A cause clears. -/
def causeClears (b : Nat) (s : State) : State :=
  if hasCause b s then { s with pwr := { s.pwr with causes := s.pwr.causes - b } } else s

end Sys2Proof.Machine
end

