-- ==== Sys2Proof/Machine/Nvm.lean ====
section
/-!
DEFINITION. The flash: its areas (R440), records (R441, R442), the scan of a half and the active half (R443), trim entries (R439),
the contents of each kind (R434), the hold-up check (R448), the queue of flash operations (R444, R525), and the device reset with what it
retains (R485 to R488).
-/
namespace Sys2Proof.Machine

/-- An erased byte of flash (DESIGN CHOICE, log 7). -/
def erased (_ : Nat) : Byte := 0xFF

/-- An area of the flash: base, size of a half, kinds it holds beside COMMIT and JNL_MARK (R440). -/
structure Area where
  base : Nat
  size : Nat
  kinds : List Nat
  deriving DecidableEq, Repr

def trimArea : Area := { base := 0x1000000, size := 0x100000, kinds := [0x10, 0x11, 0x12, 0x13, 0x14, 0x15, 0xFE] }
def tableArea : Area := { base := 0x1200000, size := 0x400000, kinds := [0x03, 0xFE] }
def jnlArea : Area := { base := 0x1A00000, size := 0x200000, kinds := [0x20, 0x21] }

/-- The start of a half. -/
def Area.half (a : Area) (h : Nat) : Nat := a.base + h * a.size

/-- Words of the gain table and of the dead-beam map (R433). -/
def gainWords : Nat := 174763
def deadWords : Nat := 14564

/-- Is a payload length the one its kind requires (R434, R441, R442)? -/
def lenFits (kind len : Nat) : Bool :=
  match kind with
  | 0x03 => len == gainWords + deadWords
  | 0x10 => len == 45
  | 0x11 => len == 11
  | 0x12 => len == 64
  | 0x13 => len == 7
  | 0x14 => len == 1
  | 0x15 => len == 6
  | 0x20 => decide (0 < len ∧ len ≤ 1024) && len % 4 == 0
  | 0x21 | 0xFE => len == 0
  | _ => false

/-- Bytes of a record without and with its check group (R441). -/
def recBody (len : Nat) : Nat := 9 * ceilDiv (3 + len) 2
def recBytes (len : Nat) : Nat := recBody len + 9

/-- Bytes of flash. -/
def flashBytes (m : AMap Byte) (addr n : Nat) : List Byte := amGetList erased m addr n

/-- A record found by a scan: where it stands and its header; whether its header and its check word hold. -/
structure RecAt where
  addr : Nat
  kind : Nat
  len : Nat
  seq : Nat
  stamp : Nat
  sound : Bool
  valid : Bool
  deriving DecidableEq, Repr

/-- The header words of a record: MAGIC, KIND, LEN; SEQ; STAMP. -/
def recAt (a : Area) (m : AMap Byte) (addr : Nat) : Option RecAt :=
  let w := wordsOf (flashBytes m addr 18)
  let w0 := nth 0 w 0
  if wbits w0 35 28 ≠ 0x5C then none
  else
    let kind := wbits w0 27 20
    let len := wbits w0 19 0
    let body := flashBytes m addr (recBody len)
    let check := wbits (nth 0 (wordsOf (flashBytes m (addr + recBody len) 9)) 0) 31 0
    let sound := a.kinds.contains kind && lenFits kind len
    some { addr := addr, kind := kind, len := len, seq := (nth 0 w 1).toNat, stamp := (nth 0 w 2).toNat, sound := sound,
           valid := sound && decide (check = (crc32c body).toNat) }

/-- The first page boundary at or after an address. -/
def pageUp (addr : Nat) : Nat := ceilDiv addr 256 * 256

/-- Scan a half from an address (R443): the records found, and where the scan ended. -/
def scanFrom (a : Area) (m : AMap Byte) (stop : Nat) : Nat → Nat → List RecAt × Nat
  | 0, addr => ([], addr)
  | fuel + 1, addr =>
    if stop ≤ addr then ([], addr)
    else match recAt a m addr with
    | none => ([], addr)
    | some r => let (l, e) := scanFrom a m stop fuel (pageUp (addr + recBytes r.len)); (r :: l, e)

/-- Scan a half. -/
def scanHalf (a : Area) (m : AMap Byte) (h : Nat) : List RecAt × Nat :=
  scanFrom a m (a.half h + a.size) (a.size / 256) (a.half h)

/-- The records of both halves of an area. -/
def scanArea (a : Area) (m : AMap Byte) : List RecAt := (scanHalf a m 0).1 ++ (scanHalf a m 1).1

/-- The record of the highest SEQ, the first among equals. -/
def newestOf (l : List RecAt) : Option RecAt := leastBy (fun x y => decide (y.seq < x.seq)) l

/-- The newest valid record of a kind (R442). -/
def newest (a : Area) (m : AMap Byte) (kind : Nat) : Option RecAt :=
  newestOf ((scanArea a m).filter fun r => r.valid && r.kind == kind)

/-- The half in which a record stands. -/
def Area.halfOf (a : Area) (addr : Nat) : Nat := (addr - a.base) / a.size

/-- The active half (R443). -/
def activeHalf (a : Area) (m : AMap Byte) : Nat :=
  match newest a m 0xFE with
  | some r => a.halfOf r.addr
  | none => 0

/-- The highest SEQ in the flash (R443, R450). -/
def highSeq (m : AMap Byte) : Nat :=
  (((scanArea trimArea m ++ scanArea tableArea m ++ scanArea jnlArea m).filter (·.valid)).map (·.seq)).foldl max 0

/-- Free KiB of the active half (R450). -/
def freeKib (a : Area) (m : AMap Byte) : Nat :=
  let h := activeHalf a m
  (a.half h + a.size - (scanHalf a m h).2) / 1024

/-- The payload words of a record. -/
def recPayload (m : AMap Byte) (r : RecAt) : List Word := ((wordsOf (flashBytes m r.addr (recBody r.len))).drop 3).take r.len

/-- The bytes of a record (R441). -/
def recordBytes (kind seq stamp : Nat) (payload : List Word) : List Byte :=
  let body := packWords ([BitVec.ofNat 36 (0x5C * 2 ^ 28 + kind * 2 ^ 20 + payload.length), BitVec.ofNat 36 seq,
    BitVec.ofNat 36 stamp] ++ payload)
  body ++ packGroup (BitVec.ofNat 36 (crc32c body).toNat) 0

/-- The area of a kind. -/
def areaOf (kind : Nat) : Area := if kind = 0x03 then tableArea else trimArea

/-- Entries of a trim kind (R439); 0 for a kind without entries. -/
def trimCount (kind : Nat) : Nat :=
  if kind = 0x10 then 45 else if kind = 0x11 then 11 else if kind = 0x12 then 64 else if kind = 0x15 then 6 else 0

/-- The lowest bit of an entry that is not reserved (R439). -/
def trimLow (kind : Nat) : Nat := if kind = 0x10 then 12 else if kind = 0x11 then 27 else if kind = 0x12 then 16 else 8

/-- The key of a trim entry. -/
def trimKey (kind i : Nat) : Nat := kind * 64 + i

/-- Reset values of the trim entries (R439). -/
def trimDefault (key : Nat) : Word :=
  let kind := key / 64
  if kind = 0x10 then BitVec.ofNat 36 (0x30 * 2 ^ 30 + 0x3C * 2 ^ 24)
  else if kind = 0x12 then BitVec.ofNat 36 (0x40 * 2 ^ 28 + 0x40 * 2 ^ 20 + 0x8 * 2 ^ 16)
  else if kind = 0x15 then BitVec.ofNat 36 (0x8000 * 2 ^ 20)
  else 0

/-- A trim entry. -/
def State.trim (s : State) (kind i : Nat) : Word := amGet trimDefault s.cal.trims (trimKey kind i)

/-- Write a trim entry; its reserved bits stay 0. -/
def State.setTrim (s : State) (kind i : Nat) (w : Word) : State :=
  let w := BitVec.ofNat 36 (w.toNat / 2 ^ trimLow kind * 2 ^ trimLow kind)
  { s with cal := { s.cal with trims := amPut trimDefault s.cal.trims (trimKey kind i) w } }

/-- A sense reading corrected by its SENSE entry (R439). -/
def senseOf (s : State) (i : Nat) (raw : Int) : Int :=
  let e := s.trim 0x15 i
  (raw * (wbits e 35 20 : Int)).fdiv 32768 + sext 12 (wbits e 19 8)

/-- The gain word and the map word of the active tables (R433). -/
def gainWord (b : Beams) (i : Nat) : Word :=
  let g (k : Nat) : Nat := if 3 * i + k < 524288 then amGet gainDefault b.gain (3 * i + k) else 0
  BitVec.ofNat 36 (g 0 + g 1 * 2 ^ 12 + g 2 * 2 ^ 24)
def deadWord (b : Beams) (i : Nat) : Word :=
  BitVec.ofNat 36 (natOfBits ((List.range 36).map fun k => decide (36 * i + k < 524288) && amGet (fun _ => false) b.dead (36 * i + k)))

/-- The payload of BEAMS (R441). -/
def beamsPayload (b : Beams) : List Word := (List.range gainWords).map (gainWord b) ++ (List.range deadWords).map (deadWord b)

/-- The tables of a BEAMS payload. -/
def beamsOf (w : List Word) : Beams :=
  let gains := (w.take gainWords).flatMap fun x => [wbits x 11 0, wbits x 23 12, wbits x 35 24]
  let deads := (w.drop gainWords).flatMap fun x => (List.range 36).map x.getLsbD
  { gain := amPutList gainDefault [] 0 (gains.take 524288), dead := amPutList (fun _ => false) [] 0 (deads.take 524288) }

/-- The registers of TS_DLY in order (R434). -/
def tsRegs : List Nat := [A.TB_TS_TRIM 0, A.TB_TS_TRIM 1, A.TB_TW_DLY 0, A.TB_TW_DLY 1, A.TB_TW_DLY 2, A.TB_TW_DLY 3, A.TB_POS_LAT]

/-- What NVM_STORE stores of a kind (R434, R441). -/
def kindPayload (kind : Nat) (s : State) : List Word :=
  if kind = 0x03 then beamsPayload s.cal.beams
  else if kind = 0x13 then tsRegs.map s.getReg
  else if kind = 0x14 then [BitVec.ofNat 36 (s.fld F.TB_VCXO_CENTRE)]
  else (List.range (trimCount kind)).map (s.trim kind)

/-- The writable bits of a register. -/
def regMask (addr : Nat) : Word :=
  match regRow addr with
  | none => 0
  | some r => r.fields.foldl (fun w f => if f.acc = .rw then setBits w f.hi f.lo (2 ^ 36 - 1) else w) 0

/-- Apply a record's payload as stored (R434, R442). -/
def applyKind (kind : Nat) (w : List Word) (s : State) : State :=
  if kind = 0x03 then { s with cal := { s.cal with beams := beamsOf w } }
  else if kind = 0x13 then (tsRegs.zip w).foldl (fun s x => s.setReg x.1 ((s.getReg x.1 &&& ~~~regMask x.1) ||| (x.2 &&& regMask x.1))) s
  else if kind = 0x14 then s.setFld F.TB_VCXO_CENTRE (wbits (nth 0 w 0) 15 0)
  else (List.range (trimCount kind)).foldl (fun s i => s.setTrim kind i (nth 0 w i)) s

/-- REC_BAD for each sound record of a scan whose check word fails (R442). -/
def flagBad (l : List RecAt) (s : State) : State :=
  (l.filter fun r => r.sound && !r.valid).foldl (fun s _ => raise F.CAL_EVT_REC_BAD s) s

/-- Apply the newest record of a kind, if there is one; answers its SEQ. -/
def applyNewest (kind : Nat) (s : State) : Option Nat × State :=
  match newest (areaOf kind) s.nvm.flash kind with
  | some r => (some r.seq, applyKind kind (recPayload s.nvm.flash r) s)
  | none => (none, s)

/-- The hold-up check of a step (R448), with the raw reading of HOLDUP_SENSE. -/
def holdupCheck (bytes sense : Nat) (s : State) : Bool × State :=
  let v := (max 0 (senseOf s 5 sense)).toNat
  let vmin := s.fld F.CAL_HOLDUP_VMIN_MV
  let have_ := if v ≤ vmin then 0 else s.fld F.CAL_HOLDUP_CAP_MF * (v * v - vmin * vmin) / 2000000
  let need := s.fld F.CAL_HOLDUP_COST_BASE_MJ + ceilDiv (bytes * s.fld F.CAL_HOLDUP_COST_UJ_PER_KIB) 1024000
  let s := (s.setFld F.CAL_HOLDUP_MEAS_V_MV (satU 16 v)).setFld F.CAL_HOLDUP_MEAS_E_MJ (satU 20 have_)
  (decide (need ≤ have_), s)

/-- Program bytes into flash. Over an erased byte the new byte stands; over any other the spec states no result, and the byte is
a free value unless it does not change. -/
def programFlash : Nat → List Byte → State → State
  | _, [], s => s
  | addr, b :: r, s =>
    let old := amGet erased s.nvm.flash addr
    let put (v : Byte) (s : State) : State := { s with nvm := { s.nvm with flash := amPut erased s.nvm.flash addr v } }
    let s := if old = 0xFF then put b s
      else if old = b then s
      else let (n, s) := s.draw; put (BitVec.ofNat 8 n) s
    programFlash (addr + 1) r s

/-- Erase a sector of 4 KiB. -/
def eraseSector (addr : Nat) (s : State) : State :=
  let m := s.nvm.flash.filter fun e => decide (e.1 < addr ∨ addr + 4096 ≤ e.1)
  { s with nvm := { s.nvm with flash := m } }

/-- Bytes of flash left with unknown contents by an operation that failed: free values. -/
def spoilFlash : Nat → Nat → State → State
  | _, 0, s => s
  | addr, n + 1, s =>
    let (v, s) := s.draw
    spoilFlash (addr + 1) n { s with nvm := { s.nvm with flash := amPut erased s.nvm.flash addr (BitVec.ofNat 8 v) } }

/-- Steps that erase a half. -/
def eraseHalf (a : Area) (h : Nat) : List FlashPrim := (List.range (a.size / 4096)).map fun i => .erase (a.half h + 4096 * i)

/-- Steps that write records, given by kind, STAMP and payload, one after the other, each with the next SEQ. -/
def writeRecs : Nat → Nat → List (Nat × Nat × List Word) → List FlashPrim
  | _, _, [] => []
  | addr, seq, (kind, stamp, w) :: r => .write addr (recordBytes kind seq stamp w) :: writeRecs (pageUp (addr + recBytes w.length)) (seq + 1) r

/-- The compaction of an area (R444): its steps and the number of records it writes. A copy keeps its record's STAMP (DEDUCED, log 83). -/
def compactArea (a : Area) (m : AMap Byte) (stamp seq : Nat) : List FlashPrim × Nat :=
  let old := activeHalf a m
  let new := 1 - old
  let recs := (a.kinds.filter (· != 0xFE)).filterMap fun k => (newest a m k).map fun r => (k, r.stamp, recPayload m r)
  (eraseHalf a new ++ writeRecs (a.half new) seq (recs ++ [(0xFE, stamp, [])]) ++ eraseHalf a old, recs.length + 1)

/-- The steps of a compaction and the SEQ of its last record. -/
def compactSteps (s : State) : List FlashPrim × Nat :=
  let m := s.nvm.flash
  let stamp := s.ns % 2 ^ 36
  let seq := highSeq m + 1
  let (l1, n1) := compactArea trimArea m stamp seq
  let (l2, n2) := compactArea tableArea m stamp (seq + n1)
  (l1 ++ l2, seq + n1 + n2 - 1)

/-- Bytes of a step, for the hold-up check. -/
def FlashPrim.bytes : FlashPrim → Nat
  | .erase _ => 4096
  | .write _ b => b.length

/-- Replace the first flash job. -/
def setJob (j : FlashJob) (s : State) : State := { s with nvm := { s.nvm with jobs := j :: s.nvm.jobs.drop 1 } }

/-- Take the first flash job off. -/
def dropJob (s : State) : State := { s with nvm := { s.nvm with jobs := s.nvm.jobs.drop 1 } }

/-- A step without the energy for it (R448). -/
def holdupLow (p : Port) (tag : BitVec 10) (s : State) : State := answer p tag stHoldupLow [] (raise F.CAL_EVT_HOLDUP_LOW (dropJob s))

/-- Begin an NVM_STORE (R443): its place, the room for it, and the hold-up check. -/
def beginStore (p : Port) (tag : BitVec 10) (kind sense : Nat) (s : State) : State :=
  let m := s.nvm.flash
  let a := areaOf kind
  let h := activeHalf a m
  let e := (scanHalf a m h).2
  let seq := highSeq m + 1
  let bytes := recordBytes kind seq (s.ns % 2 ^ 36) (kindPayload kind s)
  let s := flagBad (scanArea a m) s
  if a.half h + a.size < e + bytes.length || !(flashBytes m e 256).all (· == 0xFF) then answer p tag stNoSpace [] (dropJob s)
  else
    let (ok, s) := holdupCheck bytes.length sense s
    if ok then setJob (.store p tag kind (some (e, bytes, seq))) s else holdupLow p tag s

/-- Carry out an NVM_LOAD (R442): the newest record as stored, or CHECK_FAIL. -/
def doLoad (p : Port) (tag : BitVec 10) (kind : Nat) (s : State) : State :=
  let s := flagBad (scanArea (areaOf kind) s.nvm.flash) (dropJob s)
  match applyNewest kind s with
  | (some seq, s) => answer p tag stOk [BitVec.ofNat 36 seq] s
  | (none, s) => answer p tag stCheckFail [] s

/-- Begin a compaction (R444). -/
def beginCompact (p : Port) (tag : BitVec 10) (sense : Nat) (s : State) : State :=
  let m := s.nvm.flash
  let s := flagBad (scanArea trimArea m ++ scanArea tableArea m) s
  let (steps, seq) := compactSteps s
  match steps with
  | [] => answer p tag stOk [BitVec.ofNat 36 seq] (dropJob s)
  | f :: _ =>
    let (ok, s) := holdupCheck f.bytes sense s
    if ok then setJob (.compact p tag (some (seq, steps))) s else holdupLow p tag s

/-- Begin the jobs at the front of the queue until one runs (R525). -/
def beginJobs (sense : Nat) : Nat → State → State
  | 0, s => s
  | fuel + 1, s =>
    match s.nvm.jobs with
    | .store p tag kind none :: _ => beginJobs sense fuel (beginStore p tag kind sense s)
    | .load p tag kind :: _ => beginJobs sense fuel (doLoad p tag kind s)
    | .compact p tag none :: _ => beginJobs sense fuel (beginCompact p tag sense s)
    | _ => s

/-- Queue a flash operation; it begins at once when the flash is free (R525). -/
def queueJob (j : FlashJob) (sense : Nat) (s : State) : State :=
  let s := { s with nvm := { s.nvm with jobs := s.nvm.jobs ++ [j] } }
  beginJobs sense s.nvm.jobs.length s

/-- Carry out a step of a compaction. -/
def doPrim : FlashPrim → State → State
  | .erase a, s => eraseSector a s
  | .write a b, s => programFlash a b s

/-- A step that the flash reports as failed leaves free bytes. -/
def spoilPrim : FlashPrim → State → State
  | .erase a, s => spoilFlash a 4096 s
  | .write a b, s => spoilFlash a b.length s

/-- A flash operation of NVM_STORE that ended with ERROR: the spec names no status for it, so the status is free. -/
def failJob (p : Port) (tag : BitVec 10) (s : State) : State :=
  let (n, s) := s.draw
  answer p tag (n % 12) [] (dropJob s)

/-- The page buffer of TST as bytes, and its filling (R527). -/
def bufBytes (s : State) : List Byte := (List.range 64).flatMap fun i => leBytes 4 (s.fld (F.TST_FLASH_BUF_BYTES i))
def setBuf (b : List Byte) (s : State) : State :=
  (List.range 64).foldl (fun s i => s.setFld (F.TST_FLASH_BUF_BYTES i) (leNat ((b.drop (4 * i)).take 4))) s

/-- 256 free bytes. -/
def freeBytes : Nat → State → List Byte × State
  | 0, s => ([], s)
  | n + 1, s => let (v, s) := s.draw; let (l, s) := freeBytes n s; (BitVec.ofNat 8 v :: l, s)

/-- RESULT codes of TST_FLASH_CMD (R527). -/
def tstResult (n : Nat) (s : State) : State :=
  (s.setFld F.TST_FLASH_CMD_RESULT n).setFld F.TST_FLASH_CMD_BUSY 0

/-- The running flash operation ends with OK. -/
def jobOk (sense : Nat) (s : State) : State :=
  match s.nvm.jobs with
  | .tst 1 a :: _ => tstResult 0 (setBuf (flashBytes s.nvm.flash a 256) (dropJob s))
  | .tst 2 a :: _ => tstResult 0 (programFlash a (bufBytes s) (dropJob s))
  | .tst _ a :: _ => tstResult 0 (eraseSector a (dropJob s))
  | .store p tag _ (some (a, b, seq)) :: _ => answer p tag stOk [BitVec.ofNat 36 seq] (programFlash a b (dropJob s))
  | .compact p tag (some (seq, f :: r)) :: _ =>
    let s := doPrim f s
    match r with
    | [] => answer p tag stOk [BitVec.ofNat 36 seq] (dropJob s)
    | g :: _ =>
      let (ok, s) := holdupCheck g.bytes sense s
      if ok then setJob (.compact p tag (some (seq, r))) s else holdupLow p tag s
  | _ => s

/-- The running flash operation ends with ERROR (R527). -/
def jobError (s : State) : State :=
  match s.nvm.jobs with
  | [] => s
  | .tst 1 _ :: _ =>
    let (b, s) := freeBytes 256 (dropJob s)
    tstResult 2 (raise F.TST_EVT_FLASH_ERR (setBuf b s))
  | .tst 2 a :: _ => tstResult 2 (raise F.TST_EVT_FLASH_ERR (spoilFlash a 256 (dropJob s)))
  | .tst _ a :: _ => tstResult 2 (raise F.TST_EVT_FLASH_ERR (spoilFlash a 4096 (dropJob s)))
  | .store p tag _ (some (a, b, _)) :: _ => raise F.TST_EVT_FLASH_ERR (failJob p tag (spoilFlash a b.length s))
  | .compact p tag (some (_, f :: _)) :: _ => raise F.TST_EVT_FLASH_ERR (failJob p tag (spoilPrim f s))
  | _ => s

/-- The flash operation that runs stops where it is: a record before its check word, a page or a sector with free bytes. -/
def tearFlash (s : State) : State :=
  match s.nvm.jobs with
  | .tst 2 a :: _ => spoilFlash a 256 s
  | .tst 3 a :: _ => spoilFlash a 4096 s
  | .store _ _ _ (some (a, b, _)) :: _ | .compact _ _ (some (_, .write a b :: _)) :: _ =>
    let (n, s) := s.draw
    programFlash a (b.take (n % (b.length - 8))) s
  | .compact _ _ (some (_, .erase a :: _)) :: _ => spoilFlash a 4096 s
  | _ => s

/-- Does an NVM_STORE run (R445)? -/
def storing (s : State) : Bool :=
  match s.nvm.jobs with
  | .store _ _ _ (some _) :: _ | .compact _ _ (some (_, _ :: _)) :: _ => true
  | _ => false

/-- PWR_FAIL_N takes the flash (R445, R525): a TST operation that runs or waits ends ABANDONED; a store that runs stops before its check word. -/
def abandonFlash (s : State) : State :=
  let tst (j : FlashJob) : Bool := match j with
    | .tst _ _ => true
    | .store _ _ _ _ | .load _ _ _ | .compact _ _ _ => false
  let s := if s.nvm.jobs.any tst then tstResult 3 s else s
  let t := raiseIf (storing s) F.CAL_EVT_ABANDON (tearFlash s)
  { t with nvm := { t.nvm with jobs := [] } }

/-! The device reset. -/

/-- Causes of a reset (R485). -/
def rstPower : Nat := 0x1
def rstPin : Nat := 0x2
def rstSoft : Nat := 0x3
def rstWdog : Nat := 0x4
def rstPwrFail : Nat := 0x5

/-- PWR_RST_CAUSE after a reset (R485, R488). -/
def rstCauseWord (cause : Nat) (s : State) : Word :=
  if cause = rstPower then resetWord A.PWR_RST_CAUSE
  else
    let w := setBits (s.getReg A.PWR_RST_CAUSE) 35 32 cause
    let w := setBits w 31 15 (min s.jnl.length 65536)
    setBits w 14 14 (if cause = rstWdog ∧ s.core = .boot then 1 else 0)

/-- Reset the device (R485, R487, R488): the flash, the retained register and the input pins keep what they hold. The model's own
fields go on. A flash operation that a reset finds running is torn (log 84). -/
def deviceReset (cause : Nat) (s : State) : State :=
  let s := tearFlash s
  let base := State.reset
  { base with pending := s.pending, out := s.out, fresh := s.fresh, epoch := s.epoch,
              regs := amPut resetWord base.regs A.PWR_RST_CAUSE (rstCauseWord cause s), tap := s.tap,
              boundary := s.boundary,
              nvm := { base.nvm with flash := s.nvm.flash },
              pins := { base.pins with resetN := s.pins.resetN || cause == rstPin, interlock := s.pins.interlock,
                                       recovery := s.pins.recovery, sideB := s.pins.sideB, peerOwn := s.pins.peerOwn } }

/-- Begin a reset that dumps the journal first (R485, R486): without an erased half none is made and the reset follows at once. -/
def resetAfterDump (f : DumpFor) (cause : Nat) (s : State) : State :=
  if s.nvm.jnlErased then { s with pwr := { s.pwr with dump := some f } } else deviceReset cause s

end Sys2Proof.Machine
end

