-- ==== Sys2Proof/Machine/Calib.lean ====
section
/-!
DEFINITION. The meanings of the calibration and camera commands: CAL_CAPTURE, CAL_APPLY, NVM_STORE, NVM_LOAD (R434 to R444),
captures (R422, R426 to R432, R437, R438), camera frames (R419 to R425) and the flash operations' end (R525, R527).
-/
namespace Sys2Proof.Machine

/-- The KIND of a calibration command (R434). -/
def Req.calKind (r : Req) : Nat := r.fld 1 7 0

/-- Does a command of a kind run in the present CORE_STATE (R436)? -/
def calRuns (op kind : Nat) (c : CoreState) : Bool :=
  if op = 0x40 then
    if kind = 0x11 then c == .idle
    else if kind = 0x14 then c == .idle || c == .job || c == .armed
    else c == .idle || c == .job
  else if op = 0x41 then c == .idle || c == .job || c == .armed || c == .exposing || c == .safe
  else c == .idle || c == .job || c == .recovery

/-- Is a KIND one of the command's (R434), with F in its range (R435)? -/
def calParam (op kind f : Nat) : Bool :=
  if op = 0x40 then
    if kind = 0x01 ∨ kind = 0x02 ∨ kind = 0x03 then decide (1 ≤ f ∧ f ≤ 64) else decide ((kind = 0x11 ∨ kind = 0x14) ∧ f = 0)
  else if op = 0x41 then decide (kind = 0x01 ∨ kind = 0x02 ∨ kind = 0x03)
  else decide (kind = 0x03 ∨ (0x10 ≤ kind ∧ kind ≤ 0x15) ∨ (op = 0x42 ∧ kind = 0xFE))

/-- A capture of DARK, FLAT or BEAMS begins (R422, R428, R432, R496). CAM_TRIG rises at once but for BEAMS, and not while it is still high for an
earlier capture. -/
def startCapt (p : Port) (tag : BitVec 10) (kind f : Nat) (s : State) : State :=
  let s := wakeCore s
  let c : Capt := { port := p, tag := tag, kind := kind, want := f, tried := 0, good := 0, first := none, seq := 0, sums := [],
                    spots := [], raised := kind != 0x03 && !s.cal.trig, await := true, slice := 0, shots := 0, disc := false,
                    lastQ := none }
  { s with cal := { s.cal with capt := some c, trig := s.cal.trig || kind != 0x03 } }

/-- An OSC capture (R434, R437). -/
def captOsc (p : Port) (tag : BitVec 10) (s : State) : State :=
  if s.bit F.TB_PTP_STATUS_LOCKED then answer p tag stOk [] (s.setFld F.TB_VCXO_CENTRE (s.fld F.TB_VCXO_TUNE))
  else answer p tag stCheckFail [] s

/-- CAL_APPLY of a kind (R434, R435). -/
def applyCand (p : Port) (tag : BitVec 10) (kind : Nat) (s : State) : State :=
  let c := s.cal
  if kind = 0x01 then
    match c.candDark with
    | some d => answer p tag stOk [] { s with cal := { c with nextDark := some d, candDark := none } }
    | none => answer p tag stBadState [] s
  else if kind = 0x02 then
    match c.candFlat with
    | some d => answer p tag stOk [] { s with cal := { c with nextFlat := some d, candFlat := none } }
    | none => answer p tag stBadState [] s
  else
    match c.candBeams with
    | some b => answer p tag stOk [] { s with cal := { c with beams := b, candBeams := none } }
    | none => answer p tag stBadState [] s

/-- Run a calibration command; `sense` is the raw reading of HOLDUP_SENSE. -/
def runCal (p : Port) (tag : BitVec 10) (op kind f sense : Nat) (s : State) : State :=
  if op = 0x40 then
    if kind = 0x11 then { s with cal := { s.cal with rxoff := some (p, tag, 0) } }
    else if kind = 0x14 then captOsc p tag s
    else startCapt p tag kind f s
  else if op = 0x41 then applyCand p tag kind s
  else if op = 0x42 then queueJob (if kind = 0xFE then .compact p tag none else .store p tag kind none) sense s
  else queueJob (.load p tag kind) sense s

/-- Does a capture of whatever port hold, or wait for, what a capture of this kind takes, the camera or the receivers? Another one then finds
the resource taken (R380 BUSY; DEDUCED, log 82). -/
def captureHeld (kind : Nat) (s : State) : Bool :=
  let waits (cam : Bool) : Bool := s.cal.waiting.any fun x =>
    x.op == 0x40 && (if cam then decide (wbits (nth 0 x.w 0) 7 0 ≤ 0x03) else wbits (nth 0 x.w 0) 7 0 == 0x11)
  if kind ≤ 0x03 then s.cal.capt.isSome || waits true else if kind = 0x11 then s.cal.rxoff.isSome || waits false else false

/-- The body of a calibration command (R434 to R437): its parameters, then it runs or waits for a CORE_STATE in which it runs. -/
def bodyCalSense (sense : Nat) (r : Req) (s : State) : State :=
  let kind := r.calKind
  let f := r.fld 1 15 8
  if !calParam r.op kind f then refuse r stBadParam s
  else if r.op = 0x40 ∧ kind = 0x03 ∧ s.pins.interlock = true then refuse r stDenied s
  else if r.op = 0x40 ∧ captureHeld kind s = true then refuse r stBusy s
  else if calRuns r.op kind s.core then runCal r.port r.tag r.op kind f sense s
  else { s with cal := { s.cal with waiting := s.cal.waiting ++ [{ port := r.port, tag := r.tag, op := r.op, w := r.w }] } }

/-- The reading of HOLDUP_SENSE where no operand gives it: a free value, which only NVM_STORE takes. -/
def drawSense (op : Nat) (s : State) : Nat × State := if op = 0x42 then s.draw else (0, s)

/-- The body of a calibration command whose reading of HOLDUP_SENSE no operand gives. -/
def bodyCal (r : Req) (s : State) : State := let (n, s) := drawSense r.op s; bodyCalSense n r s

/-- Does a calibration command that waits run in this CORE_STATE (R436)? -/
def CalWait.runs (s : State) (x : CalWait) : Bool := calRuns x.op (wbits (nth 0 x.w 0) 7 0) s.core

/-- Start the calibration commands that wait and can run now, in the order they came (R436). -/
def startCalWaits (s : State) : State :=
  let l := s.cal.waiting.filter (CalWait.runs s)
  l.foldl (fun s x =>
    let (n, s) := drawSense x.op s
    runCal x.port x.tag x.op (wbits (nth 0 x.w 0) 7 0) (wbits (nth 0 x.w 0) 15 8) n s)
    { s with cal := { s.cal with waiting := s.cal.waiting.filter fun x => !x.runs s } }

/-- CAL_CAPTURE with KIND DARK (R426). -/
def execCalCaptureDark (p : Port) (h : Hdr) (w : List Word) (s : State) : Host.Outcome State Fault Refusal :=
  done s (takeReq bodyCal (mkReq p h 0x40 (withKind 0x01 w)) s)

/-- CAL_CAPTURE with KIND FLAT (R427). -/
def execCalCaptureFlat (p : Port) (h : Hdr) (w : List Word) (s : State) : Host.Outcome State Fault Refusal :=
  done s (takeReq bodyCal (mkReq p h 0x40 (withKind 0x02 w)) s)

/-- CAL_CAPTURE with KIND BEAMS (R428). -/
def execCalCaptureBeams (p : Port) (h : Hdr) (w : List Word) (s : State) : Host.Outcome State Fault Refusal :=
  done s (takeReq bodyCal (mkReq p h 0x40 (withKind 0x03 w)) s)

/-- CAL_CAPTURE with KIND RX_OFF (R438). -/
def execCalCaptureRxOff (p : Port) (h : Hdr) (w : List Word) (s : State) : Host.Outcome State Fault Refusal :=
  done s (takeReq bodyCal (mkReq p h 0x40 (withKind 0x11 w)) s)

/-- CAL_CAPTURE with KIND OSC (R434). -/
def execCalCaptureOsc (p : Port) (h : Hdr) (w : List Word) (s : State) : Host.Outcome State Fault Refusal :=
  done s (takeReq bodyCal (mkReq p h 0x40 (withKind 0x14 w)) s)

/-- CAL_APPLY (R435). -/
def execCalApply (p : Port) (h : Hdr) (w : List Word) (s : State) : Host.Outcome State Fault Refusal :=
  done s (takeReq bodyCal (mkReq p h 0x41 w) s)

/-- NVM_STORE of a kind (R443, R448), with the reading of HOLDUP_SENSE. -/
def execNvmStore (p : Port) (h : Hdr) (w : List Word) (sense : Nat) (s : State) : Host.Outcome State Fault Refusal :=
  done s (takeReq (bodyCalSense sense) (mkReq p h 0x42 w) s)

/-- NVM_STORE with KIND COMPACT (R444). -/
def execNvmStoreCompact (p : Port) (h : Hdr) (w : List Word) (sense : Nat) (s : State) : Host.Outcome State Fault Refusal :=
  done s (takeReq (bodyCalSense sense) (mkReq p h 0x42 (withKind 0xFE w)) s)

/-- NVM_LOAD (R442). -/
def execNvmLoad (p : Port) (h : Hdr) (w : List Word) (s : State) : Host.Outcome State Fault Refusal :=
  done s (takeReq bodyCal (mkReq p h 0x43 w) s)

/-- The end of the running flash operation (R525, R527), with the reading of HOLDUP_SENSE for the step that follows. -/
def execFlashOperationDone (r : FlashEnd) (sense : Nat) (s : State) : Host.Outcome State Fault Refusal :=
  let t := match r with
    | .ok => jobOk sense s
    | .error => jobError s
  done s (beginJobs sense t.nvm.jobs.length t)

/-- The internal short of one receiver ends (R438): its offset, a measured and so free value, is written to its trim entry; after
the last of the 11 receivers the command replies. -/
def execRxOffMeasurementDone (s : State) : Host.Outcome State Fault Refusal :=
  match s.cal.rxoff with
  | none => done s s
  | some (p, tag, i) =>
    let (n, t) := s.draw
    let t := t.setTrim 0x11 i (BitVec.ofNat 36 (n % 2 ^ 9 * 2 ^ 27))
    done s (if i < 10 then { t with cal := { t.cal with rxoff := some (p, tag, i + 1) } }
      else answer p tag stOk [] { t with cal := { t.cal with rxoff := none } })

/-! Camera frames. -/

/-- The CAM registers with SH fields (R423, R449). -/
def camShadow : List Nat :=
  [A.CAM_CTL, A.CAM_GEOM, A.CAM_TRIG, A.CAM_GRID_ORG, A.CAM_GRID_COL, A.CAM_GRID_ROW, A.CAM_SPOT, A.CAM_BEAM, A.CAM_IREF]

/-- Take the committed settings at a frame start (R423) and the frames applied (R434). -/
def takeSettings (s : State) : State :=
  let s := if s.cal.commits = 0 then s
    else
      let s := camShadow.foldl (fun s a => s.activate a) s
      { s with cal := { s.cal with seq := (s.cal.seq + s.cal.commits) % 2 ^ 32, commits := 0 } }
  { s with cal := { s.cal with dark := s.cal.nextDark.getD s.cal.dark, flat := s.cal.nextFlat.getD s.cal.flat,
                               nextDark := none, nextFlat := none } }

/-- Does an exposure run during which a DISCARD frame for ordinal 0xFFFF has arrived (R420)? -/
def exposedDisc (s : State) : Bool :=
  match s.cal.capt with
  | some c => s.cal.trig && c.raised && c.disc
  | none => false

/-- A frame begins (R419): FRAME_NO, the settings, and whether it is the frame of the capture's attempt. -/
def execFrameStart (s : State) : Host.Outcome State Fault Refusal :=
  if s.cal.dropped || s.cal.frame.isSome then done s s
  else
    let t := takeSettings s
    let no := (t.cal.frameNo + 1) % 2 ^ 32
    let mine := match t.cal.capt with
      | some c => c.await && c.raised
      | none => false
    let capt := t.cal.capt.map fun c => if mine then
      { c with await := false, first := some (c.first.getD no), seq := if c.first.isSome then c.seq else t.cal.seq } else c
    done s { t with cal := { t.cal with frameNo := no, frame := some { no := no, seq := t.cal.seq, mine := mine, disc := exposedDisc t }, capt := capt } }

/-- Begin the next attempt of a capture (R422, R428). -/
def nextAttempt (s : State) : State :=
  match s.cal.capt with
  | some c =>
    let up := c.kind != 0x03
    { s with cal := { s.cal with trig := up, capt := some { c with await := true, raised := up, shots := 0, disc := false } } }
  | none => s

/-- A capture fails (R432). -/
def captFail (s : State) : State := raise F.CAL_EVT_CAP_FAIL (stopCapt stCheckFail s)

/-- A capture has its good frames (R426, R427, R431). Where I_ref is 0 it fails, and its count of dead beams is free (log 20). -/
def captDone (c : Capt) (s : State) : State :=
  let words (meas dead iref : Nat) : List Word := captReplyWords (c.first.getD 0) c.seq meas c.tried c.good dead iref
  if c.kind = 0x01 then replyCapt stOk (words 0 0 0) { s with cal := { s.cal with candDark := some (darkOf s c) } }
  else if c.kind = 0x02 then
    let (f, m) := flatOf s c
    replyCapt stOk (words 0 0 m) { s with cal := { s.cal with candFlat := some f } }
  else
    let ms := (measuredBeams s).map fun b => (b, amGet (fun _ => Spot.zero) c.spots (beamIndex b.1 b.2))
    let ref := refIntensity s (ms.map fun x => x.2.i)
    if ref = 0 then
      let (d, s) := s.draw
      raise F.CAL_EVT_CAP_FAIL (replyCapt stCheckFail (words ms.length d 0) s)
    else
      let js := ms.map fun x => (beamIndex x.1.1 x.1.2, judgeBeam s ref x.1.1 x.1.2 x.2)
      let base := s.cal.candBeams.getD s.cal.beams
      let b : Beams := { gain := js.foldl (fun m x => amPut gainDefault m x.1 x.2.1) base.gain,
                         dead := js.foldl (fun m x => amPut (fun _ => false) m x.1 x.2.2) base.dead }
      replyCapt stOk (words ms.length (js.countP fun x => x.2.2) ref) { s with cal := { s.cal with candBeams := some b } }

/-- An attempt of a capture has ended (R432): with a good frame or not, and whether its SEQ was that of the first frame. -/
def attemptEnd (good sameSeq : Bool) (s : State) : State :=
  match s.cal.capt with
  | none => s
  | some c =>
    let c := { c with tried := c.tried + 1, good := c.good + good.toNat }
    let s := { s with cal := { s.cal with capt := some c } }
    if !sameSeq then captFail s
    else if c.good = c.want then captDone c s
    else if c.tried = 4 * c.want then captFail s
    else if s.cal.trig then s else nextAttempt s

/-- Add a good frame to the sums of a capture (R426, R427, R430). -/
def addFrame (lines : List (List (BitVec 14))) (s : State) : State :=
  match s.cal.capt with
  | none => s
  | some c =>
    let c := if c.kind = 0x03 then
        { c with spots := (measuredBeams s).foldl (fun m b => let k := beamIndex b.1 b.2
            amPut (fun _ => Spot.zero) m k (addSpot s lines b.1 b.2 (amGet (fun _ => Spot.zero) m k))) c.spots }
      else
        let val (x y : Nat) : Nat := if c.kind = 0x01 then pixAt lines x y
          else pixAt lines x y - amGet (fun _ => 0) s.cal.dark (pixKey x y)
        { c with sums := (framePixels s).foldl (fun m p => let k := pixKey p.1 p.2
            amPut (fun _ => 0) m k (amGet (fun _ => 0) m k + val p.1 p.2)) c.sums }
    { s with cal := { s.cal with capt := some c } }

/-- The class of a frame (R420): 0 OK, 1 SHORT, 2 LONG, 4 DISC. -/
def frameClass (w h : Nat) (disc : Bool) (lines : List (List (BitVec 14))) : Nat :=
  if lines.any (fun l => decide (l.length < w)) || decide (lines.length < h) then 1
  else if lines.any (fun l => decide (w < l.length)) || decide (h < lines.length) then 2
  else if disc then 4
  else 0

/-- Store the statistics of a finished frame (R424, R449). -/
def setFstat (cls no seq max mean sat lines : Nat) (s : State) : State :=
  let s := s.setReg (A.CAM_FSTAT0) (BitVec.ofNat 36 (cls * 2 ^ 33 + no % 2 ^ 32))
  let s := s.setReg (A.CAM_FSTAT1) (BitVec.ofNat 36 (seq % 2 ^ 32))
  let s := s.setReg (A.CAM_FSTAT2) (BitVec.ofNat 36 (max % 2 ^ 14 * 2 ^ 22 + mean % 2 ^ 16 * 2 ^ 6))
  s.setReg (A.CAM_FSTAT3) (BitVec.ofNat 36 (satU 22 sat * 2 ^ 14 + satU 14 lines))

/-- The flag of a frame class that is not OK (R420). -/
def classFlag (cls : Nat) (s : State) : State :=
  if cls = 1 then raise F.CAM_EVT_SHORT s
  else if cls = 2 then raise F.CAM_EVT_LONG s
  else if cls = 3 then raise F.CAM_EVT_WDOG s
  else if cls = 4 then raise F.CAM_EVT_DISC s
  else s

/-- Lines of a run of sampling edges with FVAL at 1 (R419): `cur` is the line that runs, newest pixel first. -/
def linesFrom : List CamEdge → List (BitVec 14) → List (List (BitVec 14))
  | [], cur => if cur.isEmpty then [] else [cur.reverse]
  | e :: r, cur => if e.lval then linesFrom r (e.d :: cur) else if cur.isEmpty then linesFrom r [] else cur.reverse :: linesFrom r []

/-- The lines of a frame (R418, R419): what the sampling edges, rising or falling as CAM_CTL.PCLK_FALL says, show up to the first with FVAL at
0. -/
def camLines (edges : List CamEdge) (s : State) : List (List (BitVec 14)) :=
  linesFrom ((edges.filter fun e => e.falling == decide (s.act F.CAM_CTL_PCLK_FALL = 1)).takeWhile (·.fval)) []

/-- A frame ends (R418 to R420, R424, R425, R432). `edges` are the edges of CAM_PCLK from its start on. -/
def execFrameEnd (edges : List CamEdge) (s : State) : Host.Outcome State Fault Refusal :=
  match s.cal.frame with
  | none => done s { s with cal := { s.cal with dropped := false } }
  | some f =>
    let lines := camLines edges s
    let (w, h) := frameSize s
    let disc := match s.cal.capt with
      | some c => f.disc || (f.mine && c.disc)
      | none => f.disc
    let cls := frameClass w h disc lines
    let kept := (lines.take h).map (·.take w)
    let t := s.bumpBy F.CAM_DROP_LINES (lines.length - h)
    let t := t.bumpBy F.CAM_DROP_PIXELS ((lines.take h).map fun l => l.length - w).sum
    let px := ((List.range kept.length).zip kept).flatMap fun r => ((List.range r.2.length).zip r.2).map fun c => (c.1, r.1, c.2.toNat)
    let cps := px.map fun p => correct s.cal.dark s.cal.flat p.1 p.2.1 p.2.2
    let (free, t) := t.draw
    let mean := if px.isEmpty then free else cps.sum / px.length
    let t := setFstat cls f.no f.seq ((px.map (·.2.2)).foldl max 0) mean (px.countP fun p => p.2.2 == 16383) lines.length t
    let t := classFlag cls { t with cal := { t.cal with frame := none } }
    let good := f.mine && cls == 0
    let t := if good then addFrame kept t else t
    done s (if f.mine then
      let same := match t.cal.capt with
        | some c => c.seq == f.seq
        | none => true
      attemptEnd good same t else t)

/-- WDOG_MS without a pixel in an open frame (R421): it is discarded as WDOG. Its sums are unknown, so they are free values. -/
def execFrameWatchdog (s : State) : Host.Outcome State Fault Refusal :=
  match s.cal.frame with
  | none => done s s
  | some f =>
    let (a, t) := s.draw
    let (b, t) := t.draw
    let (c, t) := t.draw
    let (d, t) := t.draw
    let t := setFstat 3 f.no f.seq a b c d t
    let t := raise F.CAM_EVT_WDOG { t with cal := { t.cal with frame := none, dropped := true } }
    let same := match t.cal.capt with
      | some c => c.seq == f.seq
      | none => true
    done s (if f.mine then attemptEnd false same t else t)

/-- CAM_TRIG falls after EXP_US (R422, R428). -/
def execCamTrigFall (s : State) : Host.Outcome State Fault Refusal :=
  if !s.cal.trig then done s s
  else
    let t := { s with cal := { s.cal with trig := false } }
    let opened := match t.cal.frame with
      | some f => f.mine
      | none => false
    done s (match t.cal.capt with
      | some c => if !c.raised || (!c.await && !opened) then nextAttempt t else t
      | none => t)

/-- No frame has started within WDOG_MS after CAM_TRIG fell (R422): the attempt counts as a WDOG frame. -/
def execNoFrameTimeout (s : State) : Host.Outcome State Fault Refusal :=
  match s.cal.capt with
  | none => done s s
  | some c => done s (if c.await && !s.cal.trig && c.raised then attemptEnd false true (raise F.CAM_EVT_WDOG s) else s)

end Sys2Proof.Machine
end

