-- ==== Sys2Proof/Machine/Placement.lean ====
section
/-!
DEFINITION. Placement's shared operations: the choice of a cluster (R119 to R124), strikes (R126 to R128), proof pages and their writes
(R140, R144, R151, R164 to R169), aborts (R143), the places of window segments (R145, R178, R179), and recovery (R148, R174).
-/
namespace Sys2Proof.Machine

/-! Clusters. -/

/-- A cluster's bit in PLC_CL_OUT (R127). -/
def clOut (c : Nat) (s : State) : Bool :=
  (if c < 32 then s.fld F.PLC_CL_OUT_LO_OUT else s.fld F.PLC_CL_OUT_HI_OUT).testBit (c % 32)

/-- Is a cluster eligible for a dispatch (R110, R123)? -/
def clEligible (c : Nat) (s : State) : Bool :=
  s.fld (F.KNX_CL_CTL_OFFLINE c) == 0 && s.act (F.KNX_CL_CTL_OFFLINE c) == 0 && !clOut c s

/-- rate_c after reset (R122). -/
def rateDefault (_ : Nat) : Nat := 800

/-- rate_c (R122). -/
def rateOf (c : Nat) (s : State) : Nat := amGet rateDefault s.plc.rate c

/-- Is a tile in expansion on its kneader (R122)? -/
def Tile.inExpansion (t : Tile) : Bool := t.stage == .taken && t.ksum.isNone

/-- Is a tile dispatched and its expansion not finished (R122)? -/
def Tile.expanding (t : Tile) : Bool := t.stage == .queued || t.inExpansion

/-- backlog_c (R122). -/
def backlogOf (c : Nat) (s : State) : Nat := ((s.plc.tiles.filter fun t => t.cluster == c && t.expanding).map (·.est)).sum

/-- Is a tile in flight on its cluster for the OFFLINE boundary (R115 OFFLINE)? -/
def Tile.inFlight (t : Tile) : Bool := t.stage == .queued || t.stage == .taken

/-- The eligible cluster with the earliest predicted finish, the lowest on a tie (R123). -/
def chooseCluster (e : Nat) (but : Option Nat) (s : State) : Option Nat :=
  leastBy (fun a b => decide ((backlogOf a s + e) * rateOf b s < (backlogOf b s + e) * rateOf a s))
    ((List.range 64).filter fun c => clEligible c s && but != some c)

/-- NEXT_LOAF of a record: the tile belongs to the next loaf held (R47). -/
def nextLoafBit (ord : Nat) (s : State) : Nat :=
  match currentLoaf s with
  | some l => if l.ord = ord then 0 else 1
  | none => 0

/-- Charge a strike (R126 to R128). A STRIKE_LIMIT lowered to the strikes a cluster has, or below, takes it out at its next strike (DESIGN
CHOICE, log 85). -/
def strike (c : Nat) (s : State) : State :=
  let n := satU 4 (amGet (fun _ => 0) s.plc.strikes c + 1)
  let s := { s with plc := { s.plc with strikes := amPut (fun _ => 0) s.plc.strikes c n } }
  let lim := s.fld F.PLC_CTL_STRIKE_LIMIT
  let last := clEligible c s && !((List.range 64).any fun d => d != c && clEligible d s)
  if lim = 0 ∨ n < lim ∨ clOut c s = true ∨ last = true then s
  else
    let f := if c < 32 then F.PLC_CL_OUT_LO_OUT else F.PLC_CL_OUT_HI_OUT
    raise F.PLC_EVT_CL_OUT (s.setFld f (s.fld f ||| 2 ^ (c % 32)))

/-- What the writes of a tile's block carry. -/
def Tile.writes (t : Tile) : TxnUse := .block t.ord t.row t.col

/-- What a tile has written is discarded (R143): the writes not yet accepted are dropped, the others carry nothing any more. -/
def dropWrites (t : Tile) (s : State) : State :=
  let blank (x : Txn) : Txn := if x.use = t.writes then { x with use := .other } else x
  { s with mem := { s.mem with posts := s.mem.posts.filter fun x => x.use != t.writes,
                               pcs := s.mem.pcs.map fun c => (c.1, { c.2 with txns := c.2.txns.map blank }) } }

/-- Mark a tile bad (R107, R148): it frees what it holds. -/
def markBad (t : Tile) (s : State) : State :=
  updTile t (fun t => { t with stage := .bad, kneader := none, area := none, words := [], block := none, readable := false })
    (dropWrites t s)

/-! Proof pages. -/

/-- A pseudo-channel. -/
def State.pc (s : State) (p : Nat) : Pc := amGet (fun _ => Pc.reset) s.mem.pcs p

/-- Is a pseudo-channel live (R144)? -/
def pcLive (p : Nat) (s : State) : Bool := !(s.pc p).retired

/-- The live pseudo-channels. -/
def livePcs (s : State) : List Nat := (List.range 64).filter fun p => pcLive p s

/-- Pages that a pseudo-channel's share holds (R164): the spill regions of both halves, 2 MiB each, stand at its top (R178; DESIGN CHOICE,
log 73). -/
def sharePages (p : Nat) (s : State) : Nat := 256 * s.act F.PRF_CTL_RING_PC_MIB - 512 * (s.prf.spills.countP fun x => x.2.1 == p)

/-- RING_PAGES (R164, R178, R217): 0 when no job is open. A spill region takes 1 MiB of each half, 512 pages. -/
def ringPages (s : State) : Nat :=
  if s.job.isNone then 0
  else 256 * s.act F.PRF_CTL_RING_PC_MIB * ((livePcs s).filter fun p => !s.prf.outPcs.contains p).length - 512 * s.prf.spills.length

/-- Pages held by proof blocks. -/
def usedPages (s : State) : Nat := (s.plc.tiles.map fun t => match t.block with
  | some b => b.pages.length
  | none => 0).sum

/-- Free proof pages, the reserve among them. -/
def freePages (s : State) : Nat := ringPages s - usedPages s

/-- Pages a block occupies in all (R151). -/
def Block.need (b : Block) : Nat := ceilDiv (32 + b.data.length) 4096

/-- Has a tile neither completed nor been marked bad (R165)? -/
def Tile.incomplete (t : Tile) : Bool := t.stage != .completed && t.stage != .committed && t.stage != .bad

/-- May the tile take a page (R165)? -/
def mayTakePage (t : Tile) (s : State) : Bool :=
  let n := freePages s
  let oldest := match s.plc.tiles.find? (·.incomplete) with
    | some x => x.same t.ord t.row t.col
    | none => false
  decide (25 < n) || (oldest && decide (0 < n))

/-- Page numbers of a pseudo-channel's share that proof blocks hold. -/
def heldPages (p : Nat) (s : State) : List Nat :=
  s.plc.tiles.flatMap fun t => match t.block with
    | some b => (b.pages.filter fun x => x.1 == p).map (·.2)
    | none => []

/-- The lowest free page of a pseudo-channel's share (DESIGN CHOICE, log 73: the spec names the pseudo-channel of a page, not the page). -/
def freePage (p : Nat) (s : State) : Nat :=
  let l := heldPages p s
  countWhile l.contains l.length 0

/-- The pseudo-channel of the next page (R144); one whose share is full is passed over (DESIGN CHOICE, log 73). -/
def nextPc (s : State) : Nat :=
  let ok (p : Nat) : Bool := pcLive p s && !s.prf.outPcs.contains p && decide ((heldPages p s).length < sharePages p s)
  ((List.range 64).map fun i => (s.plc.lastPc + 1 + i) % 64).find? ok |>.getD 0

/-- Where a page stands on its pseudo-channel (R164). -/
def pageAddr (i : Nat) : Nat := 0x200000 + 4096 * i

/-- The writes of the last page of a block (R151, R153): its data, from byte 32 of the block on, and with the last page the container. -/
def pageWrites (t : Tile) (b : Block) : List TxnPost :=
  let w (x : Nat × Nat) (off bytes : Nat) : TxnPost :=
    { pc := x.1, port := 3, addr := pageAddr x.2 + off, bursts := ceilDiv bytes 32, write := true, again := false, use := t.writes }
  let k := b.pages.length - 1
  let off := if k = 0 then 32 else 0
  let m := min 4096 (32 + b.data.length - 4096 * k)
  (if off < m then [w (nth (0, 0) b.pages k) off (m - off)] else []) ++
    (if b.pages.length = b.need then [w (nth (0, 0) b.pages 0) 0 32] else [])

/-- The tile takes a page and posts its writes (R140, R165). -/
def takePage (t : Tile) (s : State) : State :=
  match t.block with
  | none => s
  | some b =>
    let p := nextPc s
    let b' := { b with pages := b.pages ++ [(p, freePage p s)] }
    post (pageWrites t b') (updTile t (fun t => { t with stage := .compressing, block := some b' })
      { s with plc := { s.plc with lastPc := p } })

/-- Are writes of a tile's block still to be accepted (R140 rank 5)? -/
def writesPosted (t : Tile) (s : State) : Bool := s.mem.posts.any fun x => x.use == t.writes

/-- Are writes of a tile's block still to be acknowledged (R131, R141)? -/
def writesOut (t : Tile) (s : State) : Bool :=
  writesPosted t s || s.mem.pcs.any fun c => c.2.txns.any fun x => x.use == t.writes

/-- A write of a tile's block has been accepted: with the container's the compressor is free, and it has read the dose words (R140,
R162). -/
def writeDone (t : Tile) (s : State) : State :=
  match t.block with
  | none => s
  | some b =>
    if t.stage = .compressing ∧ b.pages.length = b.need ∧ writesPosted t s = false then
      freeAreas (updTile t (fun t => { t with stage := .written, ownRead := true }) s)
    else s

/-- A tile's compression ends without a block: it keeps its kneader and its words, and waits for its compressor again (R143). -/
def dropBlock (t : Tile) (s : State) : State :=
  updTile t (fun t => { t with stage := .passed, block := none, ownRead := false }) (dropWrites t s)

/-- Abort a tile's wait or compression (R143): what it holds of rank 3 and above is released. -/
def abortTile (t : Tile) (f : Fld) (s : State) : State :=
  let s := match t.stage with
    | .queued => updTile t (fun t => { t with stage := .waiting }) s
    | .compressing | .stopped | .written => dropBlock t s
    | .waiting | .taken | .passed | .completed | .committed | .bad => s
  raise f s

/-- The last slice that reads any pixel row of a tile row (R176). -/
def lastReader (s : State) (row : Nat) : Nat := 256 * row + 255 + 8 * (beamRows (jobBeams s) - 1)

/-- Slices of the loaf below this number have been launched or journaled, 0 for a loaf that does not run. -/
def disposedOf (ord : Nat) (s : State) : Nat :=
  match s.lch.run with
  | some r => if r.ord = ord then r.disposed else 0
  | none => 0

/-- Slices of the loaf below this number have been read from the window, launched or journaled. -/
def readOf (ord : Nat) (s : State) : Nat :=
  match s.lch.run with
  | some r => if r.ord = ord then max s.slc.next r.disposed else 0
  | none => 0

/-- Free the proof blocks of tile rows that no later slice reads (R169). -/
def freeBlocks (s : State) : State :=
  { s with plc := { s.plc with tiles := s.plc.tiles.map fun t =>
      if t.stage == .committed && decide (lastReader s t.row < disposedOf t.ord s) then { t with block := none } else t } }

/-! Window segments. -/

/-- Slot k of a segment (R145). -/
def segSlot (y sub : Nat) : Nat := (y / 8 + 8 * sub) % 512

/-- Home pseudo-channel of a segment (R145). -/
def segHome (y sub : Nat) : Nat := segSlot y sub % 64

/-- The n-th live pseudo-channel counting upwards from home, `n` at least 1 (R145). -/
def spillTarget (home n : Nat) (s : State) : Nat :=
  nth 0 (((List.range 63).map fun i => (home + 1 + i) % 64).filter fun p => pcLive p s) (n - 1)

/-- The store key of a pseudo-channel address. -/
def hbmKey (pc addr : Nat) : Nat := pc * 2 ^ 30 + addr

/-- Where the spill region of a number begins on its pseudo-channel, for a half: 2 MiB below the top of the share for each (R178; DESIGN
CHOICE, log 73). -/
def spillAddr (i half : Nat) (s : State) : Nat :=
  0x200000 + 0x100000 * s.act F.PRF_CTL_RING_PC_MIB - 0x200000 * (i + 1) + half * 0x100000

/-- Where the half begins in which a segment lies (R145, R178): its pseudo-channel and the address there. -/
def segPlace (half y sub : Nat) (s : State) : Nat × Nat :=
  let home := segHome y sub
  if pcLive home s then (home, half * 0x100000)
  else
    let p := spillTarget home (segSlot y sub / 64 + 1) s
    match s.prf.spills.find? fun x => x.1 == home && x.2.1 == p with
    | some x => (p, spillAddr x.2.2 half s)
    | none => (p, half * 0x100000)

/-- The store key at which that half begins. -/
def segBase (half y sub : Nat) (s : State) : Nat := hbmKey (segPlace half y sub s).1 (segPlace half y sub s).2

/-- Slot index i of a segment on its pseudo-channel (R178). -/
def segIndex (y sub : Nat) : Nat := 72 * sub + 8 * (y % 4608 / 512) + y % 8

/-- An HBM byte outside proof blocks not written reads as 0 (DESIGN CHOICE, log 7). -/
def hbmDefault (_ : Nat) : Byte := 0

/-- The tag bytes of a segment (R179). -/
def segTag (ord y sub : Nat) : List Byte := leBytes 3 y ++ leBytes 1 sub ++ leBytes 2 ord

/-- The 1,536 bytes of a segment from its 1,024 doses (R177). -/
def segBytes (d : List Nat) : List Byte := bytesOfBits 1537 (d.flatMap (bitsLsb 12))

/-- The accesses to a segment and to its check word (R178, R188, R189). -/
def segAccess (port ord half y sub : Nat) (s : State) : List TxnPost :=
  let (p, a) := segPlace half y sub s
  let x (at0 bursts : Nat) (check : Bool) : TxnPost :=
    { pc := p, port := port, addr := a + at0, bursts := bursts, write := port == 1, again := false, use := .seg ord y sub check }
  [x (1536 * segIndex y sub) 48 false, x (0xD8000 + 4 * segIndex y sub / 32 * 32) 1 true]

/-- Write a segment and its check word (R178, R179). -/
def writeSeg (ord half y sub : Nat) (d : List Nat) (s : State) : State :=
  let b := segBytes d
  let base := segBase half y sub s
  let i := segIndex y sub
  let crc := (crc32c (b ++ segTag ord y sub)).toNat
  let m := amPutList hbmDefault s.hbm (base + 1536 * i) b
  { s with hbm := amPutList hbmDefault m (base + 0xD8000 + 4 * i) (leBytes 4 crc) }

/-- A segment as it is read: its 1,024 doses, and whether it passes its check (R179). -/
def readSeg (ord half y sub : Nat) (s : State) : List Nat × Bool :=
  let base := segBase half y sub s
  let i := segIndex y sub
  let b := amGetList hbmDefault s.hbm (base + 1536 * i) 1536
  let c := leNat (amGetList hbmDefault s.hbm (base + 0xD8000 + 4 * i) 4)
  let v := bitsOfBytes b
  ((List.range 1024).map fun n => natOfBits ((v.drop (12 * n)).take 12), decide ((crc32c (b ++ segTag ord y sub)).toNat = c))

/-! Recovery. -/

/-- The last slice that reads a segment (R180): the highest beam row of its sub-row class. -/
def lastSegReader (s : State) (y sub : Nat) : Nat := y + 8 * (beamRows (jobBeams s) - 8 + sub)

/-- Does the window hold the whole tile (R148): every segment of its row that is still to be read stands at its place and passes its
check? -/
def windowHolds (t : Tile) (s : State) : Bool :=
  match loafOf t.ord s with
  | some l => decide (t.row < l.winFront) && (List.range 256).all fun dy => (List.range 8).all fun sub =>
      let y := 256 * t.row + dy
      decide (lastSegReader s y sub < readOf t.ord s) || (readSeg t.ord l.half y sub s).2
  | none => false

/-- A tile begins its path again (R109, R148): bad where that would be its third expansion. -/
def redoTile (t : Tile) (s : State) : State :=
  if t.attempts < 2 then
    updTile t (fun t => { t with stage := .waiting, readable := false, block := none, words := [], kneader := none, area := none,
                                 ksum := none, asum := none, ownRead := false, firstTry := none }) (dropWrites t s)
  else markBad t s

/-- Recover a committed tile that became unreadable (R148, R174): its pages are freed. -/
def recoverTile (t : Tile) (s : State) : State :=
  if s.rows.any fun x => x.ord == t.ord && x.row == t.row then
    redoTile t (updTile t (fun t => { t with recovered := true, hist := none }) s)
  else if windowHolds t s then updTile t (fun t => { t with block := none, readable := true }) s
  else markBad t s

end Sys2Proof.Machine
end

