-- ==== Sys2Proof/Machine/Loader.lean ====
section
/-!
DEFINITION. The dough loader: LOAF_LOAD (R397), the loading of segments (R44 to R47, R79 to R82, R531), the opening of a loaf
(R47, R173, R175) and failed reads of host memory (R397).
-/
namespace Sys2Proof.Machine

/-- Take the shadow value of one field into its active value (R15). -/
def State.activateFld (s : State) (f : Fld) : State :=
  { s with active := amPut resetWord s.active f.addr (setBits (amGet resetWord s.active f.addr) f.hi f.lo (s.fld f)) }

/-- The extents of a LOAF_LOAD payload: address and length (R394). -/
def extents : List Word → List (Nat × Nat)
  | a :: b :: c :: r => (a.toNat + 2 ^ 36 * wbits b 27 0, wbits c 23 0) :: extents r
  | _ => []

/-- The body of LOAF_LOAD (R394, R397, R533): it waits in the loader's order. -/
def bodyLoafLoad (r : Req) (s : State) : State :=
  let ex := extents (r.w.drop 1)
  if closing s then refuse r stBadState s
  else if r.fld 1 7 0 = 0 ∨ (ex.any fun x => x.2 == 0) = true then refuse r stBadParam s
  else { s with loads := s.loads ++ [{ tag := r.tag, exts := ex, left := (ex.map (·.2)).sum, taken := 0, first := true,
                                       checkFail := false, fault := none, seg := none, drop := false }] }

/-- LOAF_LOAD (R397). -/
def execLoafLoad (p : Port) (h : Hdr) (w : List Word) (s : State) : Host.Outcome State Fault Refusal :=
  done s (takeReq bodyLoafLoad (mkReq p h 0x12 w) s)

/-- Record an error in DGH_ERR, unless a record is held (R84). -/
def recordDgh (e : DErr) (row word : Nat) (col : Option Nat) (s : State) : State :=
  if s.bit F.DGH_ERR_VALID then s
  else
    let s := (s.setFld F.DGH_ERR_VALID 1).setFld F.DGH_ERR_CODE e.code
    let s := (s.setFld F.DGH_ERR_ROW row).setFld F.DGH_ERR_COL (col.getD 0)
    (s.setFld F.DGH_ERR_COL_VALID col.isSome.toNat).setFld F.DGH_ERR_WORD_WORD word

/-- The loading loaf: the newest held (R47). -/
def loadingLoaf (s : State) : Option Loaf := s.loaves.getLast?

/-- DGH_STATUS.NEXT_ROW and DGH_ERR.ROW: the expected row, 65,536 when every row has been taken, and 0 while no loaf is held, where the
spec gives no row (R80, R84; DESIGN CHOICE, log 71). -/
def expectedRow (s : State) : Nat :=
  match loadingLoaf s with
  | some l => if l.nextRow < l.rows then l.nextRow else 65536
  | none => 0

/-- May a loaf open (R47)? -/
def canOpen (s : State) : Bool := decide (s.loaves.length < 2) && s.loaves.all fun l => decide (l.rows ≤ l.nextRow)

/-- LOAF_ORD and FRONT of a window half (R182). -/
def winOrd (half : Nat) : Fld := if half = 0 then F.PRF_WIN_0_LOAF_ORD else F.PRF_WIN_1_LOAF_ORD
def winFrontFld (half : Nat) : Fld := if half = 0 then F.PRF_WIN_0_FRONT else F.PRF_WIN_1_FRONT

/-- Open a loaf (R47, R173, R175, R182 LEVEL). -/
def openLoaf (h : LoafHdr) (s : State) : State :=
  let s := s.activateFld F.PRF_CTL_LEVEL
  let half := if s.loaves.any (·.half == 0) then 1 else 0
  let ord := match s.job with
    | some j => j.nextOrd
    | none => 0
  let l : Loaf := { ord := ord, id := h.id, dir := h.dir, rows := h.rows, ox := h.ox, oy := h.oy, factors := h.factors,
                    level := s.act F.PRF_CTL_LEVEL, half := half, nextRow := 0, costs := [], winFront := 0, discard := false, blocked := false }
  let s := (s.setFld (winOrd half) ord).setFld (winFrontFld half) 0
  { s with loaves := s.loaves ++ [l], job := s.job.map fun j => { j with nextOrd := (j.nextOrd + 1) % 0xFFFF } }

/-- A tile that waits for dispatch; its figure list stands at byte `at0` of the slot, `len` bytes long. -/
def newTile (ord row col est : Nat) (figs : List Fig) (at0 len : Nat) (bad : Bool) : Tile :=
  { ord := ord, row := row, col := col, est := est, figs := figs, at0 := at0, len := len, stage := if bad then .bad else .waiting, attempts := 0,
    firstTry := none, cluster := 0, kneader := none, area := none, words := [], ksum := none, asum := none, ownRead := false,
    tailRead := false, recovered := false, hist := none, block := none, readable := false }

/-- The estimate of a tile (R121). -/
def tileEst (cost wt wsum : Nat) : Nat := max 1 (cost * wt / wsum)

/-- Add a row's tiles in tile order: after those of its loaf, before those of a later one. Rows come in ascending order and the
loading loaf is the newest, so they stand at the end (R119). -/
def addTiles (l : List Tile) (s : State) : State := { s with plc := { s.plc with tiles := s.plc.tiles ++ l } }

/-- The loading loaf has taken a row, with the COST that it publishes (R80, R137). -/
def tookRow (l : Loaf) (cost : Option Nat) (s : State) : State :=
  updLoaf l.ord (fun l => { l with nextRow := l.nextRow + 1, costs := l.costs ++ [cost] }) s

/-- A row-scope error (R80): all 32 tiles of the expected row are bad. -/
def rowBad (l : Loaf) (e : DFail) (s : State) : State :=
  let s := recordDgh e.1 l.nextRow e.2 none s
  let s := addTiles ((List.range 32).map fun c => newTile l.ord l.nextRow c 1 [] 0 0 true) s
  settleTiles (raise F.DGH_EVT_ROW_BAD (tookRow l none s))

/-- A segment is dropped with ROW_ORDER (R80). -/
def segDrop (word : Nat) (s : State) : State := raise F.DGH_EVT_SEG_DROP (recordDgh .rowOrder (expectedRow s) word none s)

/-- Is a dough buffer slot free (R79)? Slot k lies on pseudo-channel k (R186), so none is on a retired one (R215). -/
def slotFree (i : Nat) (s : State) : Bool := !(s.rows.any (·.slot == i)) && pcLive i s

/-- The lowest free dough buffer slot (R79). -/
def freeSlot (s : State) : Option Nat := (List.range 64).find? fun i => slotFree i s

/-- The bad tiles of a row, in tile order (R80, R530). -/
def flagBadTiles (row : Nat) : Nat → List TileRec → State → State
  | _, [], s => s
  | c, t :: r, s =>
    match t.bad with
    | some (e, w) => flagBadTiles row (c + 1) r (raise F.DGH_EVT_TILE_BAD (recordDgh e row w (some c) s))
    | none => flagBadTiles row (c + 1) r s

/-- The first word of each tile's figure list, where the first TILE record stands at word `i` (R62). -/
def listStarts : Nat → List TileRec → List Nat
  | _, [] => []
  | i, t :: r => (i + 2) :: listStarts (i + 2 + t.words) r

/-- Where a dough buffer slot stands on its pseudo-channel (R79, R187): its last 16 MiB (DESIGN CHOICE, log 29). -/
def slotBase : Nat := 0x2F000000

/-- The access that writes a row's segment into its slot (R79, R188 port 5): its records up to SEG_END (R54). -/
def rowStore (ord slot : Nat) (x : RowRec) : TxnPost :=
  let words := 70 + (x.tiles.map fun t => t.words + 2).sum
  { pc := slot, port := 5, addr := slotBase, bursts := ceilDiv (9 * ceilDiv words 2) 32, write := true, again := false,
    use := .rowData ord x.row }

/-- A tile row is taken into a slot (R79, R121, R137). -/
def takeRow (l : Loaf) (slot : Nat) (x : RowRec) (s : State) : State :=
  let wsum := (x.tiles.map fun t => t.words + 1).sum
  let ts := ((x.tiles.zip (listStarts 68 x.tiles)).zip (List.range 32)).map fun ((t, i), c) =>
    newTile l.ord x.row c (tileEst x.cost (t.words + 1) wsum) t.figs (9 * i / 2) (ceilDiv (9 * (i + t.words)) 2 - 9 * i / 2) t.bad.isSome
  let s := { s with rows := s.rows ++ [{ slot := slot, ord := l.ord, row := x.row, nodes := x.nodes }] }
  settleTiles (flagBadTiles x.row 0 x.tiles (tookRow l (some x.cost) (addTiles ts (post [rowStore l.ord slot x] s))))

/-- What a segment does to its LOAF_LOAD. -/
inductive SegEnd
  /-- It waits for a slot, or for bytes not yet read. -/
  | held
  /-- It is taken; its error makes the command reply CHECK_FAIL. -/
  | taken (checkFail : Bool)
  /-- R47: nothing is taken and the command replies BUSY. -/
  | busy
  deriving DecidableEq, Repr

/-- Handle one segment (R47, R60, R80, R531): `first` says that it is the first of its command. -/
def doSegment (first : Bool) (st : Stream) (s : State) : SegEnd × State :=
  let bad := decide (st.fault = some .deflateBad)
  if st.isHeader then
    if !first then (.taken true, segDrop 0 s)
    else if !canOpen s then (.busy, s)
    else match checkHeader st with
      | .error e => (.taken true, raise F.DGH_EVT_HDR_BAD (recordDgh .hdr (expectedRow s) e.2 none s))
      | .ok h => (.taken false, openLoaf h s)
  else match loadingLoaf s with
    | none => (.taken bad, segDrop 0 s)
    | some l =>
      if l.rows ≤ l.nextRow then (.taken bad, segDrop 0 s)
      else match checkRow st l.nextRow with
        | .error (.rowOrder, w) => (.taken bad, segDrop w s)
        | .error e => (.taken bad, rowBad l e s)
        | .ok x => match freeSlot s with
          | none => (.held, s)
          | some i => (.taken false, takeRow l i x s)

/-- A LOAF_LOAD whose bytes are all taken replies (R397). -/
def loadEnd (s : State) : State :=
  match s.loads with
  | [] => s
  | ld :: r =>
    if 0 < ld.left then s
    else
      let st := ld.fault.getD (if ld.checkFail then stCheckFail else stOk)
      answer .host ld.tag st [BitVec.ofNat 36 ld.taken] { s with loads := r }

/-- The LOAF_LOAD at work has taken a segment of `used` bytes; its error makes the command reply CHECK_FAIL where `cf` says so. -/
def segTaken (used : Nat) (cf : Bool) (s : State) : State :=
  match s.loads with
  | [] => s
  | ld :: r =>
    let ld := { ld with left := ld.left - used, taken := ld.taken + used, first := false, checkFail := ld.checkFail || cf,
                        seg := none, drop := false }
    loadEnd { s.setFld F.DGH_BYTES_IN_BYTES (s.fld F.DGH_BYTES_IN_BYTES + used) with loads := ld :: r }

/-- The LOAF_LOAD at work has read bytes of a segment that it does not take yet. -/
def segRead (n : Nat) (waits : Bool) (s : State) : State :=
  match s.loads with
  | [] => s
  | ld :: r => { s with loads := { ld with seg := if n = 0 then none else some (n, waits) } :: r }

/-- LOAF_ABORT discards the segment in progress, with no dough error (R83): one that waits for a slot has been read whole, the rest of
another is passed over as it comes. -/
def dropSegment (s : State) : State :=
  match s.loads with
  | [] => s
  | ld :: r =>
    match ld.seg with
    | none => s
    | some (n, true) => segTaken n false s
    | some (_, false) => { s with loads := { ld with drop := true } :: r }

/-- Handle a whole segment, or pass over one that LOAF_ABORT has discarded (R83): a command whose header segment was discarded does not
reply OK (R397; DESIGN CHOICE, log 72). -/
def takeSegment (ld : Load) (st : Stream) (s : State) : SegEnd × State :=
  if ld.drop then (.taken ((ld.first && st.isHeader) || decide (st.fault = some .deflateBad)), s) else doSegment ld.first st s

/-- Load the next segment of the LOAF_LOAD at work from the bytes of host memory (R46, R79): the bytes it took, 0 where it is held. A
segment whose bytes are not all given is held unless the extents end within it (R80 TRUNC). One that fails to decompress, or that the
extents cut short, takes every byte left (R531); so does one that is over-size and undecodable, which fails with SEG_SIZE and makes no
CHECK_FAIL (DESIGN CHOICE, log 71). A BUSY reply counts the bytes of the header segment read (R397; DESIGN CHOICE, log 72). -/
def loadSegment (data : List Byte) (s : State) : Nat × State :=
  match s.loads with
  | [] => (0, s)
  | ld :: r =>
    let buf := data.take ld.left
    let x := inflate [] buf
    if x.err = some .short ∧ buf.length < ld.left then (0, segRead buf.length false s)
    else
      let used := if x.err.isSome then ld.left else ceilDiv x.used 8
      match takeSegment ld (streamOf x) s with
      | (.held, _) => (0, segRead used true s)
      | (.busy, t) => (0, answer .host ld.tag stBusy [BitVec.ofNat 36 used] { t with loads := r })
      | (.taken cf, t) => (used, segTaken used cf t)

/-- DOUGH_SEGMENT_LOAD (R79): `data` is host memory from the first byte not yet taken on (DESIGN CHOICE, log 11). -/
def execDoughSegmentLoad (data : List Byte) (s : State) : Host.Outcome State Fault Refusal := done s (loadSegment data s).2

/-- Load segments until one is held or the bytes end; with no byte left no segment is in progress. -/
def loadAll : Nat → List Byte → State → State
  | 0, _, s => s
  | fuel + 1, data, s =>
    if data.isEmpty then s
    else
      let (n, t) := loadSegment data s
      if n = 0 ∨ t.loads.length < s.loads.length then t else loadAll fuel (data.drop n) t

/-- A read of an extent failed or met a completion timeout (R397): the bytes read before it are taken, no later ones. -/
def execHostMemoryReadFault (data : List Byte) (timeout : Bool) (s : State) : Host.Outcome State Fault Refusal :=
  done s (match s.loads with
    | [] => s
    | ld :: r =>
      if ld.fault.isSome then s
      else
        let buf := data.take ld.left
        let ld := { ld with left := buf.length, fault := some (if timeout then stTimeout else stCheckFail) }
        loadEnd (loadAll (buf.length + 1) buf { s with loads := ld :: r }))

end Sys2Proof.Machine
end

