-- ==== Sys2Proof/Machine/Tiles.lean ====
section
/-!
DEFINITION. The meanings of the tile path: dispatch, expansion, the area check (R106 to R117, R120 to R131), compression and
proof pages (R140 to R144, R151 to R168), the window fillers (R171, R172, R176 to R180).
-/
namespace Sys2Proof.Machine

/-- Record a mismatch of a cluster (R113), unless a record is held. -/
def recordMis (c cause : Nat) (t : Tile) (k : Nat) (a : Int) (p : Nat) (s : State) : State :=
  if s.bit (F.KNX_CL_MIS_VALID c) then s
  else
    let s := (s.setFld (F.KNX_CL_MIS_VALID c) 1).setFld (F.KNX_CL_MIS_CAUSE c) cause
    let s := (s.setFld (F.KNX_CL_MIS_ROW c) t.row).setFld (F.KNX_CL_MIS_COL c) t.col
    let s := s.setFld (F.KNX_CL_MIS_NEXT_LOAF c) (nextLoafBit t.ord s)
    let s := s.setFld (F.KNX_CL_MIS_K_KSUM c) (satU 36 k)
    (s.setFld (F.KNX_CL_MIS_A_ASUM c) (twos 36 (satS 36 a))).setFld (F.KNX_CL_MIS_P_PART c) p

/-- Causes of R107. -/
def misRetry : Nat := 0
def misData : Nat := 1
def misUnit : Nat := 2
def misNoAlt : Nat := 3

/-- The tile is bad at the end of a check in cluster c (R107). -/
def misBad (c : Nat) (t : Tile) (s : State) : State := settleTiles (markBad t (raise (F.KNX_CL_EVT_BAD_TILE c) s))

/-- A re-expansion for which no cluster but the first is online: the tile is bad at once, with CAUSE = NO_ALT in the first cluster (R110,
R124). -/
def noAlt (t : Tile) (s : State) : State :=
  match t.firstTry with
  | some (c, k, a) => misBad c t (recordMis c misNoAlt t k a (partialCount t.figs) s)
  | none => s

/-- Dispatch a tile (R123): it waits in the queue of the cluster chosen. Where none is eligible it waits on, and a re-expansion ends
(R124). -/
def dispatch (t : Tile) (s : State) : State :=
  match chooseCluster t.est (t.firstTry.map (·.1)) s with
  | none => noAlt t s
  | some c => updTile t (fun t => { t with stage := .queued, cluster := c }) s

/-- The tile next to be dispatched (R120): a re-expansion first, else the first in tile order. -/
def nextDispatch (s : State) : Option Tile :=
  let l := s.plc.tiles.filter (·.stage == .waiting)
  match l.find? (·.firstTry.isSome) with
  | some t => some t
  | none => l.head?

/-- TILE_DISPATCH (R123). -/
def execTileDispatch (s : State) : Host.Outcome State Fault Refusal :=
  done s (match nextDispatch s with
    | some t => dispatch t s
    | none => s)

/-- Is kneader k free, with its collector slot empty and its area given back (R125, R130)? -/
def kneaderFree (k : Nat) (s : State) : Bool := !(s.plc.tiles.any fun t => t.kneader == some k || t.area == some k)

/-- The reads of a tile's figure list from its dough buffer slot, one by the kneader and one by the checker (R79, R99, R188 port 4). -/
def listReads (t : Tile) (s : State) : List TxnPost :=
  match s.rows.find? fun x => x.ord == t.ord && x.row == t.row with
  | none => []
  | some x =>
    let a := t.at0 / 32 * 32
    let r : TxnPost := { pc := x.slot, port := 4, addr := slotBase + a, bursts := ceilDiv (t.at0 + t.len - a) 32, write := false,
                         again := false, use := .dough t.ord t.row t.col }
    if t.len = 0 then [] else [r, r]

/-- Has the cluster a tile in expansion (R122)? -/
def expanding (c : Nat) (s : State) : Bool := s.plc.tiles.any fun t => t.cluster == c && t.inExpansion

/-- The count of KNX_CL_CROSS from which the next measurement of the rate runs (R122). -/
def markRate (c : Nat) (s : State) : State :=
  { s with plc := { s.plc with mark := amPut (fun _ => 0) s.plc.mark c (s.fld (F.KNX_CL_CROSS_CROSSINGS c)) } }

/-- KNEADER_TAKE (R125, R130): the oldest tile of the cluster's queue takes the lowest free kneader. A cluster that had no tile in expansion
begins its 64 us anew (R122). -/
def execKneaderTake (c : Fin 64) (s : State) : Host.Outcome State Fault Refusal :=
  done s (match s.plc.tiles.find? (fun t => t.stage == .queued && t.cluster == c.val),
                ((List.range 16).map fun i => 16 * c.val + i).find? (fun k => kneaderFree k s) with
    | some t, some k =>
      let s := if expanding c.val s then s else markRate c.val s
      post (listReads t s) (updTile t (fun t => { t with stage := .taken, attempts := t.attempts + 1, kneader := some k, area := some k,
                                                         words := [], ksum := none, asum := none }) s)
    | _, _ => s)

/-- A check has failed (R106 to R110). The collector slot of the first kneader is empty from the first mismatch on: its result is discarded
(DESIGN CHOICE, log 85). -/
def mismatch (t : Tile) (k : Nat) (a : Int) (p : Nat) (s : State) : State :=
  let c := t.cluster
  let flag (s : State) := raise (F.KNX_CL_EVT_MISMATCH c) s
  match t.firstTry with
  | some (c1, k1, a1) =>
    if k = k1 ∧ a = a1 then misBad c t (flag (recordMis c misData t k a p s))
    else strike c (strike c1 (misBad c t (flag (recordMis c misUnit t k a p s))))
  | none =>
    if 2 ≤ t.attempts then
      let (n, s) := s.draw
      misBad c t (flag (recordMis c (n % 4) t k a p s))
    else if (List.range 64).any fun d => d != c && clEligible d s then
      let t' := { t with stage := .waiting, firstTry := some (c, k, a), kneader := none, area := none, words := [], ksum := none,
                         asum := none }
      dispatch t' (updTile t (fun _ => t') (flag (recordMis c misRetry t k a p s)))
    else misBad c t (flag (recordMis c misNoAlt t k a p s))

/-- Judge a tile whose expansion and check have both finished (R103, R104, R126). `aborted` says that a LOAF_ABORT of its loaf takes effect
in the same epoch: a mismatch is recorded with CAUSE = RETRY and the result is discarded, the tile neither dispatched again nor marked bad
(R112). -/
def judge (aborted : Bool) (t : Tile) (s : State) : State :=
  match t.stage, t.ksum, t.asum with
  | .taken, some k, some (a, p) =>
    if aborted then
      let s := updTile t (fun t => { t with words := [] }) s
      if ((k : Int) - a).natAbs ≤ (p + 1) / 2 then s
      else raise (F.KNX_CL_EVT_MISMATCH t.cluster) (recordMis t.cluster misRetry t k a p s)
    else if ((k : Int) - a).natAbs ≤ (p + 1) / 2 then
      let s := updTile t (fun t => { t with stage := .passed, firstTry := none }) s
      match t.firstTry with
      | some (c1, _, _) => strike c1 s
      | none => s
    else mismatch t k a p s
  | _, _, _ => s

/-- Judge the tile as it now stands. -/
def judgeNow (aborted : Bool) (t : Tile) (s : State) : State :=
  match tileOf t.ord t.row t.col s with
  | some t => judge aborted t s
  | none => s

/-- The dose-class factors and dose-map nodes of a tile (R59, R65). -/
def tileTables (t : Tile) (s : State) : List Nat × List Nat :=
  ((match loafOf t.ord s with
    | some l => l.factors
    | none => []),
   (match s.rows.find? fun x => x.ord == t.ord && x.row == t.row with
    | some x => x.nodes
    | none => []))

/-- EXPANSION_DONE (R97, R101, R104, R112). -/
def execExpansionDone (k : Fin 1024) (r : UnitEnd) (s : State) : Host.Outcome State Fault Refusal :=
  done s (match s.plc.tiles.find? fun t => t.kneader == some k.val && t.stage == .taken && t.ksum.isNone with
    | none => s
    | some t =>
      let c := t.cluster
      let (fac, nodes) := tileTables t s
      let covers := tileCovers t.figs
      let d := tileDoses fac nodes t.col covers
      let sat := d.countP fun x => decide (4095 < x)
      let ks := ((kneaderSum covers : Int) + r.err).toNat
      let t' := updTile t (fun t => { t with words := doseWordsOf (d.map fun x => min x 4095), ksum := some ks }) s
      let t' := t'.setFld (F.KNX_CL_TILES_COUNT c) (t'.fld (F.KNX_CL_TILES_COUNT c) + 1)
      let t' := t'.setFld (F.KNX_CL_SAT_CNT_PIXELS c) (t'.fld (F.KNX_CL_SAT_CNT_PIXELS c) + sat)
      judgeNow r.aborted t (raiseIf (decide (0 < sat)) (F.KNX_CL_EVT_DOSE_SAT c) t'))

/-- AREA_CHECK_DONE (R100, R102, R103): the cluster's checker finishes its oldest tile. -/
def execAreaCheckDone (c : Fin 64) (r : UnitEnd) (s : State) : Host.Outcome State Fault Refusal :=
  done s (match s.plc.tiles.find? fun t => t.cluster == c.val && t.stage == .taken && t.asum.isNone with
    | none => s
    | some t =>
      let s1 := updTile t (fun t => { t with asum := some (checkerSum t.figs + r.err, partialCount t.figs) }) s
      let s1 := s1.setFld (F.KNX_CL_CROSS_CROSSINGS c.val) (s1.fld (F.KNX_CL_CROSS_CROSSINGS c.val) + crossings t.figs)
      judgeNow r.aborted t s1)

/-- CLUSTER_OFFLINE_BOUNDARY (R115 OFFLINE, R117). -/
def execClusterOfflineBoundary (c : Fin 64) (s : State) : Host.Outcome State Fault Refusal :=
  done s (if s.plc.tiles.any fun t => t.cluster == c.val && t.inFlight then s else s.activateFld (F.KNX_CL_CTL_OFFLINE c.val))

/-! Compression. -/

/-- Is the open job's mode stream (R160)? -/
def streamMode (s : State) : Bool := jobBeams s == 3

/-- The byte form of an expanded tile (R98). -/
def byteForm (ws : List Word) : List Byte := packWords ws

/-- The history a tile is compressed with (R161, R162, R174): none where it needs none, `some none` where it must still wait. -/
def histOf (t : Tile) (s : State) : Option (Option (List Byte)) :=
  if !streamMode s || t.col == 0 || t.recovered then none
  else match t.hist with
    | some h => some (some h)
    | none => match tileOf t.ord t.row (t.col - 1) s with
      | none => none
      | some p =>
        if p.stage == .bad then none
        else if p.words.isEmpty || p.stage == .taken then some none
        else some (some ((byteForm p.words).drop (99072 - 32768)))

/-- Can a tile acquire its compressor now (R104, R162)? -/
def canCompress (t : Tile) (s : State) : Bool := t.stage == .passed && histOf t s != some none

/-- Is the cluster's compressor free (R140)? It is once the container of the tile before is written. -/
def compressorFree (c : Nat) (s : State) : Bool :=
  !(s.plc.tiles.any fun t => t.cluster == c && (t.stage == .compressing || t.stage == .stopped))

/-- The level of a tile's loaf (R182). -/
def levelOfTile (t : Tile) (s : State) : Nat :=
  match loafOf t.ord s with
  | some l => l.level
  | none => 0

/-- The proof block of a tile (R151 to R161). -/
def blockOf (t : Tile) (hist : Option (List Byte)) (s : State) : Block :=
  let form := byteForm t.words
  let lv := levelOfTile t s
  let (data, map) := compressBytes lv (hist.getD []) form
  { ctr := { magic := 0xA7, level := lv, stream := streamMode s, hist := hist.isSome, col := t.col, origLen := 99072, row := t.row,
             ord := t.ord, storedMap := map, compLen := data.length, crc := crc32c form },
    data := data, pages := [], memBad := false }

/-- The compressor starts on a tile; its predecessor's tail has been read (R162). -/
def startCompress (t : Tile) (s : State) : State :=
  let h := match histOf t s with
    | some (some h) => some h
    | _ => none
  let b := blockOf t h s
  let s := updTile t (fun t => { t with stage := .compressing, hist := h, block := some b }) s
  if 0 < t.col then
    match tileOf t.ord t.row (t.col - 1) s with
    | some p => freeAreas (updTile p (fun p => { p with tailRead := true }) s)
    | none => s
  else s

/-- COMPRESSION_START (R104, R141, R162): the cluster's oldest tile that can; `inOrder` says that the requester holds nothing of a higher
rank. -/
def execCompressionStart (c : Fin 64) (inOrder : Bool) (s : State) : Host.Outcome State Fault Refusal :=
  done s (match s.plc.tiles.find? fun t => t.cluster == c.val && canCompress t s with
    | none => s
    | some t => if !inOrder then abortTile t F.PLC_EVT_ORDER_REFUSE s else if compressorFree c.val s then startCompress t s else s)

/-- Record an out-of-pages stop (R166), unless a record is held. Without a page the block has produced nothing. How far the matcher
has read, IN_BYTES, is told (log 14). -/
def recordStall (c inBytes : Nat) (t : Tile) (s : State) : State :=
  if s.bit F.PRF_STALL_VALID then s
  else
    let pages := match t.block with
      | some b => b.pages.length
      | none => 0
    let s := (s.setFld F.PRF_STALL_VALID 1).setFld F.PRF_STALL_CLUSTER c
    let s := (s.setFld F.PRF_STALL_ROW t.row).setFld F.PRF_STALL_COL t.col
    let s := s.setFld F.PRF_STALL_NEXT_LOAF (nextLoafBit t.ord s)
    (s.setFld F.PRF_STALL_POS_IN_BYTES inBytes).setFld F.PRF_STALL_POS_OUT_BYTES (4096 * pages - 32)

/-- PROOF_PAGE_REQUEST (R141, R144, R165, R166): out of order while writes of the compressor's block are to be acknowledged. -/
def execProofPageRequest (c : Fin 64) (inBytes : Fin 99073) (s : State) : Host.Outcome State Fault Refusal :=
  done s (match s.plc.tiles.find? fun t => t.cluster == c.val && t.stage == .compressing with
    | none => s
    | some t => match t.block with
      | none => s
      | some b =>
        if b.need ≤ b.pages.length then s
        else if writesOut t s then abortTile t F.PLC_EVT_ORDER_REFUSE s
        else if mayTakePage t s then takePage t s
        else recordStall c.val inBytes.val t (raise F.PRF_EVT_PAGES_STOP (updTile t (fun t => { t with stage := .stopped }) s)))

/-- COMPRESSOR_RESUME (R167). -/
def execCompressorResume (s : State) : Host.Outcome State Fault Refusal :=
  done s (match s.plc.tiles.find? (·.stage == .stopped) with
    | some t => if mayTakePage t s then takePage t s else s
    | none => s)

/-- Spans coded as stored blocks at LEVEL 1 or above are flagged (R182 STORED). -/
def flagStored (b : Block) (s : State) : State :=
  if b.ctr.level = 0 then s
  else raiseIf (b.ctr.storedMap.testBit 1) F.PRF_EVT_STORED (raiseIf (b.ctr.storedMap.testBit 0) F.PRF_EVT_STORED s)

/-- A kneader's tile completes (R131): block and container are written, and every write is acknowledged. -/
def completeTile (s : State) (k : Nat) : State :=
  match s.plc.tiles.find? fun t => t.kneader == some k && t.stage == .written with
  | none => s
  | some t => match t.block with
    | none => s
    | some b =>
      if writesOut t s then s
      else flagStored b (updTile t (fun t => { t with stage := .completed, words := if t.area.isSome then t.words else [] }) s)

/-- TILE_COMPLETE (R131): completions of one epoch, taken in ascending kneader number. -/
def execTileComplete (ks : List (Fin 1024)) (s : State) : Host.Outcome State Fault Refusal :=
  done s (settleTiles (((List.range 1024).filter fun k => ks.any (·.val == k)).foldl completeTile s))

/-- Is a tile in a timed wait (R142): for a kneader, its compressor or a write credit? No wait is timed while no page is free, for which
the reserve counts as not free (R166). -/
def timedWait (t : Tile) (s : State) : Bool :=
  decide (25 < freePages s) && (t.stage == .queued || t.stage == .passed || (t.stage == .compressing && writesPosted t s))

/-- WAIT_WATCHDOG_EXPIRE (R142, R143): the youngest waiter is aborted. -/
def execWaitWatchdogExpire (s : State) : Host.Outcome State Fault Refusal :=
  done s (match (s.plc.tiles.filter fun t => timedWait t s).getLast? with
    | some t => abortTile t F.PLC_EVT_WDOG s
    | none => s)

/-- RATE_MEASURE (R122): the cluster has had a tile in expansion for a full 64 us. -/
def execRateMeasure (c : Fin 64) (s : State) : Host.Outcome State Fault Refusal :=
  let x := s.fld (F.KNX_CL_CROSS_CROSSINGS c.val)
  let d := (x + 2 ^ 36 - amGet (fun _ => 0) s.plc.mark c.val) % 2 ^ 36
  done s (if !expanding c.val s then s
    else markRate c.val { s with plc := { s.plc with rate := amPut rateDefault s.plc.rate c.val (max 1 (d / 64)) } })

/-! Window fillers. -/

/-- Codes of R171. -/
inductive FillErr | magic | ident | length | deflate | outLen | crc | mem
  deriving DecidableEq, Repr

/-- The code of a filler failure (R171). -/
def FillErr.code : FillErr → Nat
  | .magic => 1 | .ident => 2 | .length => 3 | .deflate => 4 | .outLen => 5 | .crc => 6 | .mem => 7

/-- Unpack a block (R171): the checks in table order, and the byte form of a block that passes them all. -/
def unpackBlock (b : Block) (ord row col : Nat) (stream : Bool) (prev : List Byte) : Except FillErr (List Byte) :=
  let c := Container.ofWords b.ctr.words
  if c.magic ≠ 0xA7 then .error .magic
  else if c.ord ≠ ord ∨ c.row ≠ row ∨ c.col ≠ col ∨ c.stream ≠ stream ∨ (c.hist = true ∧ (col = 0 ∨ stream = false)) ∨ 9 < c.level then
    .error .ident
  else if c.origLen ≠ 99072 ∨ c.compLen = 0 ∨ 99082 < c.compLen then .error .length
  else
    let x := inflate (if c.hist then prev.drop (99072 - 32768) else []) (b.data.take c.compLen)
    if x.err.isSome then .error .deflate
    else if x.out.length ≠ 99072 then .error .outLen
    else if crc32c x.out ≠ c.crc then .error .crc
    else if b.memBad then .error .mem
    else .ok x.out

/-- Unpack a tile's block: its byte form, or its column and the code of the failure. A tile that is readable without a block (R148) fails
with MEM, as a block that cannot be read (DESIGN CHOICE, log 86). -/
def unpackTile (stream : Bool) (t : Tile) (col : Nat) (prev : List Byte) : Except (Nat × FillErr) (List Byte) :=
  t.block.elim (.error (col, .mem)) fun b => (unpackBlock b t.ord t.row col stream prev).mapError fun e => (col, e)

/-- Unpack the blocks of a row from column `col` on: the byte forms, or the column and code of the first failure. -/
def unpackRow (stream : Bool) : List Tile → Nat → List Byte → Except (Nat × FillErr) (List (List Byte))
  | [], _, _ => .ok []
  | t :: r, col, prev => (unpackTile stream t col prev).bind fun form => (unpackRow stream r (col + 1) form).map (form :: ·)

/-- The tiles of a row, in column order. -/
def rowTiles (ord row : Nat) (s : State) : List Tile := s.plc.tiles.filter fun t => t.ord == ord && t.row == row

/-- Is a filler still held by its row (R172): a block of the row is being recovered, and no tile of it is bad? -/
def FillHold.holds (h : FillHold) (s : State) : Bool :=
  let ts := rowTiles h.ord h.row s
  !ts.isEmpty && !(ts.any (·.stage == .bad))

/-- The filler of a tile row (R171, R172): the one that holds it, else the lowest-numbered free one. -/
def fillerFor (ord row : Nat) (rebuild : Bool) (s : State) : Option Nat :=
  let l := s.prf.holds.filter (·.holds s)
  match l.find? fun h => h.ord == ord && h.row == row && h.rebuild == rebuild with
  | some h => some h.filler
  | none => (List.range 16).find? fun i => !(l.any (·.filler == i))

/-- A filler lets go of its row, or keeps it (R172). -/
def setHold (f : Nat) (keep : Option FillHold) (s : State) : State :=
  { s with prf := { s.prf with holds := (s.prf.holds.filter fun h => h.holds s && h.filler != f) ++ keep.toList } }

/-- A block has failed a filler check (R172): the filler holds the row. -/
def blockBad (filler row col : Nat) (e : FillErr) (rebuild : Bool) (t : Tile) (s : State) : State :=
  let s := updTile t (fun t => { t with readable := false }) s
  let s := if s.bit F.PRF_ERR_VALID then s
    else
      let s := (s.setFld F.PRF_ERR_VALID 1).setFld F.PRF_ERR_CODE e.code
      let s := (s.setFld F.PRF_ERR_FILLER filler).setFld F.PRF_ERR_ROW row
      (s.setFld F.PRF_ERR_COL col).setFld F.PRF_ERR_REBUILD rebuild.toNat
  settleTiles (recoverTile t (setHold filler (some { filler := filler, ord := t.ord, row := row, rebuild := rebuild })
    (raise F.PRF_EVT_BLOCK_BAD s)))

/-- The reads of a row's proof blocks by a filler (R171, R188 port 2). -/
def blockReads (filler : Nat) (rebuild : Bool) (ts : List Tile) : List TxnPost :=
  ts.flatMap fun t => match t.block with
    | none => []
    | some b => (b.pages.zip (List.range b.pages.length)).map fun (x, k) =>
      { pc := x.1, port := 2, addr := pageAddr x.2, bursts := ceilDiv (min 4096 (32 + b.data.length - 4096 * k)) 32, write := false,
        again := false, use := .fill filler t.ord t.row t.col rebuild }

/-- The doses of sub-row `sub` of pixel row `y` from the dose words of a row's tiles (R177). -/
def subRow (forms : List (List Word)) (y sub : Nat) : List Nat :=
  (List.range 1024).map fun c =>
    let x := 8 * c + sub
    doseAt (nth [] forms (x / 256)) (x % 256) (y % 256)

/-- Write every segment of a tile row (R171, R177). -/
def writeRow (ord half row : Nat) (forms : List (List Word)) (s : State) : State :=
  (List.range 256).foldl (fun s dy => (List.range 8).foldl (fun s sub =>
    let y := 256 * row + dy
    writeSeg ord half y sub (subRow forms y sub) s) s) s

/-- Is there room in the window for tile row t of a loaf (R176)? -/
def windowRoom (l : Loaf) (t : Nat) (s : State) : Bool :=
  decide (t < 18) || decide (256 * t - 4353 + 8 * (beamRows (jobBeams s) - 1) < readOf l.ord s)

/-- What becomes of a waiting rebuild (R180). -/
inductive RebuildStep | drop | wait | serve
  deriving DecidableEq, Repr

/-- A waiting rebuild is dropped where its loaf is gone, no later slice reads the segment or a tile of its row is bad, and waits while a
block of its row is being recovered. -/
def rebuildStep (s : State) (x : Nat × Nat × Nat) : RebuildStep :=
  match loafOf x.1 s with
  | none => .drop
  | some _ =>
    let ts := rowTiles x.1 (x.2.1 / 256) s
    if lastSegReader s x.2.1 x.2.2 < readOf x.1 s ∨ (ts.any (·.stage == .bad)) = true then .drop
    else if ts.all (·.ready) then .serve else .wait

/-- Can a filler serve a rebuild now (R171: before any ordinary fill)? -/
def rebuildDue (s : State) : Bool :=
  s.prf.rebuilds.any fun x => rebuildStep s x == .serve && (fillerFor x.1 (x.2.1 / 256) true s).isSome

/-- A filler unpacks a row and writes its segments: the window front passes it (R171, R176, R181). -/
def fillRow (filler : Nat) (l : Loaf) (s : State) : State :=
  let t := l.winFront
  let ts := rowTiles l.ord t s
  let s := post (blockReads filler false ts) s
  match unpackRow (streamMode s) ts 0 [] with
  | .error (c, e) => (match ts[c]? with
      | some x => blockBad filler t c e false x s
      | none => s)
  | .ok forms =>
    let s := writeRow l.ord l.half t (forms.map wordsOf) s
    let segs := (List.range 256).flatMap fun dy => (List.range 8).flatMap fun sub => segAccess 1 l.ord l.half (256 * t + dy) sub s
    setHold filler none (updLoaf l.ord (fun l => { l with winFront := t + 1 }) (post segs (s.setFld (winFrontFld l.half) (t + 1))))

/-- WINDOW_FILL_ROW (R37, R171, R176): a filler unpacks the next row of the current or the next loaf. R171 decides which filler takes the row:
another one takes nothing (log 25). -/
def execWindowFillRow (filler : Fin 16) (next : Bool) (s : State) : Host.Outcome State Fault Refusal :=
  done s (match s.loaves[if next then 1 else 0]? with
    | none => s
    | some l =>
      if l.winFront < readyRow l s ∧ windowRoom l l.winFront s = true ∧ rebuildDue s = false ∧
          fillerFor l.ord l.winFront false s = some filler.val then fillRow filler.val l s
      else s)

/-- A filler rebuilds a segment (R180): it waits on while a block of its row is being recovered, and is dropped where one is bad. -/
def rebuildSeg (filler : Nat) (l : Loaf) (x : Nat × Nat × Nat) (s : State) : State :=
  let (ord, y, sub) := x
  let drop (s : State) : State := { s with prf := { s.prf with rebuilds := removeFirst (· == x) s.prf.rebuilds } }
  let ts := rowTiles ord (y / 256) s
  let s := post (blockReads filler true ts) s
  match unpackRow (streamMode s) ts 0 [] with
  | .error (c, e) => (match ts[c]? with
      | some t =>
        let s := blockBad filler (y / 256) c e true t s
        if rebuildStep s x = .drop then drop s else s
      | none => s)
  | .ok forms =>
    let s := writeSeg ord l.half y sub (subRow (forms.map wordsOf) y sub) (drop s)
    setHold filler none (post (segAccess 1 ord l.half y sub s) s)

/-- SEGMENT_REBUILD (R37, R171, R180): the first segment that does not wait for a block of its row. R171 decides which filler takes it, and
another one takes nothing (log 25). -/
def execSegmentRebuild (filler : Fin 16) (s : State) : Host.Outcome State Fault Refusal :=
  done s (match s.prf.rebuilds.find? fun x => rebuildStep s x != .wait with
    | none => s
    | some x =>
      match rebuildStep s x, loafOf x.1 s with
      | .serve, some l => if fillerFor x.1 (x.2.1 / 256) true s = some filler.val then rebuildSeg filler.val l x s else s
      | .serve, none => s
      | .drop, _ | .wait, _ => { s with prf := { s.prf with rebuilds := removeFirst (· == x) s.prf.rebuilds } })

end Sys2Proof.Machine
end

