-- ==== Sys2Proof/Machine/Jobs.lean ====
section
/-!
DEFINITION. Jobs and loaves: JOB_OPEN (R4, R19, R205, R356, R496), JOB_CLOSE (R533), LOAF_ARM (R330, R532), LOAF_START (R214, R236,
R241, R460), LOAF_STOP and LOAF_ABORT (R398).
-/
namespace Sys2Proof.Machine

/-- The SLC and TB registers whose SH fields take effect at LOAF_START (R262, R301). -/
def startShadow : List Nat :=
  [A.SLC_SPLIT_CTL, A.SLC_DWELL, A.SLC_COND, A.SLC_HEAT_CTL, A.TB_LAUNCH_CTL] ++ (List.range 256).map fun i => A.SLC_HEAT_DECAY i

/-- Retired pseudo-channels. -/
def retiredCount (s : State) : Nat := 64 - (livePcs s).length

/-- Does a capture of DARK, FLAT or BEAMS run (R437)? -/
def capturing (s : State) : Bool := s.cal.capt.isSome

/-! JOB_OPEN and JOB_CLOSE. -/

/-- Open the job (R4, R170, R173, R217). -/
def openJob (f : Flight) (s : State) : State :=
  let w := nth 0 f.w 0
  let s := s.activateFld F.PRF_CTL_RING_PC_MIB
  let s := { s with job := some { beams := wbits w 19 18, pitch := wbits w 17 0, id := nth 0 f.w 1, nextOrd := 0, closing := false },
                    core := .job, prf := { s.prf with outPcs := [], rebuilds := [] },
                    plc := { s.plc with tiles := [], front := 0 },
                    lch := { s.lch with carried := [], sentLoaves := [] } }
  judgeSoft (answer .host f.tag stOk [] s)

/-- A JOB_OPEN that waits for the core and the memory (R221, R496) proceeds once both are ready; where CORE_STATE is no longer IDLE it
is answered with BAD_STATE. -/
def tryOpenJob (s : State) : State :=
  match (flightsOp .host 0x10 s).find? fun f => !heldBack .host f.tag s with
  | none => s
  | some f =>
    if s.core ≠ .idle then answer .host f.tag stBadState [] s
    else if s.pwr.clOn = 64 ∧ s.pwr.enabling = false ∧ s.mem.sr = .awake then openJob f s
    else s

/-- The body of JOB_OPEN (R205, R356, R394, R437, R446, R526). -/
def bodyJobOpen (r : Req) (s : State) : State :=
  let beams := r.fld 1 19 18
  if beams = 0 ∨ r.fld 1 17 0 < 64 then refuse r stBadParam s
  else if s.nvm.jnlErased = false ∨ capturing s = true ∨ s.tst.bist = true then refuse r stBusy s
  else if 4 < retiredCount s then refuse r stRetired s
  else if (List.range (lanesOf beams / 8)).any fun g => !(s.grp g).up then refuse r stBadState s
  else tryOpenJob (wakeMemory (wakeCore s))

/-- JOB_OPEN (R4). -/
def execJobOpen (p : Port) (h : Hdr) (w : List Word) (s : State) : Host.Outcome State Fault Refusal :=
  done s (takeReq bodyJobOpen (mkReq p h 0x10 w) s)

/-- Discard the dough and the tiles of the loaf that runs: it is held until Y is at rest, and takes no further row (R398, R533). -/
def discardRunning (ord : Nat) (s : State) : State :=
  settleTiles (discardDough ord (updLoaf ord (fun l => { l with discard := true, blocked := false, nextRow := l.rows }) s))

/-- Discard every loaf but the one that runs, whose end is marked (R398, R533). -/
def discardAll (s : State) : State :=
  let run := s.lch.run.map (·.ord)
  s.loaves.foldl (fun s l => if run = some l.ord then discardRunning l.ord s else discardLoaf l.ord s) s

/-- Stop the move of a LOAF_ARM that is given up (R532). -/
def stopArm (s : State) : State :=
  if s.mot.arm.isSome then failArm stBadState false (stopMoves (fun a => (s.mot.moves.any fun m => m.kind == .arm &&
    m.axes.any fun x => x.1 == a)) s)
  else s

/-- The body of JOB_CLOSE (R533). -/
def bodyJobClose (_ : Req) (s : State) : State :=
  let s := stopArm (endLoads (some stBadState) (discardAll s))
  let s := if s.pair.armWait.isSome then answerAll .host 0x13 stBadState [] { s with pair := { s.pair with armWait := none } } else s
  jobCloseEnd { s with job := s.job.map fun j => { j with closing := true } }

/-- JOB_CLOSE (R533). -/
def execJobClose (p : Port) (h : Hdr) (w : List Word) (s : State) : Host.Outcome State Fault Refusal :=
  done s (takeReq bodyJobClose (mkReq p h 0x11 w) s)

/-! LOAF_ARM. -/

/-- S_n of a loaf in 1/64 nm (R326). -/
def slicePos (oy sigma pitch : Int) (n : Nat) : Int := oy + sigma * n * pitch

/-- σ of a loaf (R326). -/
def sigmaOf (l : Loaf) : Int := if l.dir then -1 else 1

/-- The run-up position Y_A (R330). -/
def runUp (l : Loaf) (s : State) : Int :=
  l.oy.toInt - sigmaOf l * (s.fld F.MOT_RUN_RUNUP_PX : Int) * (jobPitch s : Int)

/-- Does a Y position lie within the soft limits? -/
def softOk (a : Nat) (p : Int) (s : State) : Bool :=
  decide ((s.getReg (A.MOT_AX_SOFT_MIN a)).toInt ≤ p ∧ p ≤ (s.getReg (A.MOT_AX_SOFT_MAX a)).toInt)

/-- LNK_FB_MIN.MIN_NS (R368). -/
def fbMinNs (s : State) : Nat :=
  let chars := 2 + 64 * (193 + (s.act F.SLC_COND_LIST_MAX + 31) / 32) + 66
  ceilDiv (ceilDiv (160 * chars) (fbRate16 (s.act F.LNK_CTL_FB_RATE))) 10 * 10

/-- Does MOT_SCAN.V_MAX exceed the bound of the fallback coding (R330, R368)? -/
def fbTooFast (s : State) : Bool :=
  decide (s.act F.LNK_CTL_CODING = 1 ∧ jobPitch s * 1000000 < s.fld F.MOT_SCAN_V_MAX * (64 * (fbMinNs s + 1)))

/-- The body of LOAF_ARM (R330, R380, R436, R460): a standby moves no axis. -/
def bodyLoafArm (r : Req) (s : State) : State :=
  let starts := s.cal.waiting.any (CalWait.runs s)
  let s := startCalWaits s
  if starts || capturing s then refuse r stBusy s
  else match currentLoaf s with
  | none => refuse r stBadState s
  | some l =>
    if 4 < retiredCount s then refuse r stRetired s
    else if faulted 0 s || faulted 1 s || !(s.axis 0).homed || !(s.axis 1).homed then refuse r stBadState s
    else
      let y := runUp l s
      let sg := sigmaOf l
      let p : Int := jobPitch s
      let last := lastSliceOf (jobBeams s) l.rows
      if !softOk 1 y s || !softOk 1 l.oy.toInt s || !softOk 1 (slicePos l.oy.toInt sg p last) s || fbTooFast s then
        refuse r stBadParam s
      else
        let sc := { s.mot.scan with oy := l.oy.toInt, sigma := sg, pitch := p }
        let s := { s with mot := { s.mot with scan := sc } }
        if pairStandby s then { s with pair := { s.pair with armWait := some r.tag } }
        else
          let s := beginMove [(0, l.ox.toInt), (1, y)] .arm (setScan .approach s)
          { s with mot := { s.mot with arm := some { tag := r.tag, ends := none, silent := false } } }

/-- LOAF_ARM (R330). -/
def execLoafArm (p : Port) (h : Hdr) (w : List Word) (s : State) : Host.Outcome State Fault Refusal :=
  done s (takeReq bodyLoafArm (mkReq p h 0x13 w) s)

/-- The words of a MARK of KIND AXES (R465): where X, Z and Θ are held. -/
def axesWords (s : State) : List Word :=
  let p (a : Nat) : Word := BitVec.ofInt 36 (ratRound (planOf a s.nowRat s).p)
  [fnWord 0x3, 3, p 0, p 2, p 3]

/-- The owner tells its standby where the other axes are held (R465 MARK). -/
def sendAxes (s : State) : State := if pairOwner s then (sendPeer 0x60 (axesWords s) s).2 else s

/-- The armed state is reached (R330, R139, R465): CORE_STATE, SCAN and the front. -/
def armNow (s : State) : State := sendAxes (armFront (setScan .ready { s with core := .armed }))

/-! LOAF_START. -/

/-- A gain not listed is 2,048 (R447). -/
def gainOf (s : State) (r c : Nat) : Nat := amGet gainDefault s.slc.gains (beamIndex r c)

/-- Is a beam dead by the map or its gain (R232)? -/
def beamMapped (s : State) (r c : Nat) : Bool :=
  amGet (fun _ => false) s.slc.deadBeams (beamIndex r c) || decide (gainOf s r c < 1024)

/-- Is a beam live with a set of dead lanes (R232)? -/
def beamLive (s : State) (lanes r c : Nat) : Bool :=
  !beamMapped s r c && !lanes.testBit (laneOfBeam (jobLanes s) r c)

/-- The live pass indices of the pass group of a pixel column (R227). -/
def livePasses (s : State) (lanes x : Nat) : List Nat :=
  (List.range (beamRows (jobBeams s) / 8)).filter fun a => beamLive s lanes (8 * a + x % 8) (x / 8)

/-- The smallest nL of an epoch and the lowest pixel column with it (R241). -/
def leastLive (lanes : Nat) (s : State) : Option (Nat × Nat) :=
  leastBy (fun a b : Nat × Nat => decide (a.1 < b.1)) ((List.range 8192).map fun x => ((livePasses s lanes x).length, x))

/-- Set SLC_LIVE (R241). -/
def storeLive (m : Option (Nat × Nat)) (s : State) : State :=
  match m with
  | none => s
  | some (n, x) => (s.setFld F.SLC_LIVE_MIN_NL n).setFld F.SLC_LIVE_COLUMN x

/-- SLC_LIVE of an epoch (R241). -/
def setLive (lanes : Nat) (s : State) : State := storeLive (leastLive lanes s) s

/-- The active lanes of the job that are dead or have no physical lane now (R236, R355). -/
def deadLanesNow (s : State) : Nat :=
  ((List.range (jobLanes s)).filter fun l => (s.grp (l / 8)).dead.testBit (l % 8) || physOf l s == 0xF).foldl (fun m l => m + 2 ^ l) 0

/-- The first committed part of the scan (R331): Y rests where the move of LOAF_ARM has brought it, at the run-up position (R330). A standby,
which moves no axis, takes the position that it knows. -/
def restProf (s : State) : List Phase × Rat :=
  let k := s.ns / 10000
  let h := 1000 * (s.fld F.MOT_CTL_HORIZON_US : Rat)
  let y : Rat := match pairStandby s, currentLoaf s with
    | true, some l => runUp l s
    | _, _ => (s.axis 1).rest
  ([{ t0 := tickNs k, dur := h, p0 := y, v0 := 0, a0 := 0, j := 0 }], tickNs k + h)

/-- A loaf sends slices: it is one of the last two that did (R365). A standby counts the loaf it follows. -/
def noteSent (ord id : Nat) (s : State) : State :=
  if s.lch.sentLoaves.any (·.1 == ord) then s
  else
    let l := s.lch.sentLoaves.drop (s.lch.sentLoaves.length - 1) ++ [(ord, id)]
    { s with lch := { s.lch with sentLoaves := l, carried := s.lch.carried.filter fun c => l.any (·.1 == c.2.2.1) } }

/-- The reads of a slice's segments below the window front, one train and one check word each (R189, R230). The spec does not say when they
are asked for: here one build ahead, and reads that were not accepted by then are given up (DESIGN CHOICE, log 87). -/
def askSlice (l : Loaf) (n : Nat) (s : State) : State :=
  let rows := (List.range (beamRows (jobBeams s))).filter fun r => decide (8 * r ≤ n ∧ n - 8 * r < 256 * l.rows ∧ n - 8 * r < 256 * l.winFront)
  post (rows.flatMap fun r => segAccess 0 l.ord l.half (n - 8 * r) (r % 8) s)
    { s with mem := { s.mem with posts := s.mem.posts.filter fun p => p.port != 0 } }

/-- Exposure starts (R236, R242, R251, R292, R330): the splitter's tables, epoch 0, the launch logic and the scan. -/
def startExposure (tag : BitVec 10) (s : State) : State :=
  match currentLoaf s with
  | none => answer .host tag stBadState [] s
  | some l =>
    let s := startShadow.foldl (fun s a => s.activate a) s
    let dead := deadLanesNow s
    let slc := { s.slc with epochs := [{ first := 0, lanes := dead }], deferred := 0, dead := dead, gains := s.cal.beams.gain,
                            deadBeams := s.cal.beams.dead, idle := [], heat := [], lastT := none, next := 0,
                            top := 0, lowDue := [], late := [] }
    let r : Run := { ord := l.ord, id := l.id, last := lastSliceOf (jobBeams s) l.rows, disposed := 0, prevL := none,
                     reached := none, stop := none, ended := false, quiet := false }
    let lch := { s.lch with slices := [], crossings := [], run := some r, cancel := none, word := none, openEnts := [],
                            deadEnts := [], clkLoss := none, paused := none }
    let (prof, e) := restProf s
    let sc := { s.mot.scan with state := .run, prof := prof, e := e, stopping := false, stopFrom := none, vtgt := 0, bind := 6 }
    let s := { s with core := .exposing, slc := slc, lch := lch, mot := { s.mot with scan := sc } }
    let s := ((s.setFld F.TB_XERR_MAX 0).setFld F.TB_LAUNCH_STATUS_LAUNCHED 0).setFld F.SLC_STATUS_BUILT 0
    let s := setLive dead s
    let s := if dead = 0 ∨ pairStandby s = true then s else commitEnt (rangeRec kLaneDead 0 r 0 0 dead) s
    let s := if pairStandby s then noteSent l.ord l.id s else s
    judgeHard (answer .host tag stOk [] (askSlice l 0 s))

/-- Does the standby's BEAT show the owner's loaf armed (R460)? -/
def standbyShowsArmed (s : State) : Bool :=
  match s.pair.beat, currentLoaf s with
  | some b, some l => b.core == 3 && b.ord == l.ord
  | _, _ => false

/-- A LOAF_START proceeds past the wait for a retraining (R214): it waits for the partner, or starts (R460). -/
def startPast (tag : BitVec 10) (s : State) : State :=
  if pairStandby s || (pairOwner s && !standbyShowsArmed s) then { s with pair := { s.pair with startWait := some tag } }
  else startExposure tag s

/-- Does a retraining run (R214)? -/
def retraining (s : State) : Bool := (List.range 64).any fun p => (s.pc p).training

/-- The body of LOAF_START (R214, R330). -/
def bodyLoafStart (r : Req) (s : State) : State :=
  if retraining s then { s with mem := { s.mem with startHold := some r.tag } } else startPast r.tag s

/-- LOAF_START (R330). -/
def execLoafStart (p : Port) (h : Hdr) (w : List Word) (s : State) : Host.Outcome State Fault Refusal :=
  done s (takeReq bodyLoafStart (mkReq p h 0x14 w) s)

/-! LOAF_STOP and LOAF_ABORT. -/

/-- A loaf that stops on the standby alone ends without entries, and the pair is out of step (R457 SPLIT, R474). -/
def stopFor (cause : Nat) (s : State) : State := if pairStandby s then setPairSt 3 (quietEnd s) else stopLoaf cause false s

/-- The body of LOAF_STOP (R398). -/
def bodyLoafStop (r : Req) (s : State) : State :=
  match s.core with
  | .armed => r.reply stOk [] (failStart (disarm s))
  | .boot | .idle | .job | .exposing | .safe | .recovery =>
    let s := stopFor cStop s
    { s with mot := { s.mot with stopReplies := s.mot.stopReplies ++ [(stOk, r.tag)] } }

/-- LOAF_STOP (R398). -/
def execLoafStop (p : Port) (h : Hdr) (w : List Word) (s : State) : Host.Outcome State Fault Refusal :=
  done s (takeReq bodyLoafStop (mkReq p h 0x15 w) s)

/-- The loaf that runs is aborted: its dough and its tiles are discarded at once, and it ends when Y is at rest; the reply waits for that
in EXPOSING, and in SAFE goes out at once (R398). -/
def abortRunning (l : Loaf) (r : Req) (s : State) : State :=
  let t := discardRunning l.ord (stopFor cStop s)
  if s.core = .safe then r.reply stOk [] t
  else { t with mot := { t.mot with stopReplies := t.mot.stopReplies ++ [(stOk, r.tag)] } }

/-- Is the loaf the loading one (R47), to which the segment in progress belongs? -/
def isLoading (ord : Nat) (s : State) : Bool :=
  match loadingLoaf s with
  | some l => l.ord == ord
  | none => false

/-- The segment in progress is discarded where it is one of an aborted loaf (R83; DEDUCED, log 72). -/
def abortSegment (ord : Nat) (s : State) : State := if isLoading ord s then dropSegment s else s

/-- The body of LOAF_ABORT (R398). -/
def bodyLoafAbort (r : Req) (s : State) : State :=
  if r.fld 1 0 0 = 1 then
    match s.loaves.drop 1 with
    | [] => refuse r stBadState s
    | l :: _ => r.reply stOk [] (discardLoaf l.ord (abortSegment l.ord s))
  else match currentLoaf s with
  | none => refuse r stBadState s
  | some l =>
    let s := abortSegment l.ord s
    if s.lch.run.isSome then abortRunning l r s
    else match s.core with
    | .armed => r.reply stOk [] (discardLoaf l.ord (failStart (disarm s)))
    | .boot | .idle | .job | .exposing | .safe | .recovery =>
      let s := stopArm (discardLoaf l.ord s)
      let s := if s.pair.armWait.isSome then answerAll .host 0x13 stBadState [] { s with pair := { s.pair with armWait := none } }
        else s
      r.reply stOk [] s

/-- LOAF_ABORT (R398). -/
def execLoafAbort (p : Port) (h : Hdr) (w : List Word) (s : State) : Host.Outcome State Fault Refusal :=
  done s (takeReq bodyLoafAbort (mkReq p h 0x16 w) s)

end Sys2Proof.Machine
end

