-- ==== Sys2Proof/Machine/Mem.lean ====
section
/-!
DEFINITION. The HBM controller (R184 to R224): transactions and entries, arbitration, refresh, errors, training and retirement,
self-refresh, and MEM_RETRAIN.
-/
namespace Sys2Proof.Machine

/-- Change a pseudo-channel. -/
def updPc (p : Nat) (f : Pc → Pc) (s : State) : State :=
  { s with mem := { s.mem with pcs := amPut (fun _ => Pc.reset) s.mem.pcs p (f (s.pc p)) } }

/-- The most bursts a transaction of a port may have (R188). -/
def maxBursts (port : Nat) : Nat := if port = 0 then 48 else 8

/-- Does a range of bursts meet the training area (R186)? -/
def inTrainingArea (addr bursts : Nat) : Bool := decide (0xFC000 < addr + 32 * bursts ∧ addr < 0x100000)

/-- Is there a transaction of this form (R184, R188, R189)? No unit but training writes the training area (R186). -/
def txnOk (port addr bursts : Nat) (write : Bool) : Bool :=
  decide (addr % 32 = 0 ∧ 1 ≤ bursts ∧ bursts ≤ maxBursts port ∧ addr + 32 * bursts ≤ 768 * 2 ^ 20) &&
    (port == 6 || write == (port == 1 || port == 3 || port == 5)) && !(write && inTrainingArea addr bursts)

/-- May a transaction take an entry (R190)? -/
def entryFree (c : Pc) (port reserve : Nat) : Bool :=
  let free : Int := 64 - (c.txns.length : Int)
  let held : Int := (c.txns.countP (·.port == 0) : Nat)
  if port = 0 then decide (0 < free) else decide ((reserve : Int) - held < free ∧ 0 < free)

/-- The deadline of a transaction (R191). -/
def deadlineOf (port deadline : Nat) (s : State) : Nat :=
  if port = 0 then deadline else s.ns + s.fld (F.MEM_PORT_TGT_TARGET_NS port)

/-! What a transaction carries. -/

/-- A tile's row stands in the dough buffer slot on a pseudo-channel (R187). -/
def inSlot (pc : Nat) (t : Tile) (s : State) : Bool := s.rows.any fun x => x.slot == pc && x.ord == t.ord && x.row == t.row

/-- Has a tile a proof page on a pseudo-channel? -/
def Tile.onPc (t : Tile) (pc : Nat) : Bool :=
  match t.block with
  | some b => b.pages.any (·.1 == pc)
  | none => false

/-- The tile whose proof block has a page at an address. -/
def pageOwner (pc addr : Nat) (s : State) : Option Tile :=
  s.plc.tiles.find? fun t => match t.block with
    | some b => b.pages.any fun x => x.1 == pc && decide (pageAddr x.2 ≤ addr ∧ addr < pageAddr x.2 + 4096)
    | none => false

/-- What a transaction of no posted access carries, by its place (DESIGN CHOICE, log 87). -/
def useAt (pc port addr : Nat) (s : State) : TxnUse :=
  match port with
  | 2 | 3 => match pageOwner pc addr s with
    | some t => .block t.ord t.row t.col
    | none => .other
  | 4 => match s.plc.tiles.find? fun t => t.stage == .taken && inSlot pc t s &&
        decide (slotBase + t.at0 / 32 * 32 ≤ addr ∧ addr < slotBase + t.at0 + t.len) with
    | some t => .dough t.ord t.row t.col
    | none => .other
  | 5 => match s.rows.find? (·.slot == pc) with
    | some r => .rowData r.ord r.row
    | none => .other
  | 6 => match (List.range s.mem.tables.length).find? fun i => ((tableCopies i s).1 == pc || (tableCopies i s).2 == pc) &&
        decide (tableBase i ≤ addr ∧ addr < tableBase (i + 1)) with
    | some i => .table i
    | none => .other
  | _ => .other

/-- The window half in which an address of a pseudo-channel lies: the home of its segments, the half and the offset in it (R145, R178). -/
def halfAt (pc addr : Nat) (s : State) : Option (Nat × Nat × Nat) :=
  if addr < 0x200000 then (if pcLive pc s then some (pc, addr / 0x100000, addr % 0x100000) else none)
  else match s.prf.spills.find? fun x => x.2.1 == pc && decide (spillAddr x.2.2 0 s ≤ addr ∧ addr < spillAddr x.2.2 0 s + 0x200000) with
    | some x => some (x.1, (addr - spillAddr x.2.2 0 s) / 0x100000, (addr - spillAddr x.2.2 0 s) % 0x100000)
    | none => none

/-- The segment with a slot index (R178) that the window of a loaf holds last at a home: its pixel row and sub-row. -/
def segOfIndex (l : Loaf) (home i : Nat) : Option (Nat × Nat × Nat) :=
  let sub := i / 72
  let pos := 512 * (i % 72 / 8) + 8 * ((home + 512 - 8 * sub) % 64) + i % 8
  let top := 256 * l.winFront
  let y := pos + 4608 * ((top + 4607 - pos) / 4608 - 1)
  if i < 576 ∧ y < top then some (l.ord, y, sub) else none

/-- The segments whose data or check words stand in a range of bursts: loaf ordinal, pixel row and sub-row. -/
def segsAt (pc addr bursts : Nat) (s : State) : List (Nat × Nat × Nat) :=
  match halfAt pc addr s with
  | none => []
  | some (home, half, off) =>
    match s.loaves.find? (·.half == half) with
    | none => []
    | some l =>
      let is := if off < 0xD8000 then (List.range ((off + 32 * bursts - 1) / 1536 + 1 - off / 1536)).map (· + off / 1536)
        else (List.range (8 * bursts)).map (· + (off - 0xD8000) / 4)
      is.filterMap (segOfIndex l home)

/-- The segments that a transaction of port 0 or 1 concerns: its own, or those at its place. -/
def Txn.segs (pc : Nat) (x : Txn) (s : State) : List (Nat × Nat × Nat) :=
  match x.use with
  | .seg ord y sub _ => [(ord, y, sub)]
  | .other | .block _ _ _ | .fill _ _ _ _ _ | .dough _ _ _ | .rowData _ _ | .table _ => segsAt pc x.addr x.bursts s

/-- The tile that a transaction concerns. -/
def Txn.tile (x : Txn) (s : State) : Option Tile :=
  match x.use with
  | .block o r c | .fill _ o r c _ | .dough o r c => tileOf o r c s
  | .other | .seg _ _ _ _ | .rowData _ _ | .table _ => none

/-! Acceptance. -/

/-- Is a transaction the next of a posted access? -/
def TxnPost.gives (x : TxnPost) (pc port addr bursts : Nat) (write : Bool) : Bool :=
  x.pc == pc && x.port == port && x.addr == addr && decide (bursts ≤ x.bursts) && x.write == write

/-- What is left of a posted access after a transaction. -/
def TxnPost.rest (x : TxnPost) (n : Nat) : Option TxnPost :=
  if n < x.bursts then some { x with addr := x.addr + 32 * n, bursts := x.bursts - n } else none

/-- A posted access gives a transaction of `n` bursts. -/
def takePost (p : TxnPost → Bool) (n : Nat) : List TxnPost → List TxnPost
  | [] => []
  | x :: r => if p x then (x.rest n).toList ++ r else x :: takePost p n r

/-- A transaction takes an entry (R190). -/
def enterTxn (pc port addr bursts deadline : Nat) (write again : Bool) (use : TxnUse) (s : State) : State :=
  let x : Txn := { id := s.mem.nextTxn, port := port, addr := addr, bursts := bursts, left := bursts,
                   deadline := deadlineOf port deadline s, write := write, slot := 0, repeats := 0, again := again, use := use }
  updPc pc (fun c => { c with txns := c.txns ++ [x] }) { s with mem := { s.mem with nextTxn := s.mem.nextTxn + 1 } }

/-- A write of a proof block has been accepted (R140). -/
def noteWrite (use : TxnUse) (s : State) : State :=
  match use with
  | .block o r c => match tileOf o r c s with
    | some t => writeDone t s
    | none => s
  | .other | .seg _ _ _ _ | .fill _ _ _ _ _ | .dough _ _ _ | .rowData _ _ | .table _ => s

/-- A transaction is accepted, or held at its handshake (R190): the next one of a posted access, or traffic that no unit has posted in the
model. One that arrives in self-refresh starts the exit (R221). A retired pseudo-channel accepts none. -/
def acceptTxn (pc port addr bursts deadline : Nat) (write : Bool) (s : State) : State :=
  let s := wakeMemory s
  let gives (x : TxnPost) : Bool := x.gives pc port addr bursts write
  let c := s.pc pc
  let use := useAt pc port addr s
  match s.mem.posts.find? gives with
  | some x =>
    if c.retired || !entryFree c port (s.fld F.MEM_CTL_RT_RESERVE) then s
    else noteWrite x.use (enterTxn pc port addr bursts deadline write x.again x.use
      { s with mem := { s.mem with posts := takePost gives bursts s.mem.posts } })
  | none =>
    if c.retired then s
    else if entryFree c port (s.fld F.MEM_CTL_RT_RESERVE) then enterTxn pc port addr bursts deadline write false use s
    else post [{ pc := pc, port := port, addr := addr, bursts := bursts, write := write, again := false, use := use }] s

/-- TRANSACTION_ACCEPT (R186 to R191). -/
def execTransactionAccept (pc : Fin 64) (port : Fin 7) (addr : BitVec 30) (bursts deadline : Nat) (write : Bool) (s : State) :
    Host.Outcome State Fault Refusal :=
  if txnOk port.val addr.toNat bursts write then done s (acceptTxn pc.val port.val addr.toNat bursts deadline write s)
  else .fault .noSuchTransaction

/-! Arbitration. -/

/-- Urgency of a transaction (R192). -/
def urgency (s : State) (x : Txn) : Nat :=
  let sl : Int := (x.deadline : Int) - (s.ns : Int)
  let t : Int := s.fld (F.MEM_PORT_TGT_TARGET_NS x.port)
  if 3 * t < 4 * sl then 0 else if t < 2 * sl then 1 else if t < 4 * sl then 2 else 3

/-- The address of a transaction's next burst. -/
def Txn.next (x : Txn) : Nat := x.addr + 32 * (x.bursts - x.left)

/-- Bank and row of an address (R185): bank group, bank and stack ID as one number, and the row. -/
def bankOf (a : Nat) : Nat × Nat := (a / 2 ^ 10 % 16 + 16 * (a / 2 ^ 28), a / 2 ^ 14 % 2 ^ 14)

/-- Is `x` older than `y` within its port (R193): the earlier deadline for port 0, else the earlier acceptance? -/
def olderIn (port : Nat) (x y : Txn) : Bool :=
  if port = 0 then decide (x.deadline < y.deadline ∨ (x.deadline = y.deadline ∧ x.id < y.id)) else decide (x.id < y.id)

/-- The candidates of a decision, one for each port (R193): the remainder of the transaction that holds the bus, or the oldest. -/
def candidates1 (c : Pc) : List Txn :=
  let live := c.txns.filter fun x => decide (0 < x.left)
  (List.range 7).filterMap fun p =>
    let l := live.filter (·.port == p)
    match l.find? fun x => c.holder == some x.id with
    | some x => some x
    | none => leastBy (olderIn p) l

/-- A port's age (R196). -/
def ageOf (c : Pc) (port : Nat) : Nat := amGet (fun _ => 0) c.ages port

/-- A candidate's priority (R196). -/
def prioOf (s : State) (c : Pc) (x : Txn) : Nat := min 15 (4 * urgency s x + ageOf c x.port)

/-- A row's number on its pseudo-channel. -/
def rowKey (a : Nat) : Nat := (bankOf a).1 * 2 ^ 14 + (bankOf a).2

/-- Does a waiting transaction's first burst lie in the row that the slot leaves open, which has carried fewer than 32 bursts (R197 rule 2)?
The remainder of one that has begun has no first burst. -/
def rowHit (c : Pc) (x : Txn) : Bool :=
  match c.openRow with
  | some (key, n) => decide (n < 32) && x.left == x.bursts && rowKey x.addr == key
  | none => false

/-- The winner of a slot (R197), and whether rule 2 has chosen it. -/
def winner (s : State) (c : Pc) : Option (Txn × Bool) :=
  let cs := candidates1 c
  match cs.find? fun x => x.port == 0 && urgency s x == 3 with
  | some x => some (x, false)
  | none =>
    match leastBy (fun x y : Txn => decide (x.id < y.id)) (c.txns.filter fun x => decide (0 < x.left) && rowHit c x) with
    | some x => some (x, true)
    | none =>
      let better (x y : Txn) : Bool :=
        let p := prioOf s c x
        let q := prioOf s c y
        decide (q < p) || (p == q && (c.holder == some x.id || (c.holder != some y.id && decide (x.id < y.id))))
      (leastBy better cs).map (·, false)

/-- The decision for the next slot (R195, R196): the grant, the ages, and whether the row stays open for it (R198). -/
def decideSlot (s : State) (c : Pc) : Pc :=
  match winner s c with
  | none => { c with grant := none, hit := false }
  | some (w, hit) =>
    let ages := (candidates1 c).foldl (fun m x =>
      amPut (fun _ => 0) m x.port (if x.port = w.port then 0 else min 15 (amGet (fun _ => 0) m x.port + 1))) c.ages
    { c with grant := some w.id, hit := hit, ages := amPut (fun _ => 0) ages w.port 0 }

/-- Begin a slot with the granted transaction (R194, R197, R198), and decide the next one (R195). On a bus whose last decision found no
candidate the slot is decided as it begins (DESIGN CHOICE, log 74). -/
def beginSlot (pc : Nat) (s : State) : State :=
  let c := s.pc pc
  let c := if c.grant.isSome then c else decideSlot s { c with holder := none, openRow := none, hit := false }
  match c.txns.find? fun x => c.grant == some x.id with
  | none => updPc pc (fun _ => { c with holder := none, grant := none, openRow := none, hit := false }) s
  | some x =>
    let n := min 8 x.left
    let key := rowKey (x.next + 32 * (n - 1))
    let here := (List.range n).countP fun i => rowKey (x.next + 32 * i) == key
    let old := match c.openRow with
      | some (k, m) => if c.hit && k == key then m else 0
      | none => 0
    let x' := { x with left := x.left - n, slot := n, repeats := 0 }
    let c := { c with txns := updateFirst (·.id == x.id) (fun _ => x') c.txns, holder := some x.id, openRow := some (key, old + here) }
    let s := updPc pc (fun _ => decideSlot s c) s
    s.setFld (F.MEM_PC_BURSTS_BURSTS pc) (s.fld (F.MEM_PC_BURSTS_BURSTS pc) + n)

/-! Refresh. -/

/-- The transaction that holds the present slot. -/
def Pc.held (c : Pc) : Option Txn := c.txns.find? fun x => c.holder == some x.id

/-- Is the bus idle? -/
def Pc.idle (c : Pc) : Bool := c.holder.isNone && !(c.txns.any fun x => decide (0 < x.left))

/-- Is the pseudo-channel out of traffic: refresh goes on, with no bus to wait for (R213, R215)? -/
def Pc.aside (c : Pc) : Bool := c.training || c.retired

/-- May a refresh be issued at this break point (R202)? -/
def refreshNow (s : State) (c : Pc) : Bool :=
  let train := match c.held with
    | some x => x.port == 0 && decide (8 < x.bursts) && decide (0 < x.left)
    | none => false
  let urgent := c.txns.any fun x => x.port == 0 && decide (0 < x.left) && decide (2 ≤ urgency s x)
  decide (1 ≤ c.postponed) && (c.aside || c.postponed == 5 || (!train && !urgent) || !(c.txns.any fun x => decide (0 < x.left)))

/-- A break point (R202 to R204): a refresh is issued when it may be, and finds every row closed (R201); due refreshes that pass their first
break point are counted. -/
def breakPoint (pc : Nat) (s : State) : State :=
  let c := s.pc pc
  let go := refreshNow s c
  let left := if go then c.postponed - 1 else c.postponed
  let fresh := c.postponed - c.passed
  let late := if go ∧ c.passed = 0 then fresh - 1 else fresh
  let s := s.bumpBy (F.MEM_PC_REF_POSTPONE_CNT pc) late
  let s := if go ∧ c.postponed = 5 then raise (F.MEM_PC_EVT_REF_FORCED pc) (s.bump (F.MEM_PC_REF_FORCED_CNT pc)) else s
  updPc pc (fun c => { c with postponed := left, passed := left, refreshing := c.refreshing || go,
                              openRow := if go then none else c.openRow, hit := c.hit && !go }) s

/-- Is the pseudo-channel's bus in service? -/
def busRuns (pc : Nat) (s : State) : Bool :=
  decide (s.mem.sr = .awake) && !(s.pc pc).retired && !(s.pc pc).refreshing

/-- BUS_SLOT_START (R194 to R200): the break point before the slot, then the slot. -/
def execBusSlotStart (pc : Fin 64) (s : State) : Host.Outcome State Fault Refusal :=
  done s (if !busRuns pc.val s || (s.pc pc.val).training then s
    else
      let t := breakPoint pc.val s
      if (t.pc pc.val).refreshing then t else beginSlot pc.val t)

/-- The refresh interval of a pseudo-channel's stack in half ns (R201): half of it at 85 degrees or more. -/
def refInterval (pc : Nat) (s : State) : Nat :=
  if (s.fld F.MEM_STATUS_HOT).testBit (pc / 32) then s.fld F.MEM_REF_CTL_TREFI_NS else 2 * s.fld F.MEM_REF_CTL_TREFI_NS

/-- The instant of the next refresh, one interval after this one, or after now where that has passed. -/
def nextRef (pc : Nat) (s : State) : Nat :=
  let d := refInterval pc s
  let a := (s.pc pc).refAt + d
  if a ≤ 2 * s.ns then 2 * s.ns + d else a

/-- REFRESH_DUE (R201, R202, R213): where the interval has passed, the refresh is due, and on an idle bus it is issued at once. -/
def execRefreshDue (pc : Fin 64) (s : State) : Host.Outcome State Fault Refusal :=
  done s (if s.mem.sr ≠ .awake ∨ 2 * s.ns < (s.pc pc.val).refAt then s
    else
      let t := updPc pc.val (fun c => { c with postponed := min 5 (c.postponed + 1), refAt := nextRef pc.val s }) s
      if ((t.pc pc.val).idle || (t.pc pc.val).aside) && !(t.pc pc.val).refreshing then breakPoint pc.val t else t)

/-- REFRESH_DONE (R200, R201): the carried-over grant proceeds; on an idle bus the next due refresh is issued. -/
def execRefreshDone (pc : Fin 64) (s : State) : Host.Outcome State Fault Refusal :=
  done s (if !(s.pc pc.val).refreshing then s
    else
      let t := updPc pc.val (fun c => { c with refreshing := false }) s
      if (t.pc pc.val).aside || (t.pc pc.val).idle then breakPoint pc.val t else beginSlot pc.val t)

/-! Errors. -/

/-- The data of a segment fail their next check (R209): its check word no longer fits. -/
def spoilSeg (x : Nat × Nat × Nat) (s : State) : State :=
  match loafOf x.1 s with
  | none => s
  | some l =>
    let base := segBase l.half x.2.1 x.2.2 s
    let i := segIndex x.2.1 x.2.2
    let b := amGetList hbmDefault s.hbm (base + 1536 * i) 1536
    let crc := ((crc32c (b ++ segTag x.1 x.2.1 x.2.2)).toNat + 1) % 2 ^ 32
    { s with hbm := amPutList hbmDefault s.hbm (base + 0xD8000 + 4 * i) (leBytes 4 crc) }

/-- A read of a proof block by a filler has failed (R171 MEM, R209). The filler's row, where no slice has read it yet, is filled again
once the block is recovered (DESIGN CHOICE, log 86: the model posts the reads of a fill with the fill). -/
def fillFailed (filler : Nat) (rebuild : Bool) (t : Tile) (s : State) : State :=
  if t.stage ≠ .committed ∨ t.block = none then s
  else
    let back := match loafOf t.ord s with
      | some l => !rebuild && decide (t.row < l.winFront ∧ readOf t.ord s ≤ 256 * t.row)
      | none => false
    let s := if back then
        match loafOf t.ord s with
        | some l => updLoaf t.ord (fun l => { l with winFront := t.row }) (s.setFld (winFrontFld l.half) t.row)
        | none => s
      else s
    blockBad filler t.row t.col .mem rebuild t s

/-- The effect of an uncorrectable read or a failed write on its port (R209), for ports 4 and 6 after a repetition. -/
def portFailed (pc : Nat) (x : Txn) (s : State) : State :=
  match x.port, x.use, x.tile s with
  | 0, _, _ | 1, _, _ => (x.segs pc s).foldl (fun s e => spoilSeg e s) s
  | 2, .fill f _ _ _ rb, some t => fillFailed f rb t s
  | 2, _, some t => updTile t (fun t => { t with block := t.block.map fun b => { b with memBad := true } }) s
  | 3, _, some t => if t.stage = .compressing ∨ t.stage = .stopped ∨ t.stage = .written then abortTile t F.PLC_EVT_WDOG s else s
  | 4, _, some t => if t.stage = .committed then s else settleTiles (markBad t s)
  | 5, .rowData o r, _ =>
    let l := s.plc.tiles.filter fun t => t.ord == o && t.row == r && t.stage != .committed && t.stage != .bad
    raise F.DGH_EVT_ROW_BAD (settleTiles (l.foldl (fun s t => markBad t s) s))
  | 6, .table 0, _ => if x.write then s else { s with mem := { s.mem with jnlBad := true } }
  | _, _, _ => s

/-- An access to a device table is repeated from the other copy (R187, R209). -/
def otherCopy (pc : Nat) (x : Txn) (i : Nat) (s : State) : State :=
  let (a, b) := tableCopies i s
  post [{ pc := if pc = a then b else a, port := 6, addr := x.addr, bursts := x.bursts, write := x.write, again := true, use := x.use }] s

/-- A failed access of port 4 or 6 is repeated once, of a table from its other copy (R209); any other has its port's effect. -/
def accessFailed (pc : Nat) (x : Txn) (s : State) : State :=
  match x.port, x.use with
  | 6, .table i =>
    if x.again then portFailed pc x s
    else otherCopy pc x i (updPc pc (fun c => { c with txns := removeFirst (·.id == x.id) c.txns }) s)
  | p, _ =>
    if (p = 4 ∨ p = 6) ∧ x.again = false then
      updPc pc (fun c => { c with txns := updateFirst (·.id == x.id) (fun x => { x with again := true, left := x.bursts }) c.txns }) s
    else portFailed pc x s

/-- An uncorrectable error against a transaction (R207, R209): counted, flagged, recorded, and the pseudo-channel queued; the burst of
the slot at which it stands is not told (a free value). -/
def uncorrectable (pc : Nat) (x : Txn) (s : State) : State :=
  let s := raise (F.MEM_PC_EVT_UE pc) (s.bump (F.MEM_PC_ECC_UE_CNT pc))
  let (n, s) := s.draw
  let s := if s.bit (F.MEM_PC_UE_VALID pc) then s
    else
      let s := (s.setFld (F.MEM_PC_UE_VALID pc) 1).setFld (F.MEM_PC_UE_PORT pc) x.port
      s.setFld (F.MEM_PC_UE_ADDR pc) (x.addr + 32 * (x.bursts - x.left - 1 - n % max 1 x.slot))
  accessFailed pc x (updPc pc (fun c => { c with due := true }) s)

/-- ERROR_SEVERITY_REPORT (R207): on the read burst of the transaction that holds the bus. -/
def execErrorSeverityReport (pc : Fin 64) (unc : Bool) (s : State) : Host.Outcome State Fault Refusal :=
  done s (match (s.pc pc.val).held with
    | none => s
    | some x =>
      if x.write then s
      else if unc then uncorrectable pc.val x s
      else
        let t := s.bump (F.MEM_PC_ECC_CE_CNT pc.val)
        if s.fld (F.MEM_PC_ECC_CE_CNT pc.val) < s.fld F.MEM_CTL_CE_LIMIT ∧
            s.fld F.MEM_CTL_CE_LIMIT ≤ t.fld (F.MEM_PC_ECC_CE_CNT pc.val) then
          raise (F.MEM_PC_EVT_CE_LIMIT pc.val) (updPc pc.val (fun c => { c with due := true }) t)
        else t)

/-- PARITY_ERROR (R208): the command is repeated at most twice; a third failure is uncorrectable. -/
def execParityError (pc : Fin 64) (s : State) : Host.Outcome State Fault Refusal :=
  done s (match (s.pc pc.val).held with
    | none => s
    | some x =>
      if x.repeats < 2 then
        updPc pc.val (fun c => { c with txns := updateFirst (·.id == x.id) (fun x => { x with repeats := x.repeats + 1 }) c.txns }) s
      else uncorrectable pc.val x s)

/-- A transaction of port 0 has completed after its deadline (R206): its data are marked late. -/
def markLate (pc : Nat) (x : Txn) (s : State) : State :=
  let n := s.ns - x.deadline
  let s := { s with slc := { s.slc with late := s.slc.late ++ x.segs pc s } }
  let s := s.bump (F.MEM_PC_LATE_LATE_CNT pc)
  let s := if s.fld (F.MEM_PC_LATE_MAX_LATE_NS pc) < n then s.setFld (F.MEM_PC_LATE_MAX_LATE_NS pc) (satU 18 n) else s
  raise (F.MEM_PC_EVT_LATE pc) s

/-- The transaction that completes next: one whose last slot is over, or the holder whose bursts have all moved. -/
def Pc.finished (c : Pc) : Option Txn :=
  match c.txns.find? fun x => x.left == 0 && c.holder != some x.id with
  | some x => some x
  | none => c.txns.find? (·.left == 0)

/-- TRANSACTION_COMPLETE (R190, R206): a transaction has no bursts left, and its entry is freed. The break point of an idle bus may issue a
refresh (R202). -/
def execTransactionComplete (pc : Fin 64) (s : State) : Host.Outcome State Fault Refusal :=
  done s (match (s.pc pc.val).finished with
    | none => s
    | some x =>
      let t := updPc pc.val (fun c => { c with txns := removeFirst (·.id == x.id) c.txns,
                                               holder := if c.holder = some x.id then none else c.holder }) s
      let t := if x.port = 0 ∧ x.deadline < s.ns then markLate pc.val x t else t
      if (t.pc pc.val).idle && busRuns pc.val t then breakPoint pc.val t else t)

/-- STACK_TEMPERATURE_READOUT (R201, R212, R223). -/
def execStackTemperatureReadout (stack : Fin 2) (t : BitVec 9) (s : State) : Host.Outcome State Fault Refusal :=
  let hot := decide (85 ≤ t.toInt)
  let was := (s.fld F.MEM_STATUS_HOT).testBit stack.val
  let h := s.fld F.MEM_STATUS_HOT
  let s1 := s.setFld (if stack.val = 0 then F.MEM_STK_TEMP_TEMP0 else F.MEM_STK_TEMP_TEMP1) t.toNat
  let s1 := s1.setFld F.MEM_STATUS_HOT (if hot = was then h else if hot then h + 2 ^ stack.val else h - 2 ^ stack.val)
  let s1 := raiseIf (hot && !was) F.MEM_EVT_HOT s1
  let far (p : Nat) : Bool := decide (s.fld F.MEM_CTL_RETRAIN_DT < (t.toInt - (s1.pc p).temp).natAbs) && pcLive p s1
  done s ((List.range 32).foldl (fun s i =>
    let p := 32 * stack.val + i
    if far p then updPc p (fun c => { c with due := true }) s else s) s1)

/-! Retraining and retirement. -/

/-- Is it a gap (R211)? -/
def inGap (s : State) : Bool := s.core == .idle || s.core == .job || s.core == .armed

/-- RETRAINING_START (R211, R212, R214): the lowest pseudo-channel queued. -/
def execRetrainingStart (s : State) : Host.Outcome State Fault Refusal :=
  done s (if !inGap s || retraining s || s.mem.startHold.isSome || decide (s.mem.sr ≠ .awake) then s
    else match (List.range 64).find? fun p => (s.pc p).due with
      | some p => updPc p (fun c => { c with training := true }) s
      | none => s)

/-- Temperature of a pseudo-channel's stack (R184, R223). -/
def stackTemp (p : Nat) (s : State) : Int := if p < 32 then s.sfld F.MEM_STK_TEMP_TEMP0 else s.sfld F.MEM_STK_TEMP_TEMP1

/-- Set or clear a pseudo-channel's bit in PLC_PC_RETIRED (R215, R217). -/
def setRetiredBit (p : Nat) (on : Bool) (s : State) : State :=
  let f := if p < 32 then F.PLC_PC_RETIRED_LO_RETIRED else F.PLC_PC_RETIRED_HI_RETIRED
  let b := (s.fld f).testBit (p % 32)
  if b = on then s else s.setFld f (if on then s.fld f + 2 ^ (p % 32) else s.fld f - 2 ^ (p % 32))

/-- The spill regions in use (R178): each retired home with its eight targets. A pair that had a region keeps it, another takes the lowest
number that its target has free. -/
def spillPairs (s : State) : List (Nat × Nat × Nat) :=
  let pairs := ((List.range 64).filter fun p => !pcLive p s).flatMap fun p => (List.range 8).map fun i => (p, spillTarget p (i + 1) s)
  let kept := s.prf.spills.filter fun x => pairs.contains (x.1, x.2.1)
  (pairs.filter fun x => !(kept.any fun y => y.1 == x.1 && y.2.1 == x.2)).foldl (fun l x =>
    let used := (l.filter fun y => y.2.1 == x.2).map (·.2.2)
    l ++ [(x.1, x.2, countWhile used.contains used.length 0)]) kept

/-- The segments held in the window that a change of the live pseudo-channels moves and that a later slice reads (R147, R180). -/
def movedSegs (old new : State) : List (Nat × Nat × Nat) :=
  new.loaves.flatMap fun l =>
    let top := 256 * l.winFront
    ((List.range (min top 4608)).map fun i => top - min top 4608 + i).flatMap fun y =>
      ((List.range 8).filter fun sub => decide (segBase l.half y sub old ≠ segBase l.half y sub new) &&
        decide (readOf l.ord new ≤ lastSegReader new y sub)).map fun sub => (l.ord, y, sub)

/-- Placement acts on a retirement (R147, R148, R216): the dough slot, the proof blocks and the window segments of the pseudo-channel. A block
that is still being compressed is compressed again, and one completed but not committed is made again by a new expansion; the tile keeps its
place in commit order (DESIGN CHOICE, log 86). -/
def moveWork (p : Nat) (old s : State) : State :=
  let lost := s.plc.tiles.filter fun t => inSlot p t s && t.stage != .committed && t.stage != .bad
  let s := { s with rows := s.rows.filter (·.slot != p) }
  let s := lost.foldl (fun s t => markBad t s) s
  let hit := s.plc.tiles.filter (·.onPc p)
  let s := hit.foldl (fun s t => match t.stage with
    | .compressing | .stopped | .written => dropBlock t s
    | .completed => redoTile t s
    | .committed => recoverTile t s
    | .waiting | .queued | .taken | .passed | .bad => s) s
  let s := { s with prf := { s.prf with spills := spillPairs s } }
  let new := movedSegs old s
  settleTiles { s with prf := { s.prf with rebuilds := s.prf.rebuilds ++ new.filter fun x => !s.prf.rebuilds.contains x } }

/-- The next live pseudo-channel of the same stack (R187). -/
def nextInStack (p : Nat) (s : State) : Nat :=
  let q (i : Nat) : Nat := p / 32 * 32 + (p % 32 + 1 + i) % 32
  ((List.range 31).map q).find? (pcLive · s) |>.getD p

/-- The device tables of which a retired pseudo-channel held a copy are copied from the other one (R187). -/
def moveTables (p : Nat) (s : State) : State :=
  let q := nextInStack p s
  (List.range s.mem.tables.length).foldl (fun s i =>
    let (a, b) := tableCopies i s
    if a = p ∨ b = p then
      let x (pc : Nat) (write : Bool) : TxnPost :=
        { pc := pc, port := 6, addr := tableBase i, bursts := 1, write := write, again := false, use := .table i }
      let s := { s with mem := { s.mem with tables := setNth s.mem.tables i (if a = p then (q, b) else (a, q)) } }
      post [x (if a = p then b else a) false, x q true] s
    else s) s

/-- A posted access as a transaction that waits. -/
def TxnPost.txn (x : TxnPost) (id : Nat) : Txn :=
  { id := id, port := x.port, addr := x.addr, bursts := x.bursts, left := x.bursts, deadline := 0, write := x.write, slot := 0,
    repeats := 0, again := x.port == 4 || x.again, use := x.use }

/-- RETIRE_LIMIT occurs when a fifth pseudo-channel is retired (R205). -/
def retireLimit (was : Nat) (s : State) : State := raiseIf (decide (was ≤ 4 ∧ 4 < retiredCount s)) F.MEM_EVT_RETIRE_LIMIT s

/-- Retire a pseudo-channel (R215): what waits on it completes with an uncorrectable error under R209; refresh goes on. -/
def retirePc (p : Nat) (s : State) : State :=
  let c := s.pc p
  let t := updPc p (fun c => { c with retired := true, due := false, training := false, txns := [], holder := none, grant := none,
                                       openRow := none, hit := false }) s
  if c.retired then t
  else
    let lost := c.txns.map (fun x => { x with again := x.port == 4 || x.again }) ++
      (s.mem.posts.filter (·.pc == p)).map (·.txn s.mem.nextTxn)
    let t := { t with mem := { t.mem with posts := t.mem.posts.filter (·.pc != p) } }
    let t := setRetiredBit p true (raise (F.MEM_PC_EVT_RETIRED p) t)
    let t := t.setFld F.MEM_STATUS_LIVE (t.fld F.MEM_STATUS_LIVE - 1)
    moveTables p (moveWork p s (retireLimit (retiredCount s) (lost.foldl (fun s x => accessFailed p x s) t)))

/-- A MEM_RETRAIN whose pseudo-channels have all been retrained or retired replies (R218). -/
def retrainReplies (p : Nat) (retired : Bool) (s : State) : State :=
  let l := s.mem.retrains.map fun r => if r.pcs.contains p then
    { r with pcs := r.pcs.filter (· != p), anyRetired := r.anyRetired || retired } else r
  let s := { s with mem := { s.mem with retrains := l.filter fun r => !r.pcs.isEmpty } }
  (l.filter fun r => r.pcs.isEmpty).foldl (fun s r => answer r.port r.tag (if r.anyRetired then stRetired else stOk) [] s) s

/-- Record a training at a temperature (R213, R222 MEM_PC_TRAIN). Training has written the training area (R186). -/
def recordTraining (p : Nat) (ok : Bool) (t : Int) (s : State) : State :=
  let s := (s.setFld (F.MEM_PC_TRAIN_RESULT p) (if ok then 1 else 2)).setFld (F.MEM_PC_TRAIN_TEMP p) (twos 8 t)
  let (n, s) := s.draw
  updPc p (fun c => { c with temp := t, area := some n }) (s.bump (F.MEM_PC_TRAIN_COUNT p))

/-- RETRAINING_DONE (R213 to R218): it passes, or the pseudo-channel is retired. -/
def execRetrainingDone (ok : Bool) (s : State) : Host.Outcome State Fault Refusal :=
  done s (match (List.range 64).find? fun p => (s.pc p).training with
    | none => s
    | some p =>
      let t := recordTraining p ok (stackTemp p s) s
      let t := if ok then
          let t := updPc p (fun c => { c with training := false, due := false }) (t.setFld (F.MEM_PC_ECC_CE_CNT p) 0)
          if (t.pc p).retired && t.job.isNone then
            let t := setRetiredBit p false (updPc p (fun c => { c with retired := false }) t)
            let t := t.setFld F.MEM_STATUS_LIVE (t.fld F.MEM_STATUS_LIVE + 1)
            { t with prf := { t.prf with outPcs := t.prf.outPcs ++ [p], spills := spillPairs t } }
          else t
        else retirePc p t
      let t := retrainReplies p (t.pc p).retired t
      match t.mem.startHold with
      | some tag => startPast tag { t with mem := { t.mem with startHold := none } }
      | none => t)

/-- The body of MEM_RETRAIN (R217, R218, R394); the named pseudo-channels need the memory awake. -/
def bodyMemRetrain (r : Req) (s : State) : State :=
  let pcs := bitsSet 32 (r.fld 1 31 0) ++ (bitsSet 32 (r.fld 2 31 0)).map (· + 32)
  if pcs.isEmpty then refuse r stBadParam s
  else if s.job.isSome && pcs.any fun p => (s.pc p).retired then refuse r stBadState s
  else
    let s := pcs.foldl (fun s p => updPc p (fun c => { c with due := true }) s) (wakeMemory s)
    { s with mem := { s.mem with retrains := s.mem.retrains ++ [{ port := r.port, tag := r.tag, pcs := pcs, anyRetired := false }] } }

/-- MEM_RETRAIN (R218). -/
def execMemRetrain (p : Port) (h : Hdr) (w : List Word) (s : State) : Host.Outcome State Fault Refusal :=
  done s (takeReq bodyMemRetrain (mkReq p h 0x58 w) s)

/-! Self-refresh. -/

/-- SELF_REFRESH_ENTRY (R219, R220): every postponed refresh is issued first. -/
def execSelfRefreshEntry (s : State) : Host.Outcome State Fault Refusal :=
  let busy := !s.mem.posts.isEmpty || (List.range 64).any fun p => !(s.pc p).txns.isEmpty || (s.pc p).training
  done s (if s.bit F.MEM_CTL_SR_EN = false ∨ s.core ≠ .idle ∨ busy = true ∨ s.mem.sr ≠ .awake ∨ flightsOp .host 0x10 s ≠ [] then s
    else
      let t := (List.range 64).foldl (fun s p => updPc p (fun c => { c with postponed := 0, passed := 0, refreshing := false, openRow := none }) s) s
      { t with mem := { t.mem with sr := .asleep } })

/-- SELF_REFRESH_EXIT_DONE (R212, R221): the pseudo-channels that fail their check are queued; what waits proceeds, a JOB_OPEN among
it. The core wakes as well (R496). -/
def execSelfRefreshExitDone (failed : BitVec 64) (s : State) : Host.Outcome State Fault Refusal :=
  done s (match s.mem.sr with
    | .leaving =>
      let t := { s with mem := { s.mem with sr := .awake } }
      let t := (List.range 64).foldl (fun s p => updPc p (fun c => { c with refAt := 2 * s.ns + refInterval p s }) s) t
      let t := (bitsSet 64 failed.toNat).foldl (fun s p => if pcLive p s then updPc p (fun c => { c with due := true }) s else s) t
      tryOpenJob (wakeCore t)
    | .awake | .asleep => s)

end Sys2Proof.Machine
end

