-- ==== Sys2Proof/Machine/Slicer.lean ====
section
/-!
DEFINITION. The slicer (R225 to R262): beam order, the pass splitter, epochs, resist heating, dwell corrections, conditioning, the
slice format, and SLICE_BUILD with its journal entries (R295, R297).
-/
namespace Sys2Proof.Machine

/-- Beams per pass group G of the open job, that of the full configuration where no job is open (R227, R262 SLC_PERIOD). -/
def groupSize (s : State) : Nat := if s.job.isSome then beamRows (jobBeams s) / 8 else 64

/-- TSUB_EFF (R246, R247). -/
def tsubEff (s : State) : Nat := s.act F.SLC_DWELL_TSUB * 64 / groupSize s

/-- The slice period of an effective t_sub and a guard (R247). -/
def periodOf (tsub guard : Nat) : Nat :=
  let dmax := (63 * tsub * 2171 + 2047) / 2048
  ((dmax + 31) / 64 + 8 + guard + 9) / 10 * 10

/-- SLC_PERIOD.MIN_NS (R247). -/
def periodMin (s : State) : Nat := periodOf (tsubEff s) (s.act F.SLC_DWELL_GUARD_NS)

/-- KT from a plate temperature (R248). -/
def ktOf (pt : Int) (s : State) : Int :=
  clampI (2048 + ((pt - s.sfld F.SLC_KT_CTL_T_REF) * s.sfld F.SLC_KT_CTL_KT_SLOPE).fdiv 1024) 1925 2171

/-- TEDGE from a driver supply (R248). -/
def tedgeOf (v : Nat) (s : State) : Int :=
  clampI ((s.fld F.SLC_TE_CTL_TE_BASE : Int) +
    (((v : Int) - s.fld F.SLC_TE_CTL_V_REF_MV) * s.sfld F.SLC_TE_CTL_TE_SLOPE).fdiv 1024) 0 31

/-- KT and TEDGE of the active groups for slice `n` (R249, R250): recomputed, or those of the slice before; a stale group keeps its
last values. -/
def updKt (n : Nat) (s : State) : State :=
  if n % max 1 (s.fld F.SLC_KT_CTL_KT_PERIOD) = 0 ∨ s.slc.soft = true then
    (activeGroups s).foldl (fun s g =>
      let p := plateOf g s
      if p.stale then s
      else (s.setFld (F.SLC_KT_KT g) (ktOf p.pt s).toNat).setFld (F.SLC_KT_TEDGE g) (tedgeOf p.v s).toNat) s
  else s

/-! Beam order. -/

/-- Beam (r, c) of index j on lane `lam` with `nl` active lanes (R229). -/
def beamOf (nl lam j : Nat) : Nat × Nat :=
  let w := 8192 / nl
  let a := j / w
  let kappa := j % w
  let sub := (lam + 512 - a) % 8
  (8 * a + sub, nl / 8 * kappa + (lam + 512 - a - sub) % nl / 8)

/-- Index of beam (r, c) on its lane (R229). -/
def beamJ (nl r c : Nat) : Nat := 8192 / nl * (r / 8) + c / (nl / 8)

/-! The splitter. -/

/-- t of R232. -/
def splitTotal (g d x y : Nat) : Nat := (d * g + (37 * x + 11 * y) % 64) / 64

/-- The share of the live beam of rank `kb` (R232). -/
def splitShare (t nLive x y kb : Nat) : Nat :=
  t / nLive + (if (kb + nLive - (x + y) % nLive) % nLive < t % nLive then 1 else 0)

/-- The code of a share under a gain and a heat factor (R232). -/
def splitCode (share h g : Nat) : Nat := (share * h + g) / (2 * g)

/-- MINL (R240). -/
def minLive (s : State) : Nat := (s.act F.SLC_SPLIT_CTL_MIN_LIVE * groupSize s + 63) / 64

/-! Resist heating. -/

/-- The key of the heat cell of a pixel in the ring of 40 cell rows (R242). -/
def heatKey (x y : Nat) : Nat := 64 * (y / 128 % 40) + x / 128

/-- Is slice `n` the one at which a cell's row is set to 0 (R242)? -/
def heatFresh (n key : Nat) : Bool := n % 128 == 0 && key / 64 == n / 128 % 40

/-- The map before slice `n` at time `t` ns (R242, R243): decayed, and 0 in the cell row that beam row 0 enters. -/
def heatPre (n t : Nat) (s : State) : AMap Nat :=
  match s.slc.lastT with
  | none => []
  | some t0 =>
    if n = 0 then []
    else
      let dec := s.act (F.SLC_HEAT_DECAY_FACTOR (min 255 ((t - t0) / 64)))
      s.slc.heat.filterMap fun e =>
        let v := e.2 * dec / 65536
        if v = 0 ∨ heatFresh n e.1 then none else some (e.1, v)

/-- The heat factor of a cell's hpre (R243). -/
def heatFactor (hpre : Nat) (s : State) : Nat :=
  if s.act F.SLC_HEAT_CTL_EN = 0 then 4096
  else (clampI (4096 - ((hpre * s.act F.SLC_HEAT_CTL_GAIN / 2 ^ 20 : Nat) : Int)) 3072 4096).toNat

/-! Reading the window. -/

/-- What the read of a beam row's segment gives (R230, R231): its doses, a failed check, late data, or a row at or above the window
front. -/
inductive RowRead
  | doses (d : List Nat)
  | check
  | late
  | window
  deriving DecidableEq, Repr

/-- Read sub-row `sub` of pixel row `y`. -/
def readRow (l : Loaf) (y sub : Nat) (s : State) : RowRead :=
  if 256 * l.winFront ≤ y then .window
  else if s.slc.late.contains (l.ord, y, sub) then .late
  else
    let (d, ok) := readSeg l.ord l.half y sub s
    if ok then .doses d else .check

/-- The beam rows of slice `n` that stand over the loaf, with their pixel rows and reads (R226). -/
def readRows (l : Loaf) (n : Nat) (s : State) : List (Nat × Nat × RowRead) :=
  (List.range (beamRows (jobBeams s))).filterMap fun r =>
    if 8 * r ≤ n ∧ n - 8 * r < 256 * l.rows then some (r, n - 8 * r, readRow l (n - 8 * r) (r % 8) s) else none

/-- The lanes dead in the epoch of a pixel row: the last epoch that began at or before slice y (R237). -/
def epochLanes (y : Nat) (s : State) : Nat :=
  match (s.slc.epochs.filter fun e => decide (e.first ≤ y)).getLast? with
  | some e => e.lanes
  | none => s.slc.dead

/-- What a beam's pass over a pixel comes to: the code computed, and the PIXEL entry that its pixel calls for. -/
structure BeamPass where
  code : Nat
  low : Option (Nat × Nat × Nat)
  deriving DecidableEq, Repr

/-- A pass that sends code 0 and owes nothing of its own. -/
def BeamPass.dark : BeamPass := { code := 0, low := none }

/-- The code of beam (r, c) over pixel row `y` with dose `d` (R232 to R240); `due` tells whether the pixels of the row are journaled with
this pass where too few beams live. -/
def beamPass (s : State) (heat : AMap Nat) (due : Bool) (r c y d : Nat) : BeamPass :=
  let x := 8 * c + r % 8
  let a := r / 8
  let t := splitTotal (groupSize s) d x y
  if t = 0 then BeamPass.dark
  else
    let live := livePasses s (epochLanes y s) x
    let nL := live.length
    if nL < minLive s then { code := 0, low := if due then some (y, x, d) else none }
    else if !live.contains a || s.slc.dead.testBit (laneOfBeam (jobLanes s) r c) then BeamPass.dark
    else
      let kb := live.countP fun b => decide (b < a)
      let h := heatFactor (amGet (fun _ => 0) heat (heatKey x y)) s
      { code := splitCode (splitShare t nL x y kb) h (gainOf s r c), low := none }

/-- Are the pixels of a beam row's segment to be journaled with this pass (R240): with the slice of their first pass as it is first built,
or with the first pass that can be read after one that could not (DEDUCED, log 36)? -/
def pixelDue (s : State) (r y : Nat) : Bool := (r / 8 == 0 && decide (s.slc.top ≤ s.slc.next)) || s.slc.lowDue.contains (y, r % 8)

/-- The rows whose pixels are to be journaled with a later pass, after slice `n` (R240). -/
def lowDueAfter (s : State) (rows : List (Nat × Nat × RowRead)) : List (Nat × Nat) :=
  rows.foldl (fun l x =>
    let key := (x.2.1, x.1 % 8)
    match x.2.2 with
    | .doses _ => l.filter fun k => k != key
    | .check | .late | .window => if pixelDue s x.1 x.2.1 && !l.contains key then l ++ [key] else l) s.slc.lowDue

/-- The passes of a beam row of a slice, by beam column; a row that gave no doses sends code 0. -/
def rowPasses (s : State) (heat : AMap Nat) (x : Nat × Nat × RowRead) : List BeamPass :=
  match x.2.2 with
  | .doses d => (List.range 1024).map fun c => beamPass s heat (pixelDue s x.1 x.2.1) x.1 c x.2.1 (nth 0 d c)
  | .check | .late | .window => List.replicate 1024 BeamPass.dark

/-! Conditioning. -/

/-- The idle count of a beam not listed: its maximum, as at LOAF_START (R251). -/
def idleDefault (_ : Nat) : Nat := 1048575

/-- Pulses of a beam that exits idle (R252), 0 for one that does not. -/
def pulsesOf (idle n : Nat) : Nat := if idle < n then 0 else if idle < 4 * n then 1 else if idle < 16 * n then 2 else 3

/-- One beam of a lane as it is sent. -/
structure Sent where
  j : Nat
  beam : Nat
  /-- The code computed (R232). -/
  raw : Nat
  code : Nat
  pulses : Nat
  /-- Left out because the conditioning list was full (R253). -/
  spill : Bool
  deriving DecidableEq, Repr

/-- The beams of a lane in ascending j, with the entries of the conditioning list still free (R234, R252, R253). -/
def sendLane (s : State) : Nat → List (Nat × Nat × Nat) → List Sent
  | _, [] => []
  | free, (j, beam, raw) :: r =>
    let code := min raw 63
    let p := if code = 0 then 0 else pulsesOf (amGet idleDefault s.slc.idle beam) (s.act F.SLC_COND_IDLE_N)
    if p = 0 then { j := j, beam := beam, raw := raw, code := code, pulses := 0, spill := false } :: sendLane s free r
    else if free = 0 then { j := j, beam := beam, raw := raw, code := 0, pulses := 0, spill := true } :: sendLane s free r
    else { j := j, beam := beam, raw := raw, code := code, pulses := p, spill := false } :: sendLane s (free - 1) r

/-- The beams of a lane, from the passes of each beam row. -/
def laneSent (s : State) (rows : List (Nat × List BeamPass)) (lam : Nat) : List Sent :=
  let nl := jobLanes s
  sendLane s (s.act F.SLC_COND_LIST_MAX) ((List.range 16384).map fun j =>
    let (r, c) := beamOf nl lam j
    let p := match rows.find? (·.1 == r) with
      | some x => nth BeamPass.dark x.2 c
      | none => BeamPass.dark
    (j, beamIndex r c, p.code))

/-- The idle counts after a slice (R251, R253). -/
def idleAfter (s : State) (beams : List Sent) : AMap Nat :=
  beams.foldl (fun m b =>
    let i := amGet idleDefault s.slc.idle b.beam
    amPut idleDefault m b.beam (if b.spill then i else if b.code = 0 then min 1048575 (i + 1) else 0)) s.slc.idle

/-- The heat map after a slice (R243, R244): a beam that sends a code stands over a pixel in the loaf. -/
def heatAfter (n : Nat) (pre : AMap Nat) (beams : List Sent) : AMap Nat :=
  (beams.filter fun b => decide (b.code ≠ 0)).foldl (fun m b =>
    let r := b.beam / 1024
    let k := heatKey (8 * (b.beam % 1024) + r % 8) (n - 8 * r)
    amPut (fun _ => 0) m k (satU 32 (amGet (fun _ => 0) m k + b.code))) pre

/-! The slice format. -/

/-- Payloads of 64 bytes each (R345). -/
def blocksOf : Nat → List Byte → List (List Byte)
  | 0, _ => []
  | fuel + 1, b => if b.isEmpty then [] else b.take 64 :: blocksOf fuel (b.drop 64)

/-- Pad to whole blocks with zero bytes (R260). -/
def padBlock (b : List Byte) : List Byte := b ++ List.replicate ((64 - b.length % 64) % 64) 0

/-- The payloads of a lane's code blocks and list blocks (R259, R260). -/
def bodyBlocks (codes : List Nat) (list : List (Nat × Nat)) : List (List Byte) :=
  let field := bytesOfBits 12289 (codes.flatMap (bitsLsb 6))
  let conds := padBlock (list.flatMap fun e => leBytes 2 (e.1 + 2 ^ 14 * e.2))
  blocksOf 193 field ++ blocksOf 9 conds

/-- PCRC (R258). -/
def pcrcOf (blocks : List (List Byte)) : Nat := (crc32c blocks.flatten).toNat

/-- The header block's payload (R258), for a beam configuration. -/
def headerBlock (s : State) (config ord : Nat) (x : Slice) (lam : Nat) : List Byte :=
  let g := lam / 8
  let v := 1 + config * 2 ^ 4 + lam * 2 ^ 6 + ord % 2 ^ 16 * 2 ^ 16 + x.n * 2 ^ 32 + x.l / 4 % 2 ^ 64 * 2 ^ 64 +
    x.l % 4 * 2 ^ 128 + amGet (fun _ => 0) x.kt g * 2 ^ 144 + amGet (fun _ => 0) x.tedge g * 2 ^ 156 + tsubEff s * 2 ^ 161 +
    s.act F.SLC_DWELL_GUARD_NS * 2 ^ 174 + s.act F.SLC_COND_WIDTH * 2 ^ 181 +
    (amGet (fun _ => []) x.lists lam).length * 2 ^ 185 + amGet (fun _ => 0) x.pcrc lam * 2 ^ 448
  ctlPayload v

/-- The payloads of a lane's blocks of a slice, in order (R258 to R260). -/
def slicePayloads (s : State) (config ord : Nat) (x : Slice) (lam : Nat) : List (List Byte) :=
  headerBlock s config ord x lam :: bodyBlocks (amGet (fun _ => []) x.codes lam) (amGet (fun _ => []) x.lists lam)

/-! Epochs. -/

/-- Open an epoch at a slice; declarations before one build share it (R237). An owner tells its standby (R462, R465 MARK). -/
def openEpoch (first lanes : Nat) (s : State) : State :=
  let es := match s.slc.epochs.getLast? with
    | some e => if e.first = first then s.slc.epochs.dropLast ++ [{ e with lanes := e.lanes ||| lanes }]
        else s.slc.epochs ++ [{ first := first, lanes := e.lanes ||| lanes }]
    | none => [{ first := first, lanes := lanes }]
  let s := { s with slc := { s.slc with epochs := es } }
  let s := if pairOwner s then
      (sendPeer 0x60 [fnWord 0x3, 1, BitVec.ofNat 36 first, BitVec.ofNat 36 (epochDead s)] s).2 else s
  setLive (epochDead s) s

/-- The epochs still held when the slices below `disposed` have been launched or journaled (R239). -/
def heldEpochs (rows disposed : Nat) : List Epoch → List Epoch
  | e :: f :: r => if f.first + 8 * (rows - 1) ≤ disposed then heldEpochs rows disposed (f :: r) else e :: f :: r
  | l => l

/-- Release epochs; a deferred epoch then begins at the next slice to be built (R239). -/
def releaseEpochs (s : State) : State :=
  match s.lch.run with
  | none => s
  | some r =>
    let s := { s with slc := { s.slc with epochs := heldEpochs (beamRows (jobBeams s)) r.disposed s.slc.epochs } }
    if s.slc.deferred = 0 ∨ 4 ≤ s.slc.epochs.length then s
    else
      let d := s.slc.deferred
      openEpoch s.slc.top d { s with slc := { s.slc with deferred := 0 } }

/-- Declare lanes dead during a loaf (R237 to R239, R359): an epoch from the first slice that has not been built, the entry, and the slices
built and not started. Where the epoch is deferred its first slice is not known when the entry is staged, and the entry's N2 is free
(DESIGN CHOICE, log 36). -/
def declareDead (lanes : Nat) (s : State) : State :=
  match s.lch.run with
  | none => s
  | some r =>
    let s := { s with slc := { s.slc with dead := s.slc.dead ||| lanes } }
    let n := s.slc.top
    let fits := decide (s.slc.epochs.length < 4) || (match s.slc.epochs.getLast? with
      | some e => e.first == n
      | none => true)
    let (n2, s) := if fits then (n, s) else let (f, s) := s.draw; (f % 2 ^ 25, s)
    let ent := rangeRec kLaneDead 0 r n n2 lanes
    let s := { s with lch := { s.lch with deadEnts := s.lch.deadEnts ++ [ent] } }
    let s := if fits then openEpoch n lanes s
      else raise F.SLC_EVT_EPOCH_DEFER { s with slc := { s.slc with deferred := s.slc.deferred ||| lanes } }
    s.lch.slices.foldl (fun s x =>
      let hit := x.lanes.filter fun e => lanes.testBit e.1 && e.2 == .waiting
      if hit.isEmpty then s
      else
        let m := hit.foldl (fun m e => m + 2 ^ e.1) 0
        let s := { s with lch := { s.lch with slices := updateFirst (·.n == x.n) (fun x =>
          { x with lanes := x.lanes.map fun e => if m.testBit e.1 && e.2 == .waiting then (e.1, .blanked) else e }) s.lch.slices } }
        if pairStandby s then s else recordRange (rangeRec kBlanked 4 r x.n x.n m) s) s

/-! The end of a loaf. -/

/-- A blocked loaf ends (R288, R337): READY_ROW stands at the oldest bad tile's row, the slices before it are done with, and the stage is
stopping for it or holds. -/
def blockedEnd (s : State) : State :=
  match s.lch.run with
  | none => s
  | some r =>
    let f := s.plc.front
    let bad := (s.plc.tiles.find? fun t => t.ord == r.ord && t.stage == .bad).map (·.row)
    let waits := decide (s.mot.scan.state = .hold ∨ s.mot.scan.bind = 5)
    if r.stop.isSome || r.ended || !isBlocked r.ord s || bad != some f || decide (r.disposed < 256 * f) || !waits then s
    else
      let s := if pairStandby s then s else commitUnreached cBadRow r r.disposed r.last s
      let s := updRun (fun r => { r with ended := true, disposed := r.last + 1 }) s
      let s := { s with lch := { s.lch with slices := [] }, mot := { s.mot with scan := { s.mot.scan with stopping := true } } }
      let s := setScan .leadout s
      if scanAtRest s then jobCloseEnd (loafEnd s) else s

/-- Slices below `n` of the running loaf have been launched or journaled (R169, R239, R288, R294). -/
def disposeTo (n : Nat) (s : State) : State :=
  let s := updRun (fun r => { r with disposed := max r.disposed n }) s
  let s := if pairStandby s then s else closeBefore (n - 1) s
  blockedEnd (publishFront (freeBlocks (releaseEpochs s)))

/-! SLICE_BUILD. -/

/-- The staged PASS entries of a lane's beams in ascending j: the clamp first (R234, R253). -/
def passEnts (r : Run) (n lam : Nat) (beams : List Sent) : List JEnt :=
  let ent (cause : Nat) (b : Sent) (short : Nat) : JEnt :=
    { kind := kPass, cause := cause, id := r.id, ord := r.ord % 2 ^ 12, n1 := n, a := lam, n2 := b.j, b := 0,
      v := b.raw * 2 ^ 16 + short }
  beams.flatMap fun b => (if 63 < b.raw then [ent 1 b (b.raw - 63)] else []) ++ (if b.spill then [ent 2 b 0] else [])

/-- The staged ROW entries of a slice (R231, R292). -/
def rowEnts (r : Run) (n : Nat) (rows : List (Nat × Nat × RowRead)) : List JEnt :=
  rows.filterMap fun x =>
    let ent (cause : Nat) : JEnt := { kind := kRow, cause := cause, id := r.id, ord := r.ord % 2 ^ 12, n1 := n, a := x.1, n2 := 0,
                                      b := 0, v := 0 }
    match x.2.2 with
    | .check => some (ent 1)
    | .late => some (ent 2)
    | .doses _ | .window => none

/-- The staged PIXEL entries of a slice (R240). -/
def pixelEnts (r : Run) (rows : List (Nat × List BeamPass)) : List JEnt :=
  rows.flatMap fun x => x.2.filterMap fun p => p.low.map fun (y, px, d) =>
    { kind := kPixel, cause := 1, id := r.id, ord := r.ord % 2 ^ 12, n1 := y, a := 0, n2 := px, b := 0, v := d }

/-- The FRONT record of a slice whose array reaches rows at or above the window front (R138, R181, R231; Y is the front: DEDUCED, log 37). -/
def frontRec (r : Run) (l : Loaf) (n : Nat) (s : State) : JEnt :=
  { kind := kFront, cause := if s.plc.front ≤ l.winFront then 1 else 2, id := r.id, ord := r.ord % 2 ^ 12, n1 := n, a := 0, n2 := n,
    b := 0, v := 256 * l.winFront }

/-- Queue the rebuild of segments that failed their check (R180). -/
def askRebuilds (l : Loaf) (rows : List (Nat × Nat × RowRead)) (s : State) : State :=
  rows.foldl (fun s x =>
    let key := (l.ord, x.2.1, x.1 % 8)
    if x.2.2 = .check ∧ s.prf.rebuilds.contains key = false then
      raise F.PRF_EVT_SEG_REBUILD { s with prf := { s.prf with rebuilds := s.prf.rebuilds ++ [key] } }
    else s) s

/-- Count and flag what the codes of a slice came to (R234, R240, R253). -/
def countPasses (lanes : List (Nat × List Sent)) (low : Nat) (s : State) : State :=
  let clamps := (lanes.map fun x => x.2.countP fun b => decide (63 < b.raw)).sum
  let overs := lanes.countP fun x => x.2.any (·.spill)
  let s := (List.range clamps).foldl (fun s _ => raise F.SLC_EVT_CLAMP s) s
  let s := s.setFld F.SLC_CLAMP_CNT_COUNT ((s.fld F.SLC_CLAMP_CNT_COUNT + clamps) % 2 ^ 36)
  let s := (List.range low).foldl (fun s _ => raise F.SLC_EVT_LOW_LIVE s) s
  let s := s.setFld F.SLC_LOWLIVE_CNT_COUNT ((s.fld F.SLC_LOWLIVE_CNT_COUNT + low) % 2 ^ 36)
  (List.range overs).foldl (fun s _ => raise F.SLC_EVT_COND_OVF s) s

/-- The tick of the planner's next step: t_(k−1) + HORIZON_US is E (R334). -/
def planTick (s : State) : Nat := ((s.mot.scan.e - 1000 * (s.fld F.MOT_CTL_HORIZON_US : Rat)) / 10000).floor.toNat + 1

/-- A TRAJ message of the owner (R465). -/
def sendTraj (k action v : Nat) (s : State) : State :=
  if pairOwner s then
    (sendPeer 0x60 [fnWord 0x2, BitVec.ofNat 36 (k % 2 ^ 36), BitVec.ofNat 36 (k / 2 ^ 36 % 2 ^ 15 + action * 2 ^ 15),
      BitVec.ofNat 36 (v % 2 ^ 20)] s).2
  else s

/-- The last slice has been predicted (R337): a stop at E, SCAN LEADOUT. A standby takes the stop from its owner (R462). -/
def lastPredicted (s : State) : State :=
  let s := updRun (fun r => { r with ended := true }) s
  if pairStandby s then s
  else
    sendTraj (planTick s) 2 0 (setScan .leadout (stopScanAt s.mot.scan.e s))

/-- A mark of the owner for the next slice: its epoch (R462). -/
def applyMarks (s : State) : State :=
  let due := s.pair.markEpochs.filter fun e => decide (e.1 ≤ s.slc.next)
  let s := { s with pair := { s.pair with markEpochs := s.pair.markEpochs.filter fun e => !decide (e.1 ≤ s.slc.next) } }
  due.foldl (fun s e => openEpoch e.1 e.2 { s with slc := { s.slc with dead := s.slc.dead ||| e.2 } }) s

/-- Is the next slice due to be built: reached at or before E (R331)? -/
def buildDue (r : Run) (s : State) : Bool :=
  let sc := s.mot.scan
  let pos := slicePos sc.oy sc.sigma sc.pitch s.slc.next
  r.stop.isNone && !r.ended && s.lch.paused.isNone && decide (s.slc.next ≤ r.last) &&
    decide (sc.state = .run ∨ sc.state = .hold) && decide (0 ≤ (sc.sigma : Rat) * ((profAt sc.prof sc.e).p - (pos : Rat)))

/-- The launch time of the slice at a position (R276, R328): counted from the latest rest behind it. A slice that begins where Y rests
without having moved there launches as Y leaves, of the committed part its end at the latest (DEDUCED, log 75). -/
def launchOf (pos : Int) (s : State) : Nat :=
  let sc := s.mot.scan
  let rests := sc.prof.filter fun f => decide (f.t0 ≤ sc.e ∧ f.v0 = 0 ∧ f.a0 = 0)
  match (rests.filter fun f => decide ((sc.sigma : Rat) * (f.p0 - (pos : Rat)) < 0)).getLast?, rests.getLast? with
  | some f, _ => reachQuarter sc.prof f sc.sigma pos
  | none, some f => (ratRound (4 * (if f.leaves < sc.e then f.leaves else sc.e))).toNat
  | none, none => 0

/-- Build one slice of the loaf (R225 to R262, R276, R295, R297). -/
def buildSlice (r : Run) (l : Loaf) (s : State) : State :=
  let n := s.slc.next
  let pos := slicePos s.mot.scan.oy s.mot.scan.sigma s.mot.scan.pitch n
  let lq := launchOf pos s
  let s := updKt n (applyMarks (releaseEpochs s))
  let rows := readRows l n s
  let pre := heatPre n (lq / 4) s
  let passes := rows.map fun x => (x.1, rowPasses s pre x)
  let lanes := (List.range (jobLanes s)).map fun lam => (lam, laneSent s passes lam)
  let beams := lanes.flatMap (·.2)
  let pix := pixelEnts r passes
  let front := rows.any fun x => x.2.2 == .window
  let dead := s.lch.deadEnts.map fun e => { e with n1 := n }
  let rowE := rowEnts r n rows
  let staged := rowE ++ lanes.flatMap (fun x => passEnts r n x.1 x.2) ++ pix ++ dead
  let codes := lanes.map fun x => (x.1, x.2.map (·.code))
  let lists := lanes.map fun x => (x.1, (x.2.filter fun b => decide (b.pulses ≠ 0)).map fun b => (b.j, b.pulses))
  let pcrc := lanes.map fun x => (x.1, pcrcOf (bodyBlocks (amGet (fun _ => []) codes x.1) (amGet (fun _ => []) lists x.1)))
  let kt := (activeGroups s).map fun g => (g, s.fld (F.SLC_KT_KT g))
  let te := (activeGroups s).map fun g => (g, s.fld (F.SLC_KT_TEDGE g))
  let waits := ((List.range (jobLanes s)).filter fun lam => !s.slc.dead.testBit lam).map fun lam => (lam, LaneState.waiting)
  let x : Slice := { n := n, l := lq, pos := pos, codes := codes, lists := lists, pcrc := pcrc, kt := kt, tedge := te, lanes := waits,
                     overspeed := false, tc := none }
  let s := askRebuilds l rows (countPasses lanes pix.length s)
  let used := rows.map fun y => (l.ord, y.2.1, y.1 % 8)
  let s := { s with slc := { s.slc with idle := idleAfter s beams, heat := heatAfter n pre beams, lastT := some (lq / 4), next := n + 1,
                                        top := max s.slc.top (n + 1), lowDue := lowDueAfter s rows,
                                        late := s.slc.late.filter fun k => !used.contains k },
                    lch := { s.lch with slices := s.lch.slices ++ [x], deadEnts := [] } }
  let s := askSlice l (n + 1) s
  let s := s.setFld F.SLC_STATUS_BUILT n
  let clean := rowE.isEmpty && dead.isEmpty && !front
  let s := tellSlice { ord := l.ord, n := n, clean := clean, pcrc := pcrc.map (·.2) } s
  if pairStandby s then s
  else
    let s := if front then recordRange (frontRec r l n s) s else s
    if jnlFree s < 64 + staged.length then stopWith cFull n (raise F.TB_EVT_JNL_FULL s) else commitAll staged s

/-- Is the last slice past being predicted, since a cancel has taken its place (R284), and the end of the scan not yet decided? -/
def lastSkipped (r : Run) (s : State) : Bool :=
  r.stop.isNone && !r.ended && s.lch.paused.isNone && decide (r.last < s.slc.next) && decide (s.mot.scan.state = .run ∨ s.mot.scan.state = .hold)

/-- SLICE_BUILD (R225 to R262, R295, R297): one build, when it is due. -/
def execSliceBuild (s : State) : Host.Outcome State Fault Refusal :=
  done s (match s.lch.run, currentLoaf s with
    | some r, some l =>
      if lastSkipped r s then blockedEnd (lastPredicted s)
      else if !buildDue r s then s
      else
        let t := buildSlice r l s
        let last := decide (r.last < t.slc.next) && (match t.lch.run with
          | some q => q.stop.isNone
          | none => false)
        blockedEnd (if last then lastPredicted t else t)
    | _, _ => s)

end Sys2Proof.Machine
end

