-- ==== Sys2Proof/Machine/Planner.lean ====
section
/-!
DEFINITION. The velocity planner (R331 to R338): the stop test, the target velocity, the planner step of the owner and of the standby
(R462), the resume approach, slow requests, and the setpoint frames (R307, R464).
-/
namespace Sys2Proof.Machine

/-- READY_ROW as the planner takes it (R332, R463). -/
def planReady (s : State) : Nat :=
  match s.pair.beat with
  | some b => if pairOwner s && eligible s then min s.plc.front b.ready else s.plc.front
  | none => s.plc.front

/-- S_n of the loaf that runs (R326). -/
def scanPos (n : Nat) (s : State) : Int := slicePos s.mot.scan.oy s.mot.scan.sigma s.mot.scan.pitch n

/-- The stop test (R332). -/
def stopTest (l : Loaf) (k : Kin) (s : State) : Bool :=
  let n := planReady s
  let sg : Rat := (s.mot.scan.sigma : Rat)
  let d := stopDist (sg * k.v) (sg * k.a) (64 * (s.fld (F.MOT_AX_ACC_A_STOP 1) : Rat)) (64 * (s.fld (F.MOT_AX_JERK_J_STOP 1) : Rat))
  decide (l.rows ≤ n) ||
    decide (((s.fld F.MOT_SCAN_MARGIN_PX * jobPitch s : Nat) : Rat) ≤ sg * ((scanPos (256 * n) s : Rat) - k.p) - d)

/-- The expansion rate the planner counts on, e (R333). -/
def planRate (s : State) : Nat := (((List.range 64).filter fun c => clEligible c s).map fun c => rateOf c s).sum * s.fld F.MOT_PLAN_UTIL

/-- The velocities v_t of R333 for tile rows from `t` on, with the cost summed before them, up to the first row whose cost is not published. -/
def costTerms (s : State) (e : Nat) (pNow : Rat) : Nat → Nat → List (Option Nat) → List Nat
  | _, _, [] => []
  | _, _, none :: _ => []
  | t, w, some c :: r =>
    let w := w + max 1 c
    let d := ((s.mot.scan.sigma : Rat) * ((scanPos (256 * t) s : Rat) - pNow) / 64).floor
    (if 0 < d then [1000 * d.toNat * e / (256 * w)] else []) ++ costTerms s e pNow (t + 1) w r

/-- v_cost (R333); `none` for no limit. -/
def costLimit (l : Loaf) (tk : Rat) (s : State) : Option Nat :=
  let n := planReady s
  let rows := min l.rows (n + s.fld F.MOT_PLAN_LOOK) - n
  leastBy (fun a b => decide (a < b)) (costTerms s (planRate s) (profAt s.mot.scan.prof tk).p n 0 ((l.costs.drop n).take rows))

/-- The terms of R333 with their codes. -/
def targetTerms (l : Loaf) (tk : Rat) (s : State) : List (Nat × Nat) :=
  let rate := jobPitch s * 1000000 / (64 * (periodMin s + 1))
  [(s.fld F.MOT_SCAN_V_MAX, 0), (rate, 1)] ++
    (if s.slc.soft then [(rate * s.fld F.SLC_THERM_SOFT_RATE / 256, 2)] else []) ++
    (match s.lch.slow with
      | some x => [(x.v, 3)]
      | none => []) ++
    (match costLimit l tk s with
      | some v => [(v, 4)]
      | none => [])

/-- v_tgt and BIND (R333). -/
def targetOf (l : Loaf) (tk : Rat) (s : State) : Nat × Nat :=
  (leastBy (fun a b : Nat × Nat => decide (a.1 < b.1)) (targetTerms l tk s)).getD (0, 0)

/-- A ramp of the scan from a state at an instant to a velocity along σ in nm/ms (R309, R334). -/
def scanRamp (t : Rat) (k : Kin) (v : Nat) (s : State) : List Phase :=
  let sg : Rat := (s.mot.scan.sigma : Rat)
  chain t k ((rampParts (sg * k.v) (64 * (v : Rat)) (64 * (s.fld F.MOT_SCAN_LIM_A_SCAN : Rat))
    (64 * (s.fld F.MOT_SCAN_LIM_J_SCAN : Rat))).map fun x => (x.1, sg * x.2))

/-- The stop of the scan that the next commit holds: the instant at which it starts, or none once Y leaves its rest. -/
def setStopFrom (t : Option Rat) (s : State) : State := { s with mot := { s.mot with scan := { s.mot.scan with stopFrom := t } } }

/-- Take a new profile committed to an instant: SCAN, V_TGT and BIND follow (R333, R334). -/
def commitScan (prof : List Phase) (e : Rat) (vt bind : Nat) (s : State) : State :=
  let hold := decide ((profAt prof e).v = 0)
  let sc := { s.mot.scan with prof := prof, e := e, vtgt := vt, bind := if hold then 5 else bind,
                              state := if hold then .hold else .run }
  { s with mot := { s.mot with scan := sc } }

/-- The owner's planner step (R334). -/
def ownerStep (l : Loaf) (s : State) : State :=
  let sc := s.mot.scan
  let tk := tickNs (s.ns / 10000)
  let new := tk + 1000 * (s.fld F.MOT_CTL_HORIZON_US : Rat)
  if new ≤ sc.e then s
  else
    let cur := profAt sc.prof sc.e
    let vc : Rat := (sc.sigma : Rat) * cur.v / 64
    let busy := decide (sc.e < profEnd sc.prof)
    let (vt, bind) := targetOf l tk s
    let ramps := !busy && decide ((vc = 0 ∧ 0 < vt) ∨ (vt : Rat) < vc ∨ (vc ≠ 0 ∧ vc + (s.fld F.MOT_PLAN_DV_MIN : Rat) ≤ (vt : Rat)))
    let prof := extendTo new (if ramps then sc.prof ++ scanRamp sc.e cur vt s else sc.prof)
    if busy && sc.bind == 5 then commitScan prof new vt 5 s
    else if stopTest l (profAt prof new) s then
      (if ramps then sendTraj (planTick s) 1 vt (setStopFrom none s) else s) |> commitScan prof new vt bind
    else if cur.v = 0 ∧ cur.a = 0 then
      commitScan (extendTo new (profCut sc.e sc.prof)) new vt 5 (sendTraj (planTick s) 3 0 s)
    else
      let s := raise F.MOT_EVT_FRONT_STOP (sendTraj (planTick s) 2 0 s)
      commitScan (extendTo new (stopProf sc.e sc.prof s)) new vt 5 (setStopFrom (some sc.e) s)

/-! The resume approach. -/

/-- The approach to the interrupted slice (R338): a move of Y from where it comes to rest. -/
def resumeMove (k v : Nat) (s : State) : State :=
  let sg : Int := s.mot.scan.sigma
  let dr := rampDist 0 (64 * (v : Rat)) (64 * (s.fld F.MOT_SCAN_LIM_A_SCAN : Rat)) (64 * (s.fld F.MOT_SCAN_LIM_J_SCAN : Rat))
  let target := (scanPos s.slc.next s : Rat) - (sg : Rat) * (dr + ((s.fld F.MOT_RUN_RUNUP_PX * jobPitch s : Nat) : Rat))
  let old := movesOf [1] s
  let ends := old.map fun m => profEnd m.prof
  let stop := ends.foldl (fun a b => if a < b then b else a) (profEnd s.mot.scan.prof)
  let start := if tickNs k < stop then stop else tickNs k
  let m := mkMove s start [(1, (planOf 1 start s).p, (ratRound target : Rat))] .resume
  let sc := { s.mot.scan with state := .approach, vres := v, stopping := false, bind := 6 }
  { s with mot := { s.mot with moves := s.mot.moves ++ [m], scan := sc } }

/-- A pause ends (R254, R338): v_res is v_tgt now. -/
def resumeScan (s : State) : State :=
  match currentLoaf s with
  | none => s
  | some l =>
    let v := (targetOf l (tickNs (s.ns / 10000)) s).1
    let k := frameTick s
    let s := { s with lch := { s.lch with paused := none } }
    resumeMove k v (sendAxes (sendTraj k 4 v (s.setFld F.SLC_STATUS_PAUSED 0)))

/-! The standby's trajectory. -/

/-- One TRAJ message at the step of its tick (R462, R465). -/
def applyTraj (s : State) (x : Nat × Nat × Nat) : State :=
  let (k, action, v) := x
  let sc := s.mot.scan
  let t := tickNs (k - 1) + 1000 * (s.fld F.MOT_CTL_HORIZON_US : Rat)
  let base := extendTo t sc.prof
  let cur := profAt base t
  let put (l : List Phase) (bind : Nat) (stop : Option Rat) : State :=
    { s with mot := { s.mot with scan := { sc with prof := l, bind := bind, stopFrom := stop } } }
  match action with
  | 1 => put (profCut t base ++ scanRamp t cur v s) 0 (if cur.v = 0 then none else sc.stopFrom)
  | 2 => put (stopProf t base s) 5 (some t)
  | 3 => put (profCut t base) 5 sc.stopFrom
  | 4 => resumeMove k v ({ s with lch := { s.lch with paused := none } }.setFld F.SLC_STATUS_PAUSED 0)
  | _ => s

/-- The standby's planner step (R462): the owner's messages of the ticks reached, then cruise or the ramp that runs. -/
def standbyStep (s : State) : State :=
  let now := s.ns / 10000
  let due := s.pair.trajs.filter fun x => decide (x.1 ≤ now)
  let s := { s with pair := { s.pair with trajs := s.pair.trajs.filter fun x => !decide (x.1 ≤ now) } }
  let s := due.foldl applyTraj s
  match s.mot.scan.state with
  | .run | .hold =>
    let new := tickNs now + 1000 * (s.fld F.MOT_CTL_HORIZON_US : Rat)
    if new ≤ s.mot.scan.e then s
    else if decide (s.slc.next > (s.lch.run.map (·.last)).getD 0) && s.mot.scan.bind == 5 then
      setScan .leadout { s with mot := { s.mot with scan := { s.mot.scan with stopping := true, e := new } } }
    else commitScan (extendTo new s.mot.scan.prof) new 0 s.mot.scan.bind s
  | .none | .approach | .ready | .pause | .leadout => s

/-- PLANNER_STEP (R334, R462). -/
def execPlannerStep (s : State) : Host.Outcome State Fault Refusal :=
  done s (match s.lch.run, currentLoaf s with
    | some _, some l =>
      if pairStandby s then standbyStep s
      else match s.mot.scan.state with
        | .run | .hold => blockedEnd (ownerStep l s)
        | .none | .approach | .ready | .pause | .leadout => s
    | _, _ => s)

/-- SLOW_HOLD_EXPIRE (R335). -/
def execSlowHoldExpire (s : State) : Host.Outcome State Fault Refusal :=
  done s ({ s with lch := { s.lch with slow := none } }.setFld F.TB_LAUNCH_STATUS_SLOW_REQ 0)

/-- RESUME_APPROACH_DONE (R338): SCAN becomes RUN and the planner proceeds from rest at Y_R. -/
def execResumeApproachDone (s : State) : Host.Outcome State Fault Refusal :=
  done s (match s.mot.moves.find? fun m => m.kind == .resume && !m.stopping with
    | none => s
    | some m =>
      let t := endMove m s
      let k := t.ns / 10000
      let h := 1000 * (t.fld F.MOT_CTL_HORIZON_US : Rat)
      let p0 := (t.axis 1).rest
      let sc := { t.mot.scan with state := .run, prof := [{ t0 := tickNs k, dur := h, p0 := p0, v0 := 0, a0 := 0, j := 0 }],
                                  e := tickNs k + h, stopping := false, stopFrom := none, bind := 6 }
      { t with mot := { t.mot with scan := sc } })

/-! Setpoint frames. -/

/-- The two words of an axis in a setpoint frame (R307). -/
def axisWords (k : Kin) : List Word :=
  [BitVec.ofInt 36 (ratRound k.p), BitVec.ofNat 36 (twos 20 (ratRound (k.v / 64)) * 2 ^ 16 + twos 16 (ratRound (k.a / 64)))]

/-- The planned state of an axis at an instant as the frame gives it (R307, R464). -/
def frameKin (t : Rat) (s : State) (a : Nat) : Kin :=
  let still (w : Word) : Kin := { p := (w.toInt : Rat), v := 0, a := 0 }
  match pairStandby s, s.pair.axes with
  | true, some (x, z, th) => if a = 0 then still x else if a = 2 then still z else if a = 3 then still th else planOf 1 t s
  | _, _ => planOf a t s

/-- The nine words of the setpoint frame of tick k (R307). -/
def setpointWords (k : Nat) (s : State) : List Word :=
  let w := allAxes.flatMap fun a => axisWords (frameKin (tickNs k) s a)
  w ++ [BitVec.ofNat 36 (k % 16 * 2 ^ 32 + (crc32c (packWords w)).toNat)]

/-- Does the device send setpoint frames (R464, R474, R484)? -/
def sendsFrames (s : State) : Bool :=
  !heldInReset s && s.pwr.driving && (!pairStandby s || (match s.mot.scan.state with
    | .run | .hold => true
    | .leadout => !(match s.lch.run with
      | some r => r.quiet && scanAtRest s
      | none => true)
    | .none | .approach | .ready | .pause => false))

/-- SETPOINT_FRAME_SEND (R307): the frame of the tick that lies SP_LEAD_US ahead. -/
def execSetpointFrameSend (s : State) : Host.Outcome State Fault Refusal :=
  done s (if !sendsFrames s then s
    else
      let k := frameTick s - 1
      let w := setpointWords k s
      emit (.setpoint k w) (allAxes.foldl (fun s a => s.setReg (A.MOT_AX_PLAN a) (nth 0 w (2 * a))) s))

end Sys2Proof.Machine
end

