-- ==== Sys2Proof/Machine/Links.lean ====
section
/-!
DEFINITION. The Plonus links (R341 to R372): training and lane assignment, the back-channel frames, lane failures, the loss of a
forwarded clock, loopbacks, and the pair link's lanes.
-/
namespace Sys2Proof.Machine

/-! The pair link goes down. -/

/-- A standby stops following (R474): its loaf ends without entries, and commands of the host that wait for the owner end with
BAD_STATE. -/
def unfollow (s : State) : State :=
  if !pairStandby s then s
  else
    let s := if s.pair.armWait.isSome then answerAll .host 0x13 stBadState [] { s with pair := { s.pair with armWait := none } } else s
    let s := if s.pair.startWait.isSome then answerAll .host 0x14 stBadState [] { s with pair := { s.pair with startWait := none } }
      else s
    quietEnd s

/-- The pair link goes down (R372, R388, R474): a formed pair becomes SPLIT, the owner goes on alone and drops the wait of R467. -/
def linkDown (s : State) : State :=
  let s := { s with lnk := { s.lnk with pair := { s.lnk.pair with up := false } } }
  let s := if s.pair.st = 2 then unfollow s else s
  let s := raise F.PAIR_EVT_LINK_DOWN { s with pair := { s.pair with unacked := [] } }
  let s := if s.pair.st = 2 then setPairSt 3 s else s
  checkElig (resetPort .partner s)

/-- Change the pair link; with no live lane in one direction it is down (R372). -/
def updPairLink (f : PairPhy → PairPhy) (s : State) : State :=
  let p := f s.lnk.pair
  let up := p.phase == 0 && p.clkOn && decide (p.tx ≠ 0 ∧ p.rx ≠ 0)
  let t := { s with lnk := { s.lnk with pair := { p with up := up } } }
  if s.lnk.pair.up && !up then linkDown { t with lnk := { t.lnk with pair := { p with up := true } } } else t

/-! The end of training. -/

/-- Are the groups and the pair link all trained, and does the boot wait for nothing else (R492)? -/
def bootReady (s : State) : Bool :=
  s.core == .boot && s.pwr.booting && s.lnk.drivers == 12 && s.lnk.pair.phase == 0 && (List.range 4).all fun g => (s.grp g).phase == 0

/-- The boot ends once the links have trained (R482, R492). -/
def bootEnd (s : State) : State :=
  if bootReady s then
    { s with core := if s.pwr.causes = 0 then .idle else .safe, pwr := { s.pwr with booting := false } }
  else s

/-- Are all eight active lanes of a group carried, with the group up (R355)? -/
def groupCarried (g : Nat) (s : State) : Bool := (s.grp g).up && (s.grp g).map.all (· != 0xF)

/-- A LINK_TRAIN whose trainings have ended replies (R355). -/
def trainReplies (s : State) : State :=
  let (now, later) := s.lnk.trains.partition fun c => c.left == 0
  now.foldl (fun s c =>
    answer c.port c.tag (if (bitsSet 4 c.groups).all fun g => groupCarried g s then stOk else stCheckFail) [] s)
    { s with lnk := { s.lnk with trains := later } }

/-- A LINK_LOOPBACK whose groups are trained again replies (R370, R393). -/
def loopReply (s : State) : State :=
  match s.lnk.loop with
  | some c => if c.left = some 0 then answer c.port c.tag stOk [] { s with lnk := { s.lnk with loop := none } } else s
  | none => s

/-- The training of group `g` (4 for the pair link) has ended. -/
def trainDone (g : Nat) (s : State) : State :=
  let drop (m : Nat) : Nat := if m.testBit g then m - 2 ^ g else m
  let l := { s.lnk with trains := s.lnk.trains.map fun c => { c with left := drop c.left },
                        loop := s.lnk.loop.map fun c => { c with left := c.left.map drop } }
  bootEnd (checkElig (loopReply (trainReplies { s with lnk := l })))

/-- Physical lanes of a group stop in the middle of what they send. -/
def cutLanes (g mask : Nat) (s : State) : State := (bitsSet 9 mask).foldl (fun s k => cutLane g k s) s

/-- Begin the training of an output group (R354, R355): its clock stops, and LNK_CTL takes effect (R375). -/
def startTraining (g : Nat) (s : State) : State :=
  let s := cutLanes g 511 (s.activate A.LNK_CTL)
  let coding := decide (s.act F.LNK_CTL_CODING = 1)
  let rate := s.act F.LNK_CTL_FB_RATE
  checkElig (s.updGrp g fun x => { x with phase := 1, failed := 0, up := false, clkOn := false, trained := 0,
                                          map := List.replicate 8 0xF, named := 0, coding := coding, rate := rate })

/-- Begin the training of the pair link's own direction (R456). -/
def startPairTraining (s : State) : State :=
  updPairLink (fun p => { p with phase := 2, failed := 0, tx := 0, rx := 0, clkOn := true, rxClk := false }) s

/-- The lanes of a group that passed its training. -/
def passedLanes (failed : Nat) : Nat := ((List.range 9).filter fun k => !failed.testBit k).foldl (fun m k => m + 2 ^ k) 0

/-- The assignment after training (R342, R355): the lowest failed lane moves to lane 8 when that passed. -/
def assignLanes (failed : Nat) : List Nat :=
  let lost := (List.range 8).filter failed.testBit
  (List.range 8).map fun m => if !failed.testBit m then m else if !failed.testBit 8 && lost.head? == some m then 8 else 0xF

/-- The mask of active lanes that an assignment leaves without a physical lane. -/
def unassigned (map : List Nat) : Nat := ((List.range 8).filter fun m => nth 0xF map m == 0xF).foldl (fun a m => a + 2 ^ m) 0

/-- Training of a group ends (R342, R355): the group is up where its clock still holds (R356, R361). -/
def finishTraining (g : Nat) (s : State) : State :=
  let failed := (s.grp g).failed
  let map := assignLanes failed
  let s := s.updGrp g fun x => { x with phase := 0, up := x.clkLock, named := 0, trained := passedLanes failed, map := map, dead := unassigned map }
  trainDone g (raiseIf (passedLanes failed != 511) F.LNK_EVT_TRAIN_FAIL s)

/-- A group fails its training (R354, R355): none of its lanes is carried. -/
def failTraining (g : Nat) (s : State) : State :=
  let s := s.updGrp g fun x => { x with phase := 0, trained := 0, map := List.replicate 8 0xF, dead := 255, up := false }
  trainDone g (raise F.LNK_EVT_TRAIN_FAIL s)

/-- The coders of a group's lanes begin anew at the block-lock phase (R347, R348). -/
def resetLines (g n : Nat) (s : State) : State :=
  (List.range n).foldl (fun s k =>
    { s with lnk := { s.lnk with lines := amPut (fun _ => Line.reset) s.lnk.lines (lineKey g k) Line.reset } }) s

/-- A phase of a group's training ends, with the lanes that failed in it (R354). -/
def groupPhase (g failed : Nat) (s : State) : State :=
  let fail (n : Nat) (x : Grp) : Grp := { x with phase := n, failed := x.failed ||| failed % 512 }
  match (s.grp g).phase with
  | 1 => s.updGrp g fun x => { x with phase := 2, clkOn := true }
  | 2 => s.updGrp g fun x => { x with phase := 3, clkLock := true }
  | 3 => resetLines g 9 (s.updGrp g (fail 4))
  | 4 => s.updGrp g (fail 5)
  | 5 => finishTraining g (s.updGrp g (fail 5))
  | _ => s

/-- Report the receive lanes to the partner (R349, R456). -/
def sendPairLink (s : State) : State :=
  (List.range 4).foldl (fun s k => sendBlock 4 k true (pairLinkPayload s.lnk.pair.rx s.lnk.pair.rxClk) s) s

/-- The receive lanes of the pair link that are in block lock, and the lock of the clock they are aligned to. -/
def setPairRx (failed : Nat) (s : State) : State :=
  let clk := !failed.testBit 8
  updPairLink (fun p => { p with rx := if clk then 15 - failed / 16 % 16 else 0, rxClk := clk }) s

/-- A phase of the pair link's training ends (R372, R456). Bits 3 to 0 of `failed` are lanes out, bits 7 to 4 lanes in that have no
block lock, and bit 8 the clock in that is not locked (DESIGN CHOICE, log 16). With no training of the own direction, the partner's direction has ended its own. -/
def pairPhase (failed : Nat) (s : State) : State :=
  match s.lnk.pair.phase with
  | 2 => updPairLink (fun p => { p with phase := 3 }) s
  | 3 => resetLines 4 4 (updPairLink (fun p => { p with phase := 4 }) s)
  | 4 => sendPairLink (setPairRx failed (updPairLink (fun p => { p with phase := 5, failed := failed % 16 }) s))
  | 5 =>
    let s := updPairLink (fun p => { p with phase := 0, failed := 0, tx := p.tx - (p.tx &&& (p.failed ||| failed % 16)),
                                            rx := p.rx - (p.rx &&& failed / 16 % 16) }) s
    trainDone 4 (raiseIf (s.lnk.pair.tx != 15 || s.lnk.pair.rx != 15) F.LNK_EVT_TRAIN_FAIL s)
  | _ => if s.lnk.pair.clkOn then sendPairLink (setPairRx failed s) else s

/-- TRAINING_PHASE_END (R354, R456). -/
def execTrainingPhaseEnd (g : Fin 5) (failed : BitVec 9) (s : State) : Host.Outcome State Fault Refusal :=
  done s (if g.val = 4 then pairPhase failed.toNat s else groupPhase g.val failed.toNat s)

/-- TRAINING_PHASE_TIMEOUT (R354): phases 1 and 2 fail the group, phases 3 and 4 the lanes that are late. -/
def execTrainingPhaseTimeout (g : Fin 5) (late : BitVec 9) (s : State) : Host.Outcome State Fault Refusal :=
  done s (if g.val = 4 then (if s.lnk.pair.phase = 4 then pairPhase late.toNat s else s)
    else match (s.grp g.val).phase with
      | 1 | 2 => failTraining g.val s
      | 3 | 4 => groupPhase g.val late.toNat s
      | _ => s)

/-! LINK_TRAIN and LINK_LOOPBACK. -/

/-- Does a loopback use a group (4 for the pair link), or does one of them train? -/
def linkBusy (groups : Nat) (pair : Bool) (s : State) : Bool :=
  match s.lnk.loop with
  | some c => decide (c.groups &&& groups ≠ 0) || (c.pair && pair)
  | none => false

/-- The body of LINK_TRAIN (R355, R394). -/
def bodyLinkTrain (r : Req) (s : State) : State :=
  let groups := r.fld 1 3 0
  let pair := decide (r.fld 1 4 4 = 1)
  if groups = 0 ∧ pair = false then refuse r stBadParam s
  else if linkBusy groups pair s then refuse r stBusy s
  else
    let c : TrainCmd := { port := r.port, tag := r.tag, groups := groups, pair := pair, left := groups + (if pair then 16 else 0) }
    let s := { s with lnk := { s.lnk with trains := s.lnk.trains ++ [c] } }
    let s := (bitsSet 4 groups).foldl (fun s g => startTraining g s) s
    if pair then startPairTraining s else s

/-- LINK_TRAIN (R355). -/
def execLinkTrain (p : Port) (h : Hdr) (w : List Word) (s : State) : Host.Outcome State Fault Refusal :=
  done s (takeReq bodyLinkTrain (mkReq p h 0x50 w) s)

/-- Groups that train now. -/
def trainingMask (s : State) : Nat := ((List.range 4).filter fun g => (s.grp g).phase != 0).foldl (fun m g => m + 2 ^ g) 0

/-- The body of LINK_LOOPBACK (R369, R370, R394): a group's clock stops and its lanes carry PRBS31. -/
def bodyLinkLoopback (r : Req) (s : State) : State :=
  let ms := r.fld 1 23 8
  let groups := r.fld 1 5 2
  let mode := r.fld 1 1 0
  let pair := decide (r.fld 1 6 6 = 1)
  if ms = 0 ∨ mode = 0 ∨ (mode = 3 ∧ groups ≠ 0) ∨ (mode ≠ 3 ∧ groups = 0 ∧ pair = false) then refuse r stBadParam s
  else if s.lnk.loop.isSome || decide (trainingMask s &&& groups ≠ 0) then refuse r stBusy s
  else
    let c : LoopCmd := { port := r.port, tag := r.tag, mode := mode, groups := groups, pair := pair || decide (mode = 3),
                         bc := decide (r.fld 1 7 7 = 1), left := none }
    let s := { s with lnk := { s.lnk with loop := some c } }
    checkElig ((bitsSet 4 groups).foldl (fun s g => s.updGrp g fun x =>
      { x with up := false, clkOn := false, trained := 0, map := List.replicate 8 0xF, named := 0 })
      ((bitsSet 4 groups).foldl (fun s g => cutLanes g 511 s) s))

/-- LINK_LOOPBACK (R370). -/
def execLinkLoopback (p : Port) (h : Hdr) (w : List Word) (s : State) : Host.Outcome State Fault Refusal :=
  done s (takeReq bodyLinkLoopback (mkReq p h 0x51 w) s)

/-- Bit errors found are measured, and so free values (R369). -/
def countErrors (f : Fld) (s : State) : State := let (n, s) := s.draw; s.bumpBy f n

/-- LNK_LANE.LB_ERR of a physical lane. -/
def lbErrFld (g k : Nat) : Fld := { addr := (F.LNK_LANE0_LB_ERR g).addr + 8 * k, hi := 35, lo := 18 }

/-- LNK_LANE.DISC of a physical lane. -/
def discFld (g k : Nat) : Fld := { addr := (F.LNK_LANE0_DISC g).addr + 8 * k, hi := 17, lo := 0 }

/-- LINK_LOOPBACK_END (R369, R370): the error counts, and the groups train again. -/
def execLinkLoopbackEnd (s : State) : Host.Outcome State Fault Refusal :=
  done s (match s.lnk.loop with
    | none => s
    | some c =>
      if c.left.isSome then s
      else
        let gs := bitsSet 4 c.groups
        let t := gs.foldl (fun s g => (List.range 9).foldl (fun s k => countErrors (lbErrFld g k) s) s) s
        let t := if c.pair then countErrors F.LNK_PAIR_ERR_ERRORS t else t
        let t := { t with lnk := { t.lnk with loop := some { c with left := some c.groups } } }
        loopReply (gs.foldl (fun s g => startTraining g s) t))

/-- The four lanes, or the one, of a driver set (R353), in the order in which the sets are switched on. -/
def driverSet (i : Nat) : List DriverLane :=
  if i = 0 then (List.range 4).map .clock
  else if i ≤ 9 then (List.range 4).map fun j => .data ((4 * (i - 1) + j) / 9) ((4 * (i - 1) + j) % 9)
  else if i = 10 then (List.range 4).map .pairData
  else [.pairClock]

/-- The lanes whose drivers are switched on (R353). -/
def driversOn (s : State) : List DriverLane := (List.range s.lnk.drivers).flatMap driverSet

/-- LANE_DRIVER_SET_ON (R353, R492): the next of twelve sets; after the last one everything trains. -/
def execLaneDriverSetOn (s : State) : Host.Outcome State Fault Refusal :=
  done s (if !s.pwr.booting || s.pwr.enabling || decide (s.pwr.clOn < 64) || decide (12 ≤ s.lnk.drivers) then s
    else
      let t := (driverSet s.lnk.drivers).foldl (fun s l => emit (.driver l) s) { s with lnk := { s.lnk with drivers := s.lnk.drivers + 1 } }
      if t.lnk.drivers = 12 then startPairTraining ([0, 1, 2, 3].foldl (fun s g => startTraining g s) t) else t)

/-! Pair lanes. -/

/-- PAIR_LINK (R456): the partner's receive lanes are the live lanes out. -/
def execPairLink (mask : BitVec 4) (clk : Bool) (s : State) : Host.Outcome State Fault Refusal :=
  done s (if s.lnk.pair.phase ≥ 4 ∨ (s.lnk.pair.phase = 0 ∧ s.lnk.pair.clkOn = true) then
    updPairLink (fun p => { p with tx := if clk then mask.toNat else 0 }) s else s)

/-- PAIR_LANE_BLOCK_LOCK_LOSS (R372): a lane in is dropped. -/
def execPairLaneBlockLockLoss (lane : Fin 4) (s : State) : Host.Outcome State Fault Refusal :=
  done s (updPairLink (fun p => { p with rx := p.rx - (p.rx &&& 2 ^ lane.val) }) s)

/-- PAIR_LINK_DOWN (R372, R474): every pair lane, and the clock in, is lost. -/
def execPairLinkDown (s : State) : Host.Outcome State Fault Refusal :=
  done s (updPairLink (fun p => { p with tx := 0, rx := 0, rxClk := false }) s)

/-! Lane failures. -/

/-- The group's spare is trained and carries nothing (R358). -/
def spareFree (g : Nat) (s : State) : Bool := (s.grp g).trained.testBit 8 && (carriedOn g 8 s).isNone

/-- An active lane has lost its physical lane (R358, R359, R470). A standby takes its epochs from the owner (R462). -/
def loseActive (g m : Nat) (s : State) : State :=
  let lam := 8 * g + m
  if spareFree g s then
    raise F.LNK_EVT_SPARE_USED (sendCtl g 8 (laneIdPayload g 8 lam true) (s.updGrp g fun x => { x with map := setNth x.map m 8, named := x.named - (x.named &&& 2 ^ 8) }))
  else
    let pass := pairOwner s && eligible s && running s
    let s := raise F.LNK_EVT_LANE_DEAD (s.updGrp g fun x => { x with map := setNth x.map m 0xF, dead := x.dead ||| 2 ^ m })
    checkElig (if jobLanes s ≤ lam ∨ s.lch.run.isNone = true ∨ pairStandby s = true then s
      else if pass then stopHand cTakeover (stopLoaf cTakeover false) none s
      else declareDead (2 ^ lam) s)

/-- Physical lanes fail (R357 to R360): those that had passed training; the lower active lane takes the spare. -/
def failLanes (g mask : Nat) (s : State) : State :=
  let hit := (List.range 9).filter fun k => mask.testBit k && (s.grp g).trained.testBit k
  let s := hit.foldl (fun s k => cutLane g k s) s
  let lost := (List.range 8).filter fun m => hit.contains (nth 0xF (s.grp g).map m)
  let s := s.updGrp g fun x => { x with trained := hit.foldl (fun t k => t - 2 ^ k) x.trained,
                                        map := x.map.map fun k => if hit.contains k then 0xF else k }
  let s := hit.foldl (fun s _ => raise F.LNK_EVT_LANE_FAIL s) s
  lost.foldl (fun s m => loseActive g m s) s

/-! The loss of a forwarded clock. -/

/-- A group's forwarded clock is lost while the group is up (R361). -/
def clockLost (g : Nat) (s : State) : State :=
  if !(s.grp g).up then s
  else
    let s := raise F.LNK_EVT_CLK_LOST (s.updGrp g fun x => { x with up := false })
    match s.lch.run with
    | some r =>
      if r.stop.isSome || s.lch.clkLoss.isSome || pairStandby s then s
      else { s with lch := { s.lch with clkLoss := some { group := g, reports := [], first := r.disposed } } }
    | none => s

/-- A CLK report of the lost group for the running loaf (R361). -/
def clkReport (g ord last : Nat) (s : State) : State :=
  match s.lch.clkLoss, s.lch.run with
  | some c, some r =>
    if c.group = g ∧ r.ord = ord then { s with lch := { s.lch with clkLoss := some { c with reports := c.reports ++ [last] } } } else s
  | _, _ => s

/-- CLK_FIRST_DECIDE (R361, R470). -/
def execClkFirstDecide (s : State) : Host.Outcome State Fault Refusal :=
  done s (match s.lch.clkLoss with
    | some c =>
      if c.reports.isEmpty || !running s then s
      else stopHand cInterlock (stopWith cInterlock (c.reports.foldl max 0 + 1)) none s
    | none => s)

/-- CLK_REPORT_TIMEOUT (R361, R470): FIRST is the first slice not launched when the loss was found, and a LOST entry follows. -/
def execClkReportTimeout (s : State) : Host.Outcome State Fault Refusal :=
  done s (match s.lch.clkLoss with
    | some c =>
      if !c.reports.isEmpty || !running s then s
      else commitEnt (lostEnt 1) (stopHand cInterlock (stopWith cInterlock c.first) none s)
    | none => s)

/-! Back-channel frames. -/

/-- A frame of a TYPE and payload length whose CRC-32C holds (R362, R363); `b` is TYPE, payload and CRC. -/
def bcFrameOk (type len : Nat) (b : List Byte) : Bool :=
  b.length == len + 5 && (nth 0 b 0).toNat == type && leNat (b.drop (len + 1)) == (crc32c (b.take (len + 1))).toNat

/-- `n` payload bytes of a frame from byte `i` on, least significant first (R363). -/
def bcField (b : List Byte) (i n : Nat) : Nat := leNat ((b.drop (i + 1)).take n)

/-- The data bytes of a frame up to its /T/ (K29.7), with nothing after it. -/
def bcBody : List BcChar → Option (List Byte)
  | [.k x y] => if x = 29 ∧ y = 7 then some [] else none
  | .d b :: r => (bcBody r).map (b :: ·)
  | _ => none

/-- The bytes of a frame between /S/ (K27.7) and /T/ (R362); none where a character is bad or out of place. -/
def bcBytes : List BcChar → Option (List Byte)
  | .k x y :: r => if x = 27 ∧ y = 7 then bcBody r else none
  | _ => none

/-- Take a back-channel frame: one with a bad character, CRC or TYPE is counted and ignored (R362). -/
def bcFrame (g type len : Nat) (chars : List BcChar) (act : List Byte → State → State) (s : State) : State :=
  match bcBytes chars with
  | some b =>
    if bcFrameOk type len b then
      act b ((s.bump (F.LNK_GRP_BC_GOOD g)).updGrp g fun x => { x with bcAt := some s.tb.ticks })
    else s.bump (F.LNK_GRP_BC_BAD g)
  | none => s.bump (F.LNK_GRP_BC_BAD g)

/-- Evaluate the plate temperature (R254): the soft state where PT has changed, the hard limit, and the end of a pause (R256). -/
def thermal (before : Int) (s : State) : State :=
  let s := if plateMax s = before then s else judgeSoft s
  if s.lch.paused.isSome && running s && s.lch.clkLoss.isNone && !pairStandby s &&
      decide (plateMax s < (4 * s.fld F.SLC_THERM_RESUME_T : Int)) then resumeScan s
  else if running s then judgeHard s else s

/-- Lost reports (R365). -/
def checkReports (g cnt : Nat) (s : State) : State :=
  let d := (cnt + 65536 - (s.grp g).disc) % 65536
  let s := s.setFld (F.LNK_GRP_DISC_DISC_CNT g) cnt
  if 1 ≤ d ∧ d ≤ 32767 then
    raise F.LNK_EVT_REPORT_LOST (commitEnt (lostEnt d) (s.updGrp g fun x => { x with disc := cnt }))
  else s

/-- Does a loopback run on the group? -/
def inLoopback (g : Nat) (s : State) : Bool :=
  match s.lnk.loop with
  | some c => c.left.isNone && c.groups.testBit g
  | none => false

/-- A valid STATUS frame (R365): readings, lane locks (R357), the clock (R361), lost reports, and the plate temperature (R254). -/
def takeStatus (g : Nat) (b : List Byte) (s : State) : State :=
  let before := plateMax s
  let p : Plate := { pt := sext 12 (bcField b 0 2), v := bcField b 2 2, stale := false }
  let s := { s with slc := { s.slc with plates := amPut (fun _ => Plate.reset) s.slc.plates g p } }
  let lock := (bcField b 8 1).testBit 0
  let quiet := decide ((s.grp g).phase ≠ 0) || inLoopback g s
  let s := s.updGrp g fun x => { x with clkLock := lock }
  let s := if quiet then s else failLanes g (511 - bcField b 6 2 % 512) s
  let s := if lock then s else clockLost g s
  thermal before (checkReports g (bcField b 9 2) s)

/-- STATUS (R363, R365). -/
def execStatus (g : Fin 4) (chars : List BcChar) (s : State) : Host.Outcome State Fault Refusal :=
  done s (bcFrame g.val 0x01 16 chars (takeStatus g.val) s)

/-- Part of a range of slices that an interval leaves. -/
def cutRange (x : Nat × Nat) (e : Nat × Nat) : List (Nat × Nat) :=
  if e.2 < x.1 ∨ x.2 < e.1 then [x]
  else (if x.1 < e.1 then [(x.1, e.1 - 1)] else []) ++ (if e.2 < x.2 then [(e.2 + 1, x.2)] else [])

/-- The slices of a range that no BLANKED or CANCELLED entry covers on a lane (R296). -/
def uncovered (id ord lam n1 n2 : Nat) (s : State) : List (Nat × Nat) :=
  let cover := (s.jnl ++ s.lch.openEnts ++ s.pair.mirror).filter fun e =>
    (e.kind == kBlanked || e.kind == kCancelled) && e.id == id && e.ord == ord % 2 ^ 12 && e.v.testBit lam
  cover.foldl (fun l e => l.flatMap fun x => cutRange x (e.n1, e.n2)) (if n2 < n1 then [] else [(n1, n2)])

/-- One run of slices that one active lane has to be charged with (R365). A standby keeps no such entry open (R461). -/
def chargeRun (ord id : Nat) (x : Nat × Nat × Nat) (s : State) : State :=
  (uncovered id ord x.1 x.2.1 x.2.2 s).foldl (fun s n =>
    let e : JEnt := { kind := kBlanked, cause := 3, id := id, ord := ord % 2 ^ 12, n1 := n.1, a := 0, n2 := n.2, b := 0, v := 2 ^ x.1 }
    if (s.lch.run.map (·.ord)) == some ord && !pairStandby s then recordRange e s else commitEnt e s) s

/-- Runs of consecutive slices of one active lane in a list of (slice, lane) in ascending slices. -/
def runsOf : List (Nat × Nat) → List (Nat × Nat × Nat) → List (Nat × Nat × Nat)
  | [], acc => acc.reverse
  | (n, lam) :: r, (l, a, b) :: acc => if l = lam ∧ n = b + 1 then runsOf r ((l, a, n) :: acc) else runsOf r ((lam, n, n) :: (l, a, b) :: acc)
  | (n, lam) :: r, [] => runsOf r [(lam, n, n)]

/-- Keep the last assignment of each slice in a list ordered by sending, ascending by slice. -/
def insSlice (x : Nat × Nat) : List (Nat × Nat) → List (Nat × Nat)
  | [] => [x]
  | y :: r => if x.1 < y.1 then x :: y :: r else if x.1 = y.1 then x :: r else y :: insSlice x r

/-- What a DISCARD charges (R365): the lane it names, or those that the physical lane carried. -/
def charges (g phys lane ord n1 n2 : Nat) (s : State) : List (Nat × Nat × Nat) :=
  if lane ≠ 0xFF then (if n2 < n1 then [] else [(lane % 32, n1, n2)])
  else
    let hits := s.lch.carried.filter fun c => c.1 == g && c.2.1 == phys && c.2.2.1 == ord && decide (n1 ≤ c.2.2.2.1 ∧ c.2.2.2.1 ≤ n2)
    runsOf (hits.foldl (fun l c => insSlice (c.2.2.2.1, c.2.2.2.2) l) []) []

/-- Reasons of a DISCARD that point to the lane (R357). -/
def lanePoints (reason : Nat) : Bool := reason == 1 || reason == 3 || reason == 4

/-- Count a DISCARD against the lane it names; ERR_LIMIT within 1 ms fail it (R357). -/
def countLane (g phys reason : Nat) (s : State) : State :=
  if 8 < phys then s
  else
    let s := s.bump (discFld g phys)
    let s := if (s.grp g).phase = 5 then s.updGrp g fun x => { x with failed := x.failed ||| 2 ^ phys } else s
    if !lanePoints reason then s
    else
      let now := s.tb.ticks
      let l := now :: (amGet (fun _ => []) (s.grp g).errAt phys).filter fun t => decide (now < t + 400000)
      let s := s.updGrp g fun x => { x with errAt := amPut (fun _ => []) x.errAt phys l }
      if s.fld F.LNK_CTL_ERR_LIMIT ≤ l.length then failLanes g (2 ^ phys) s else s

/-- A DISCARD of calibration slices arrives (R365, R420): during the exposure of a BEAMS capture it marks the attempt, and the frame that is
open then. -/
def discExposure (s : State) : State :=
  match s.cal.capt with
  | some c =>
    if c.kind = 0x03 ∧ c.raised = true ∧ s.cal.trig = true then
      { s with cal := { s.cal with capt := some { c with disc := true }, frame := s.cal.frame.map fun f => { f with disc := true } } }
    else s
  | none => s

/-- A valid DISCARD frame (R357, R361, R365, R420). -/
def takeDiscard (g : Nat) (b : List Byte) (s : State) : State :=
  let phys := bcField b 0 1
  let lane := bcField b 1 1
  let ord := bcField b 2 2
  let n1 := bcField b 4 4
  let n2 := bcField b 8 4
  let reason := bcField b 12 1
  let s := raise F.LNK_EVT_DISCARD s
  let s := s.setFld (F.LNK_GRP_DISC_DISC_RX g) ((s.fld (F.LNK_GRP_DISC_DISC_RX g) + 1) % 65536)
  let s := s.updGrp g fun x => { x with disc := (x.disc + 1) % 65536 }
  let s := if reason = 5 then clkReport g ord n2 (clockLost g s) else s
  let s := if ord = 0xFFFF then discExposure s
    else match s.lch.sentLoaves.find? (·.1 == ord), s.job with
      | some (_, id), some _ => (charges g phys lane ord n1 n2 s).foldl (fun s x => chargeRun ord id x s) s
      | _, _ => s
  countLane g phys reason s

/-- DISCARD (R363, R365). -/
def execDiscard (g : Fin 4) (chars : List BcChar) (s : State) : Host.Outcome State Fault Refusal :=
  done s (bcFrame g.val 0x02 13 chars (takeDiscard g.val) s)

/-- LANE_FAULT (R357, R363). -/
def execLaneFault (g : Fin 4) (chars : List BcChar) (s : State) : Host.Outcome State Fault Refusal :=
  done s (bcFrame g.val 0x03 2 chars (fun b s => failLanes g.val (if bcField b 0 1 ≤ 8 then 2 ^ bcField b 0 1 else 0) s) s)

/-- A TOKEN frame tells a new owner what fired (R473), and both what stands in PAIR_TKO_FIRED (R476). -/
def takeTokenFrame (ord n : Nat) (s : State) : State :=
  if awaitsToken s then
    match s.lch.run, s.pair.taking with
    | some r, some t =>
      if n ≠ 0xFFFFFFFF ∧ r.ord = ord then takeoverEnts (n + 1) false (s.setFld F.PAIR_TKO_FIRED_FIRED n)
      else takeoverEnts t.first true s
    | _, _ => s
  else match s.pair.handing with
    | some h => if h.passed ∧ h.ord = ord ∧ s.fld F.PAIR_TKO_FIRED_FIRED = 0xFFFFFFFF then s.setFld F.PAIR_TKO_FIRED_FIRED n else s
    | none => s

/-- TOKEN (R363, R454, R473): a device that is not in a pair takes no action on it. -/
def execToken (g : Fin 4) (chars : List BcChar) (s : State) : Host.Outcome State Fault Refusal :=
  done s (bcFrame g.val 0x04 7 chars (fun b s => if s.pair.st < 2 then s else takeTokenFrame (bcField b 1 2) (bcField b 3 4) s) s)

/-- BACK_CHANNEL_SILENT (R250, R254, R365): 1 ms without a valid STATUS, once for each silence. -/
def execBackChannelSilent (g : Fin 4) (s : State) : Host.Outcome State Fault Refusal :=
  let p := plateOf g.val s
  done s (if p.stale then s
    else
      let before := plateMax s
      let t := { s with slc := { s.slc with plates := amPut (fun _ => Plate.reset) s.slc.plates g.val { p with stale := true } } }
      let t := raise F.LNK_EVT_BC_LOST t
      thermal before (raiseIf (decide (g.val ∈ activeGroups t)) F.SLC_EVT_PLATE_STALE t))

end Sys2Proof.Machine
end

