-- ==== Sys2Proof/Machine/Reset.lean ====
section
/-!
DEFINITION. Power, reset and boot (R478 to R502): the reset sources, the journal dump and its restoration (R299, R446), the boot with
its slot selection (R490, R492), SAFE causes (R481, R482), adaptive voltage (R495), temperature (R497) and power failure (R498).
-/
namespace Sys2Proof.Machine

/-! The journal dump. -/

/-- The newest JNL_MARK that stands at the start of a half (R446). -/
def dumpMark (m : AMap Byte) : Option RecAt :=
  newestOf ((scanArea jnlArea m).filter fun r => r.valid && r.kind == 0x21 && (r.addr == jnlArea.half 0 || r.addr == jnlArea.half 1))

/-- The dump half (R446). -/
def dumpHalf (m : AMap Byte) : Option Nat := (dumpMark m).map fun r => jnlArea.halfOf r.addr

/-- The page after a half's JNL_MARK. -/
def dumpStart (h : Nat) : Nat := pageUp (jnlArea.half h + recBytes 0)

/-- Entries in records of up to 256 (R446). -/
def chunks : Nat → List JEnt → List (List JEnt)
  | 0, _ => []
  | fuel + 1, l => if l.isEmpty then [] else l.take 256 :: chunks fuel (l.drop 256)

/-- Write the records of a dump one after the other: FIRST and TOTAL stand in STAMP (R441). -/
def writeDump (total : Nat) : Nat → Nat → Nat → List (List JEnt) → State → State
  | _, _, _, [], s => s
  | addr, seq, first, c :: r, s =>
    let b := recordBytes 0x20 seq (first % 2 ^ 16 * 2 ^ 17 + total % 2 ^ 17) (c.flatMap JEnt.words)
    writeDump total (pageUp (addr + b.length)) (seq + 1) (first + c.length) r (programFlash addr b s)

/-- Dump the journal (R299, R446, R529): nothing where the half is not ready. -/
def dumpJournal (s : State) : State :=
  match s.nvm.jnlErased, dumpHalf s.nvm.flash with
  | true, some h =>
    let d := s.fld F.TB_JNL_DROP_DROPPED
    let extra := if d = 0 then [] else [lostEnt d]
    let recs := chunks (s.jnl.length + 1) s.jnl ++ (if d = 0 then [] else [extra])
    let total := s.jnl.length + extra.length
    let t := writeDump total (dumpStart h) (highSeq s.nvm.flash + 1) 0 recs s
    if recs.isEmpty then t else { t with nvm := { t.nvm with jnlErased := false } }
  | _, _ => s

/-- JOURNAL_DUMP (R299, R485, R498, R500): a running dump is not begun anew. -/
def execJournalDump (s : State) : Host.Outcome State Fault Refusal :=
  done s (if s.pwr.dump.isSome || s.pwr.failing then dumpJournal s else s)

/-- The cause of the reset that ends a dump (R500). -/
def dumpCause (s : State) : Option Nat :=
  if s.pwr.failing then some rstPwrFail
  else match s.pwr.dump with
    | some .soft => some rstSoft
    | some .wdog => some rstWdog
    | some .pwrFail => some rstPwrFail
    | none => none

/-- JOURNAL_DUMP_END (R485): the reset follows. -/
def execJournalDumpEnd (s : State) : Host.Outcome State Fault Refusal :=
  done s (match dumpCause s with
    | some c => deviceReset c s
    | none => s)

/-! Reset sources. -/

/-- RESET_N is asserted (R485). -/
def execResetN (s : State) : Host.Outcome State Fault Refusal := donePin s (if s.pins.resetN then s else deviceReset rstPin s)

/-- POWER (R485). -/
def execPower (s : State) : Host.Outcome State Fault Refusal := donePin s (deviceReset rstPower s)

/-- WDOG_RESET (R485, R486). -/
def execWdogReset (s : State) : Host.Outcome State Fault Refusal :=
  done s (if s.pwr.failing || s.pwr.dump.isSome then s else resetAfterDump .wdog rstWdog s)

/-- The body of RESET_SOFT (R399, R486). -/
def bodyResetSoft (r : Req) (s : State) : State :=
  let force := decide (r.fld 1 0 0 = 1)
  if (s.core = .armed ∨ s.core = .exposing) ∧ force = false then refuse r stBadState s
  else if !s.nvm.jnlErased then refuse r stBusy s
  else
    let s := if s.core = .exposing then stopLoaf cStop false s else s
    resetAfterDump .soft rstSoft (r.reply stOk [] s)

/-- RESET_SOFT (R399, R485). -/
def execResetSoft (p : Port) (h : Hdr) (w : List Word) (s : State) : Host.Outcome State Fault Refusal :=
  done s (takeReq bodyResetSoft (mkReq p h 0x7F w) s)

/-! Boot. -/

/-- A slot's header (R489): LEN, SEQ and CRC, where MAGIC, FORMAT and LEN hold. -/
def slotHeader (m : AMap Byte) (i : Nat) : Option (Nat × Nat × Nat) :=
  let w := wordsOf (flashBytes m (i * 0x800000) 18 ++ flashBytes m (i * 0x800000 + 18) 18)
  let w0 := nth 0 w 0
  let len := wbits (nth 0 w 1) 22 0
  if wbits w0 35 28 = 0xB7 ∧ wbits w0 27 20 = 0x01 ∧ 1 ≤ len ∧ len ≤ 8388576 then
    some (len, (nth 0 w 2).toNat, wbits (nth 0 w 3) 31 0)
  else none

/-- Does a slot's code match its CRC (R490)? -/
def slotGood (m : AMap Byte) (i : Nat) (h : Nat × Nat × Nat) : Bool :=
  decide ((crc32c (flashBytes m (i * 0x800000 + 32) h.1)).toNat = h.2.2)

/-- The candidates of a boot in the order in which they are tried (R490). -/
def slotOrder (s : State) : List (Nat × Nat × Nat × Nat) :=
  let bad := s.bit F.PWR_RST_CAUSE_BOOT_WDOG
  let c := [0, 1].filterMap fun i =>
    if bad && s.fld F.PWR_RST_CAUSE_LAST_SLOT == i then none else (slotHeader s.nvm.flash i).map fun h => (i, h)
  match c with
  | [a, b] => if a.2.2.1 < b.2.2.1 then [b, a] else [a, b]
  | l => l

/-- Select a slot (R490): PWR_BOOT and LAST_SLOT; answers whether one was booted. With RECOVERY_N low none is tried. -/
def selectSlot (s : State) : Bool × State :=
  let win := if s.pins.recovery then none else (slotOrder s).find? fun c => slotGood s.nvm.flash c.1 c.2
  match win with
  | some (i, _, seq, _) =>
    let s := (s.setFld F.PWR_BOOT_SLOT_OK (2 ^ i)).setFld F.PWR_BOOT_SLOT i
    (true, (s.setFld F.PWR_BOOT_SEQ (seq % 2 ^ 32)).setFld F.PWR_RST_CAUSE_LAST_SLOT i)
  | none => (false, s.setFld F.PWR_BOOT_RECOVERY 1)

/-- The PMBus step of the boot (R492 to R494): VOUT_MODE, which none of three attempts may give, and VOUT_COMMAND. -/
def bootPmbus (vout : Option (BitVec 8)) (ack : Bool) (s : State) : State :=
  let s := emit (.pmbus (s.fld F.PWR_PMB_ADDR) 0x20 0) s
  match vout with
  | none => pmbFail s
  | some b =>
    if b.toNat / 32 ≠ 0 then pmbFail s
    else
      let s := commandVdd 750 (s.setFld F.PWR_PMB_VOUT_N (b.toNat % 32))
      if ack then s else pmbFail s

/-- The newest trim and BEAMS records are applied (R442, R447). -/
def bootTrims (s : State) : State :=
  let m := s.nvm.flash
  let s := flagBad (scanArea trimArea m ++ scanArea tableArea m) s
  [0x10, 0x11, 0x12, 0x13, 0x14, 0x15, 0x03].foldl (fun s k => (applyNewest k s).2) s

/-- Both stacks are trained; pseudo-channels that find no working setting are retired from the start (R210, R215). The temperature at
which each stack trains is not told (a free value). -/
def bootHbm (failed : Nat) (s : State) : State :=
  let (a, s) := s.draw
  let (b, s) := s.draw
  let temp (p : Nat) : Int := sext 8 (if p < 32 then a else b)
  (List.range 64).foldl (fun s p =>
      let t := recordTraining p (!failed.testBit p) (temp p) s
      if failed.testBit p then retirePc p t else t)
    (s.setFld F.MEM_STATUS_LIVE 64)

/-- Restore the records of a pending dump (R299, R446). -/
def restoreDump (recs : List RecAt) (s : State) : State :=
  let good := recs.filter fun r => r.valid && r.kind == 0x20
  let ents := good.flatMap fun r =>
    let w := recPayload s.nvm.flash r
    (List.range (r.len / 4)).map fun i => JEnt.ofWords (w.drop (4 * i))
  let s := flagBad recs s
  let s := commitAll (ents.drop jnlCapacity) { s with jnl := ents.take jnlCapacity }
  let s := raise F.TB_JNL_STATUS_RESTORED s
  let lost := match good with
    | [] => 0xFFFFFFFF
    | r :: _ => r.stamp % 2 ^ 17 - ents.length
  if lost = 0 then s else commitEnt (lostEnt lost) (raise F.TB_JNL_STATUS_TRUNC s)

/-- The journal step of the boot (R299, R446). -/
def bootJournal (s : State) : State :=
  match dumpHalf s.nvm.flash with
  | none => s
  | some h =>
    let recs := (scanFrom jnlArea s.nvm.flash (jnlArea.half h + jnlArea.size) (jnlArea.size / 256) (dumpStart h)).1
    match recs.head? with
    | some r => if r.kind = 0x20 then restoreDump recs s else { s with nvm := { s.nvm with jnlErased := true } }
    | none => { s with nvm := { s.nvm with jnlErased := true } }

/-- BOOT (R492) up to the enabling of the clusters, or into RECOVERY (R491): RESET_N is deasserted, the outputs are configured. -/
def bootDevice (vout : Option (BitVec 8)) (ack : Bool) (hbmFailed : Nat) (s : State) : State :=
  let s := { s with pins := { s.pins with resetN := false }, pwr := { s.pwr with driving := true },
                    cmd := { s.cmd with uart := true } }
  let s := if s.pins.interlock then raise F.PWR_EVT_INTERLOCK (causeArises causeInterlock cInterlock s) else s
  let (ok, s) := selectSlot (bootPmbus vout ack s)
  let s := bootJournal (bootHbm hbmFailed (bootTrims s))
  if ok then { s with pwr := { s.pwr with booting := true, enabling := true } } else { s with core := .recovery }

/-- BOOT (R492). -/
def execBoot (vout : Option (BitVec 8)) (ack : Bool) (hbmFailed : BitVec 64) (s : State) : Host.Outcome State Fault Refusal :=
  let t := { s with pins := { s.pins with resetN := false } }
  donePin s (if s.core ≠ .boot ∨ s.pwr.driving = true ∨ heldInReset t = true then s else bootDevice vout ack hbmFailed.toNat s)

/-- JOURNAL_MARK_DONE (R446): the other half is erased and marked. -/
def execJournalMarkDone (s : State) : Host.Outcome State Fault Refusal :=
  done s (if s.nvm.jnlErased || !s.pwr.driving || s.pwr.failing || s.pwr.dump.isSome then s
    else
      let h := match dumpHalf s.nvm.flash with
        | some h => 1 - h
        | none => 0
      let seq := highSeq s.nvm.flash + 1
      let t := (List.range (jnlArea.size / 4096)).foldl (fun s i => eraseSector (jnlArea.half h + 4096 * i) s) s
      let t := programFlash (jnlArea.half h) (recordBytes 0x21 seq (t.ns % 2 ^ 36) []) t
      { t with nvm := { t.nvm with jnlErased := true } })

/-- CLUSTER_ENABLE_STEP (R35): the next cluster; a JOB_OPEN that waits for the last one proceeds (R496). -/
def execClusterEnableStep (s : State) : Host.Outcome State Fault Refusal :=
  done s (if !s.pwr.enabling then s
    else
      let n := s.pwr.clOn + 1
      tryOpenJob { s with pwr := { s.pwr with clOn := n, enabling := decide (n < 64) } })

/-! SAFE causes. -/

/-- A cause arises with its flag (R482, R501), unless it is present already. -/
def causeFlag (b stop : Nat) (f : Fld) (s : State) : State := if hasCause b s then s else raise f (causeArises b stop s)

/-- A BEAMS capture stops when INTERLOCK_N is asserted (R437). -/
def stopBeams (s : State) : State :=
  match s.cal.capt with
  | some c => if c.kind = 0x03 then stopCapt stDenied s else s
  | none => s

/-- INTERLOCK_N is asserted (R316, R324, R437, R481, R482): whatever CORE_STATE, every move stops and homing is aborted. -/
def execInterlockN (s : State) : Host.Outcome State Fault Refusal :=
  let t := { s with pins := { s.pins with interlock := true } }
  donePin s (if heldInReset s || !s.pwr.driving then t
    else armBroken (stopAllMotion (causeFlag causeInterlock cInterlock F.PWR_EVT_INTERLOCK (stopBeams t))))

/-- INTERLOCK_N counts as deasserted (R481). -/
def execInterlockDeassert (s : State) : Host.Outcome State Fault Refusal :=
  donePin s (causeClears causeInterlock { s with pins := { s.pins with interlock := false } })

/-- The corrected VDD_CORE sense (R439, R501 VMEAS_MV). -/
def takeVdd (raw : Nat) (s : State) : Int × State :=
  let v := senseOf s 4 raw
  (v, s.setFld F.PWR_STATUS_VMEAS_MV (satU 10 (max 0 v).toNat))

/-- CORE_UV (R482): the corrected sense has been below VMIN_MV − 30 mV for 10 µs. -/
def execCoreUv (raw : Nat) (s : State) : Host.Outcome State Fault Refusal :=
  let (v, t) := takeVdd raw s
  done s (if v < (t.fld F.PWR_AVS_CTL_VMIN_MV : Int) - 30 then causeFlag causeUv cInterlock F.PWR_EVT_CORE_UV t else t)

/-- CORE_UV_CLEAR (R482). -/
def execCoreUvClear (raw : Nat) (s : State) : Host.Outcome State Fault Refusal :=
  let (v, t) := takeVdd raw s
  done s (if (t.fld F.PWR_AVS_CTL_VMIN_MV : Int) ≤ v then causeClears causeUv t else t)

/-- The junction temperature (R497): the hottest bank. -/
def junction (s : State) : Int :=
  [s.sfld F.PWR_TEMP_T0, s.sfld F.PWR_TEMP_T1, s.sfld F.PWR_TEMP_T2, s.sfld F.PWR_TEMP_T3].foldl max (-256)

/-- HOT and THERM at a junction temperature (R482, R497). The clusters are enabled again once THERM clears. -/
def judgeJunction (s : State) : State :=
  let tj := junction s
  let warn : Int := s.fld F.PWR_THERM_WARN_C
  let s := if s.pwr.hot = false ∧ warn ≤ tj then raise F.PWR_EVT_HOT { s with pwr := { s.pwr with hot := true } }
    else if tj < warn - 5 then { s with pwr := { s.pwr with hot := false } }
    else s
  if (s.fld F.PWR_THERM_TRIP_C : Int) ≤ tj ∧ hasCause causeTherm s = false then
    sleepCore (causeFlag causeTherm cInterlock F.PWR_EVT_TRIP s)
  else if tj < warn - 5 ∧ hasCause causeTherm s = true then
    let s := causeClears causeTherm s
    if s.core = .recovery ∨ s.pwr.failing = true then s else wakeCore s
  else s

/-- BANK_SENSOR_READING (R497): a raw reading of a bank's sensor in 1/16 °C, corrected by its SENSE entry. -/
def execBankSensorReading (bank : Fin 4) (raw : Int) (s : State) : Host.Outcome State Fault Refusal :=
  let b := bank.val
  let f := if b = 0 then F.PWR_TEMP_T0 else if b = 1 then F.PWR_TEMP_T1 else if b = 2 then F.PWR_TEMP_T2 else F.PWR_TEMP_T3
  done s (judgeJunction (s.setFld f (twos 9 (satS 9 ((senseOf s b raw).fdiv 16)))))

/-! Adaptive core voltage. -/

/-- The highest voltage of the law (R495). -/
def avsTop (s : State) : Nat := if s.pwr.hot then s.fld F.PWR_THERM_VWARN_MV else s.fld F.PWR_AVS_CTL_VMAX_MV

/-- Is the planner limited by expansion in EXPOSING (R333, R495)? -/
def avsUrgent (s : State) : Bool :=
  s.core == .exposing && (match s.mot.scan.state with
    | .run | .hold => s.mot.scan.bind == 4 || s.mot.scan.bind == 5
    | .none | .approach | .ready | .pause | .leadout => false)

/-- The voltage that the law asks for (R495), from the sentinel rates of the clusters. -/
def avsNext (rates : List Nat) (s : State) : Nat :=
  let el := (List.range 64).filter fun c => clEligible c s
  let cap := (el.map fun c => nth 0 rates c).sum * 800 / s.fld F.PWR_AVS_LAW_S_REF
  let wait := ((List.range 64).map fun c => backlogOf c s).sum + ((s.plc.tiles.filter fun t => t.stage == .waiting).map (·.est)).sum
  let d := wait / s.fld F.PWR_AVS_LAW_DRAIN_US
  let m := s.fld F.PWR_AVS_LAW_MARGIN
  let step := s.fld F.PWR_AVS_CTL_STEP_MV
  let v : Int := s.pwr.vset
  let v : Int := if avsUrgent s then avsTop s else if cap * 256 < d * m then v + step else if 2 * d * m < cap * 256 then v - step else v
  (clampI v (s.fld F.PWR_AVS_CTL_VMIN_MV) (avsTop s)).toNat

/-- AVS_PERIOD (R494, R495): `rates` are the sentinel rates, `ack` whether the regulator took a command. Clusters that are off, or a trip,
hold the voltage (R496, R497). -/
def execAvsPeriod (rates : List Nat) (ack : Bool) (s : State) : Host.Outcome State Fault Refusal :=
  done s (if !s.bit F.PWR_AVS_CTL_EN || s.pwr.avsHold || coreOff s || hasCause causeTherm s || s.pwr.booting then s
    else
      let v := avsNext rates s
      if v = s.pwr.vset then s
      else if ack then commandVdd v s else pmbFail (commandVdd v s))

/-- Fault bits of STATUS_WORD: all but BUSY, OFF and POWER_GOOD# (PMBus 1.3). -/
def pmbFaults : Nat := 0xF73F

/-- PMBUS_STATUS_POLL (R493, R494): STATUS_WORD as read, or none of three attempts. -/
def execPmbusStatusPoll (status : Option (BitVec 16)) (s : State) : Host.Outcome State Fault Refusal :=
  let t := emit (.pmbus (s.fld F.PWR_PMB_ADDR) 0x79 0) s
  done s (match status with
    | none => pmbFail t
    | some w =>
      let t := t.setFld F.PWR_PMB_STATUS_WORD w.toNat
      if w.toNat &&& pmbFaults = 0 then t else pmbFail t)

/-- IDLE_OFF (R496). -/
def execIdleOff (s : State) : Host.Outcome State Fault Refusal :=
  done s (if s.core ≠ .idle ∨ s.fld F.PWR_IDLE_OFF_MS = 0 ∨ s.pwr.clOn < 64 ∨ s.plc.tiles.any (·.inFlight) = true ∨ capturing s = true then s
    else let t := sleepCore s; { t with pwr := { t.pwr with idleOff := true } })

/-! Power failure. -/

/-- The output lanes, clocks, pair link, PCIe and timing ports stop (R498 step 2): deliberate stops (R361). -/
def stopPorts (s : State) : State :=
  let s := [0, 1, 2, 3].foldl (fun s g => (cutLanes g 511 s).updGrp g fun x =>
    { x with phase := 0, up := false, clkOn := false, trained := 0, map := List.replicate 8 0xF, named := 0 }) s
  let s := updPairLink (fun p => { p with phase := 0, tx := 0, rx := 0, clkOn := false, rxClk := false }) s
  resetPort .host { s with lnk := { s.lnk with eth := 0, trains := [], loop := none } }

/-- PWR_FAIL_N abandons the memory test, and its results read zero (R526). -/
def abandonBist (s : State) : State :=
  if s.tst.bist then ({ s with tst := { bist := false } }.setReg A.TST_BIST_LO 0).setReg A.TST_BIST_HI 0 else s

/-- PWR_FAIL_N counts as asserted (R316, R324, R498, R500, R502): the ports that stop lose the flag's record with their queues. -/
def execPwrFail (s : State) : Host.Outcome State Fault Refusal :=
  done s (if s.pwr.failing then s
    else
      let t := abandonFlash (armBroken (stopAllMotion (causeArises causePwrFail cPwrFail s)))
      let t := raise F.PWR_EVT_PWR_FAIL { t with pwr := { t.pwr with failing := true, booting := false } }
      let t := wakeMemory (sleepCore (stopPorts (abandonBist t)))
      { t with pwr := { t.pwr with dump := some (t.pwr.dump.getD .pwrFail) } })

end Sys2Proof.Machine
end

