-- ==== Sys2Proof/Machine/Regs.lean ====
section
/-!
DEFINITION. Register reads (R13, R16, R266, R424, R439): the fields that show the state of the units, and the captures of a port.
-/
namespace Sys2Proof.Machine

/-- A bit as a number. -/
def bitN (b : Bool) : Nat := if b then 1 else 0

/-- A mask of `n` bits, bit i as `p i` tells. -/
def maskN (n : Nat) (p : Nat → Bool) : Nat := ((List.range n).filter p).foldl (fun m i => m + 2 ^ i) 0

/-- A word with some fields replaced. -/
def withFlds (w : Word) (l : List (Fld × Nat)) : Word := l.foldl (fun w x => setBits w x.1.hi x.1.lo x.2) w

/-- GLB_STATE.PAIR_ROLE (R41). -/
def pairRole (s : State) : Nat := if s.pair.own then 1 else if s.pair.st = 2 then 2 else 0

/-- Port code of a lock's holder, and the whole ms to its deadline (R417). -/
def leaseOwner (l : Option Lease) : Nat :=
  match l with
  | some x => portCode x.port
  | none => 0

/-- Whole ms to a lease's deadline, 0 when free (R417). -/
def leaseLeft (s : State) (l : Option Lease) : Nat :=
  match l with
  | some x => (x.deadline - s.tb.ticks) / 400000
  | none => 0

/-- The port of a number (R417). -/
def portOf (q : Nat) : Port := if q = 0 then .host else if q = 1 then .service else .partner

/-- Fields of GLB and CMD registers that show the state (R41, R417). -/
def shownCmd (addr : Nat) (s : State) : List (Fld × Nat) :=
  let q := (addr - 0x1060) / 8
  if addr = A.GLB_STATE then
    [(F.GLB_STATE_PAIR_ROLE, pairRole s), (F.GLB_STATE_BEAMS, if s.job.isSome then jobBeams s else 0),
     (F.GLB_STATE_CORE_STATE, s.core.code)]
  else if addr = A.CMD_LOCK then
    [(F.CMD_LOCK_EXP_OWNER, leaseOwner s.cmd.exp), (F.CMD_LOCK_CAL_OWNER, leaseOwner s.cmd.cal),
     (F.CMD_LOCK_EXP_LEFT_MS, leaseLeft s s.cmd.exp), (F.CMD_LOCK_CAL_LEFT_MS, leaseLeft s s.cmd.cal)]
  else if q < 3 ∧ addr = A.CMD_PORT_STATUS q then
    [(F.CMD_PORT_STATUS_UP q, bitN (portUp (portOf q) s)), (F.CMD_PORT_STATUS_IN_FLIGHT q, (flightsOf (portOf q) s).length),
     (F.CMD_PORT_STATUS_EVT_PEND q, (s.cmd.port (portOf q)).events.length)]
  else []

/-- Fields of PWR and TB registers that show the state (R301, R501). -/
def shownPwr (addr : Nat) (s : State) : List (Fld × Nat) :=
  if addr = A.PWR_STATUS then
    [(F.PWR_STATUS_VSET_MV, s.pwr.vset), (F.PWR_STATUS_CL_ON, s.pwr.clOn), (F.PWR_STATUS_IDLE_OFF, bitN s.pwr.idleOff),
     (F.PWR_STATUS_HOT, bitN s.pwr.hot), (F.PWR_STATUS_AVS_HOLD, bitN s.pwr.avsHold)]
  else if addr = A.PWR_SAFE then
    [(F.PWR_SAFE_PWR_FAIL, bitN (hasCause causePwrFail s)), (F.PWR_SAFE_CORE_UV, bitN (hasCause causeUv s)),
     (F.PWR_SAFE_THERM, bitN (hasCause causeTherm s)), (F.PWR_SAFE_INTERLOCK, bitN (hasCause causeInterlock s))]
  else if addr = A.TB_JNL_STATUS then [(F.TB_JNL_STATUS_COUNT, s.jnl.length)]
  else []

/-- The code of SCAN (R329). -/
def ScanState.code : ScanState → Nat
  | .none => 0 | .approach => 1 | .ready => 2 | .run => 3 | .hold => 4 | .pause => 5 | .leadout => 6

/-- BIND as shown: IDLE unless the scan runs or holds (R333, R339). -/
def bindShown (s : State) : Nat :=
  match s.mot.scan.state with
  | .run | .hold => s.mot.scan.bind
  | .none | .approach | .ready | .pause | .leadout => 6

/-- Is a debounced limit of the axis asserted (R321)? -/
def limitHold (a : Nat) (s : State) : Bool := (s.axis a).limP.deb || (s.axis a).limM.deb

/-- Fields of MOT registers that show the state (R339). -/
def shownMot (addr : Nat) (s : State) : List (Fld × Nat) :=
  let a := (addr - 0x4100) / 0x80
  if addr = A.MOT_STATUS then
    [(F.MOT_STATUS_MOVING, maskN 4 fun a => moving a s), (F.MOT_STATUS_HOMED, maskN 4 fun a => (s.axis a).homed),
     (F.MOT_STATUS_FAULTED, maskN 4 fun a => faulted a s), (F.MOT_STATUS_SCAN, s.mot.scan.state.code)]
  else if addr = A.MOT_PLAN_STATUS then
    let b := bindShown s
    [(F.MOT_PLAN_STATUS_V_TGT, if b = 5 ∨ b = 6 then 0 else s.mot.scan.vtgt), (F.MOT_PLAN_STATUS_BIND, b)]
  else if 0x4100 ≤ addr ∧ a < 4 ∧ addr = A.MOT_AX_STATUS a then
    [(F.MOT_AX_STATUS_MOVING a, bitN (moving a s)), (F.MOT_AX_STATUS_HOMED a, bitN (s.axis a).homed),
     (F.MOT_AX_STATUS_FAULTED a, bitN (faulted a s)), (F.MOT_AX_STATUS_HOMING a, bitN (homing a s)),
     (F.MOT_AX_STATUS_STOPPING a, bitN (stopShown a s)), (F.MOT_AX_STATUS_LIMIT_HOLD a, bitN (limitHold a s)),
     (F.MOT_AX_STATUS_LIM_P a, bitN (s.axis a).limP.deb), (F.MOT_AX_STATUS_LIM_M a, bitN (s.axis a).limM.deb)]
  else []

/-- The KIND of a flash job's calibration command, none for a TST operation. -/
def FlashJob.calKind : FlashJob → Option Nat
  | .tst _ _ => none
  | .store _ _ k _ => some k
  | .load _ _ k => some k
  | .compact _ _ _ => some 0xFE

/-- The KIND of the calibration command that runs, 0 for none (R450): a capture, RX_OFF, or the first flash command. -/
def calRunning (s : State) : Nat :=
  match s.cal.capt with
  | some c => c.kind
  | none => if s.cal.rxoff.isSome then 0x11 else ((s.nvm.jobs.filterMap (·.calKind)).head?).getD 0

/-- The KIND of the calibration command that waits under R436. -/
def calWaiting (s : State) : Nat :=
  match s.cal.waiting with
  | x :: _ => wbits (nth 0 x.w 0) 7 0
  | [] => 0

/-- Fields of CAM and CAL registers that show the state (R449, R450). While the device boots the flash has not been read. -/
def shownCal (addr : Nat) (s : State) : List (Fld × Nat) :=
  let m := s.nvm.flash
  if addr = A.CAM_COMMIT then [(F.CAM_COMMIT_PENDING, bitN (decide (0 < s.cal.commits))), (F.CAM_COMMIT_SEQ, s.cal.seq)]
  else if addr = A.CAL_STATUS then
    let run := calRunning s
    [(F.CAL_STATUS_KIND, if run = 0 then calWaiting s else run), (F.CAL_STATUS_RUNNING, bitN (run != 0)),
     (F.CAL_STATUS_PENDING, bitN !s.cal.waiting.isEmpty), (F.CAL_STATUS_CAND_DARK, bitN s.cal.candDark.isSome),
     (F.CAL_STATUS_CAND_FLAT, bitN s.cal.candFlat.isSome), (F.CAL_STATUS_CAND_BEAMS, bitN s.cal.candBeams.isSome)]
  else if addr = A.CAL_TRIM_DATA then
    let k := s.fld F.CAL_TRIM_SEL_KIND
    let i := s.fld F.CAL_TRIM_SEL_INDEX
    [(F.CAL_TRIM_DATA_DATA, if i < trimCount k then (s.trim k i).toNat else 0)]
  else if addr = A.CAL_NVM_STATUS ∧ s.core ≠ .boot then
    [(F.CAL_NVM_STATUS_TRIM_HALF, activeHalf trimArea m), (F.CAL_NVM_STATUS_TBL_HALF, activeHalf tableArea m),
     (F.CAL_NVM_STATUS_JNL_ERASED, bitN s.nvm.jnlErased), (F.CAL_NVM_STATUS_TRIM_FREE, freeKib trimArea m),
     (F.CAL_NVM_STATUS_TBL_FREE, freeKib tableArea m),
     (F.CAL_NVM_STATUS_JNL_HALF, if s.nvm.jnlErased then (dumpHalf m).getD 0 else 0)]
  else if addr = A.CAL_NVM_SEQ ∧ s.core ≠ .boot then [(F.CAL_NVM_SEQ_SEQ, highSeq m)]
  else []

/-- Kneaders of a cluster with a tile in flight (R27, R115 BUSY): a tile that has passed its check is in flight there no more, though its
collector slot is held until it commits (DEDUCED, log 88). -/
def clusterBusy (c : Nat) (s : State) : Nat := s.plc.tiles.countP fun t => t.cluster == c && t.stage == .taken

/-- Is a segment being decompressed (R84 ACTIVE)? One that waits for a slot is held at its handshake. -/
def decompressing (s : State) : Bool :=
  match s.loads with
  | ld :: _ => (match ld.seg with
    | some (_, waits) => !waits
    | none => false)
  | [] => false

/-- Fields of DGH and KNX registers that show the state (R84, R115). -/
def shownDgh (addr : Nat) (s : State) : List (Fld × Nat) :=
  let c := (addr - 0x10000) / 0x400
  if addr = A.DGH_STATUS then
    [(F.DGH_STATUS_ACTIVE, bitN (decompressing s)), (F.DGH_STATUS_SLOTS_FREE, (List.range 64).countP fun i => slotFree i s),
     (F.DGH_STATUS_NEXT_LOAF, bitN (decide (2 ≤ s.loaves.length))), (F.DGH_STATUS_NEXT_ROW, expectedRow s)]
  else if 0x10000 ≤ addr ∧ addr < 0x20000 ∧ addr = A.KNX_CL_STATUS c then
    [(F.KNX_CL_STATUS_OFFLINE c, s.act (F.KNX_CL_CTL_OFFLINE c)), (F.KNX_CL_STATUS_BUSY c, clusterBusy c s),
     (F.KNX_CL_STATUS_CHECKING c, bitN (s.plc.tiles.any fun t => t.cluster == c && t.stage == .taken && t.asum.isNone))]
  else []

/-- Is a loaf the armed or the running one (R175, R133)? -/
def loafLive (ord : Nat) (s : State) : Bool := armedOrd s == some ord

/-- VALID and RUNNING of a window half (R182). -/
def halfShown (h : Nat) (s : State) : Nat × Nat :=
  match s.loaves.find? (·.half == h) with
  | some l => (1, bitN (loafLive l.ord s))
  | none => (0, 0)

/-- Fields of PLC and PRF registers that show the state (R149, R182). -/
def shownPlc (addr : Nat) (s : State) : List (Fld × Nat) :=
  let c := (addr - 0x20100) / 8
  if addr = A.PLC_FRONT then
    let (v, b) := match currentLoaf s with
      | some l => (armedOrd s == some l.ord && !l.discard, l.blocked)
      | none => (false, false)
    [(F.PLC_FRONT_VALID, bitN v), (F.PLC_FRONT_BLOCKED, bitN b), (F.PLC_FRONT_READY_ROW, s.plc.front)]
  else if addr = A.PLC_STATUS then
    [(F.PLC_STATUS_IN_FLIGHT, s.plc.tiles.countP (·.kneader.isSome)),
     (F.PLC_STATUS_WAITERS, s.plc.tiles.countP fun t => timedWait t s),
     (F.PLC_STATUS_PC_LIVE, (livePcs s).length), (F.PLC_STATUS_CL_ELIGIBLE, (List.range 64).countP fun c => clEligible c s)]
  else if 0x20100 ≤ addr ∧ c < 64 ∧ addr = A.PLC_CL_RATE c then
    [(F.PLC_CL_RATE_STRIKES c, amGet (fun _ => 0) s.plc.strikes c), (F.PLC_CL_RATE_RATE c, satU 14 (rateOf c s)),
     (F.PLC_CL_RATE_BACKLOG c, satU 18 (backlogOf c s / 16))]
  else if addr = A.PRF_ACTIVE then
    [(F.PRF_ACTIVE_RING_PC_MIB, s.act F.PRF_CTL_RING_PC_MIB), (F.PRF_ACTIVE_LEVEL, s.act F.PRF_CTL_LEVEL),
     (F.PRF_ACTIVE_MODE, bitN (s.job.isSome && streamMode s))]
  else if addr = A.PRF_STATUS then
    [(F.PRF_STATUS_FREE_PAGES, freePages s), (F.PRF_STATUS_STOPPED, s.plc.tiles.countP (·.stage == .stopped))]
  else if addr = A.PRF_RING then [(F.PRF_RING_RING_PAGES, ringPages s)]
  else if addr = A.PRF_WIN_0 then let x := halfShown 0 s; [(F.PRF_WIN_0_VALID, x.1), (F.PRF_WIN_0_RUNNING, x.2)]
  else if addr = A.PRF_WIN_1 then let x := halfShown 1 s; [(F.PRF_WIN_1_VALID, x.1), (F.PRF_WIN_1_RUNNING, x.2)]
  else []

/-- Are both stacks in self-refresh (R220)? -/
def selfRefresh (s : State) : Bool := s.mem.sr == .asleep

/-- Fields of MEM and SLC registers that show the state (R222, R223, R262). -/
def shownMem (addr : Nat) (s : State) : List (Fld × Nat) :=
  let p := (addr - 0x30000) / 0x200
  let g := (addr - 0x40030) / 0x100
  if addr = A.MEM_STATUS then [(F.MEM_STATUS_SR, bitN (selfRefresh s))]
  else if 0x30000 ≤ addr ∧ p < 64 ∧ addr = A.MEM_PC_STATUS p then
    [(F.MEM_PC_STATUS_RETIRED p, bitN (s.pc p).retired), (F.MEM_PC_STATUS_TRAINING p, bitN (s.pc p).training),
     (F.MEM_PC_STATUS_RETRAIN_DUE p, bitN (s.pc p).due), (F.MEM_PC_STATUS_SELF_REF p, bitN (selfRefresh s)),
     (F.MEM_PC_STATUS_POSTPONED p, (s.pc p).postponed), (F.MEM_PC_STATUS_ENTRIES p, (s.pc p).txns.length)]
  else if addr = A.SLC_STATUS then
    [(F.SLC_STATUS_SOFT, bitN s.slc.soft), (F.SLC_STATUS_EPOCHS, s.slc.epochs.length),
     (F.SLC_STATUS_ENGINES, if s.job.isSome then jobLanes s else 0)]
  else if addr = A.SLC_PERIOD then [(F.SLC_PERIOD_MIN_NS, periodMin s)]
  else if 0x40030 ≤ addr ∧ g < 4 ∧ addr = A.SLC_KT g then [(F.SLC_KT_PT g, twos 12 (plateOf g s).pt)]
  else []

/-- Fields of LNK registers that show the state (R375). -/
def shownLnk (addr : Nat) (s : State) : List (Fld × Nat) :=
  let g := (addr - 0x50100) / 0x100
  let q := (addr - 0x50600) / 0x40
  if addr = A.LNK_STATUS then
    [(F.LNK_STATUS_GRP_UP, maskN 4 fun g => (s.grp g).up), (F.LNK_STATUS_CLK_ON, maskN 4 fun g => (s.grp g).clkOn),
     (F.LNK_STATUS_BC_OK, maskN 4 fun g => bcOk g s), (F.LNK_STATUS_PAIR_TX, s.lnk.pair.tx), (F.LNK_STATUS_PAIR_RX, s.lnk.pair.rx),
     (F.LNK_STATUS_ETH_UP, s.lnk.eth), (F.LNK_STATUS_CODING, s.act F.LNK_CTL_CODING), (F.LNK_STATUS_FB_RATE, s.act F.LNK_CTL_FB_RATE)]
  else if addr = A.LNK_FB_MIN then [(F.LNK_FB_MIN_MIN_NS, fbMinNs s)]
  else if addr = A.LNK_LB then
    match s.lnk.loop with
    | some l => if l.left.isNone then
        [(F.LNK_LB_MODE, l.mode), (F.LNK_LB_GROUPS, l.groups), (F.LNK_LB_PAIR, bitN l.pair)] else []
    | none => []
  else if 0x50100 ≤ addr ∧ g < 4 ∧ addr = A.LNK_GRP_STATUS g then
    [(F.LNK_GRP_STATUS_TRAINED g, (s.grp g).trained), (F.LNK_GRP_STATUS_DEAD g, (s.grp g).dead),
     (F.LNK_GRP_STATUS_SPARE_FOR g, (carriedOn g 8 s).getD 0xF), (F.LNK_GRP_STATUS_CLK_LOCK g, bitN (s.grp g).clkLock)]
  else if 0x50100 ≤ addr ∧ g < 4 ∧ addr = A.LNK_GRP_MAP g then
    [(F.LNK_GRP_MAP_MAP g, (s.grp g).map.foldr (fun x n => x + 16 * n) 0)]
  else if 0x50600 ≤ addr ∧ q < 2 ∧ addr = A.LNK_ETH_STATUS q then [(F.LNK_ETH_STATUS_UP q, bitN (s.lnk.eth.testBit q))]
  else []

/-- Fields of PAIR and TST registers that show the state (R476, R527). -/
def shownPair (addr : Nat) (s : State) : List (Fld × Nat) :=
  if addr = A.PAIR_STATUS then
    [(F.PAIR_STATUS_SIDE, bitN s.pins.sideB), (F.PAIR_STATUS_OWN, bitN s.pair.own), (F.PAIR_STATUS_PEER_OWN, bitN s.pins.peerOwn),
     (F.PAIR_STATUS_STATE, s.pair.st), (F.PAIR_STATUS_ELIGIBLE, bitN (eligible s)), (F.PAIR_STATUS_WHY, whyOf s)]
  else if addr = A.TST_BIST then [(F.TST_BIST_BUSY, bitN s.tst.bist)]
  else []

/-- The fields of a register that show the state of a unit; the others are stored. -/
def shown (addr : Nat) (s : State) : List (Fld × Nat) :=
  if addr < 0x2000 then shownCmd addr s
  else if addr < 0x4000 then shownPwr addr s
  else if addr < 0x5000 then shownMot addr s
  else if addr < 0x8000 then shownCal addr s
  else if addr < 0x20000 then shownDgh addr s
  else if addr < 0x30000 then shownPlc addr s
  else if addr < 0x50000 then shownMem addr s
  else if addr < 0x60000 then shownLnk addr s
  else shownPair addr s

/-- The value of a register without the captures of a port (R13, R16, R39): 0 where no register stands. -/
def regValue (addr : Nat) (s : State) : Word :=
  if (regRow addr).isNone then 0 else withFlds (s.getReg addr) (shown addr s)

/-- The bytes of a register's slot in BAR0: 8 bytes, little-endian, bits 63:36 zero (R10). -/
def slotBytes (w : Word) : List Byte := leBytes 8 w.toNat

/-- Capture the clock for a port (R266). -/
def captureTime (p : Port) (s : State) : State := { s with cmd := s.cmd.updPort p fun x => { x with capt := s.tb.t } }

/-- Capture the statistics of the last finished frame for a port (R424). -/
def captureFstat (p : Port) (s : State) : State :=
  { s with cmd := s.cmd.updPort p fun x => { x with fstat := [s.getReg A.CAM_FSTAT0, s.getReg A.CAM_FSTAT1, s.getReg A.CAM_FSTAT2,
                                                              s.getReg A.CAM_FSTAT3] } }

/-- The captured words of a port that its reads return (R266, R424). -/
def captured (p : Port) (addr : Nat) (s : State) : Option Word :=
  let c := (s.cmd.port p).capt
  let f := (s.cmd.port p).fstat
  if addr = A.TB_TIME_LO then some (c.extractLsb' 32 36)
  else if addr = A.TB_TIME_HI then some ((c.extractLsb' 68 28).setWidth 36)
  else if addr = A.TB_TIME_FRAC then some ((c.extractLsb' 0 32).setWidth 36)
  else if addr = A.CAM_FSTAT0 then some (nth 0 f 0)
  else if addr = A.CAM_FSTAT1 then some (nth 0 f 1)
  else if addr = A.CAM_FSTAT2 then some (nth 0 f 2)
  else if addr = A.CAM_FSTAT3 then some (nth 0 f 3)
  else none

/-- A port reads a register (R401): its value, and the state with what the read captures. -/
def readReg (p : Port) (addr : Nat) (s : State) : Word × State :=
  let s := if addr = A.TB_TIME_LO then captureTime p s else if addr = A.CAM_FSTAT0 then captureFstat p s else s
  ((captured p addr s).getD (regValue addr s), s)

/-- A port reads successive registers (R394). -/
def readRegs (p : Port) : Nat → Nat → State → List Word × State
  | 0, _, s => ([], s)
  | n + 1, addr, s =>
    let (v, s) := readReg p addr s
    let (l, s) := readRegs p n (addr + 8) s
    (v :: l, s)

end Sys2Proof.Machine
end

