-- ==== Sys2Proof/Machine/Writes.lean ====
section
/-!
DEFINITION. Register writes: who may write (R403), the values refused (R22, R42 and the register tables), the field types (R13, R14),
and the registers whose writes do more than store (R117, R129, R265 to R267, R325, R385, R389, R404, R416, R423, R439, R483, R524 to R527).
-/
namespace Sys2Proof.Machine

/-- Count a rejected access and record it (R12, R39, R40, R42). -/
def badAccess (kind addr : Nat) (s : State) : State :=
  let s := s.bump F.GLB_BAD_ACCESS_CNT_COUNT
  ((s.setFld F.GLB_BAD_ACCESS_ADDR_VALID 1).setFld F.GLB_BAD_ACCESS_ADDR_KIND kind).setFld F.GLB_BAD_ACCESS_ADDR_ADDR addr

/-- May a port write a register (R403)? `none` where it may, else the status of the refusal. No block, no writers: R39 decides there. -/
def writeRight (p : Port) (addr : Nat) (s : State) : Option Nat :=
  if p = .partner then some stDenied
  else if (blockRows addr).isNone then none
  else if addr = A.CMD_GRANT then if p = .service then none else some stDenied
  else if addr < 0x3000 then none
  else if 0x5000 ≤ addr ∧ addr < 0x7000 then
    if !calRight p s then some stDenied else if !holds p 1 s then some stLocked else none
  else if 0x70000 ≤ addr then if p = .service then none else some stDenied
  else if p = .host then none else some stDenied

/-- A write refused for want of a right (R403). -/
def denyWrite (p : Port) (addr : Nat) (s : State) : State :=
  let s := ((s.bump F.CMD_DENY_COUNT).setFld F.CMD_DENY_PORT (portCode p)).setFld F.CMD_DENY_ADDR addr
  raise F.CMD_EVT_DENY s

/-- The KIND that CAL_TRIM_SEL holds after a write: an entry's KIND is taken, another leaves the field unchanged (R22, R439). -/
def trimKindAfter (v : Word) (s : State) : Nat :=
  if trimCount (wbits v 35 28) = 0 then s.fld F.CAL_TRIM_SEL_KIND else wbits v 35 28

/-- Does an operation of TST_FLASH_CMD wait or run (R527)? -/
def flashBusy (s : State) : Bool := s.bit F.TST_FLASH_CMD_BUSY

/-- Writes that a register refuses whole for their value or the state they find (R524, R526, R527); CAL_TRIM_DATA while CAL_TRIM_SEL
selects no entry of R439's table (DESIGN CHOICE, log 59). -/
def refusesWhole (addr : Nat) (v : Word) (s : State) : Bool :=
  if addr = A.TST_FLASH_ADDR then flashBusy s
  else if addr = A.TST_FLASH_CMD then flashBusy s || !(decide (1 ≤ wbits v 35 33 ∧ wbits v 35 33 ≤ 3))
  else if 0x70100 ≤ addr then flashBusy s
  else if addr = A.TST_BIST then v.getLsbD 35 && s.core != .idle
  else if addr = A.CAL_TRIM_DATA then decide (trimCount (s.fld F.CAL_TRIM_SEL_KIND) ≤ s.fld F.CAL_TRIM_SEL_INDEX)
  else false

/-- Does a field take its value of a written word in the present state, beyond its range (R265, R417, R439)? CAL_TRIM_SEL.INDEX is judged
with the KIND that the register then holds (DESIGN CHOICE, log 59). -/
def valueOk (addr : Nat) (f : FieldRow) (w : Word) (s : State) : Bool :=
  let v := wbits w f.hi f.lo
  let same := decide (v = wbits (s.getReg addr) f.hi f.lo)
  let ring := same || !s.bit F.CMD_Q_CTL_EN
  if addr = A.CMD_SQ_LO ∨ addr = A.CMD_CQ_LO then ring && decide (v % 4096 = 0)
  else if addr = A.CMD_SQ_HI ∨ addr = A.CMD_CQ_HI then ring
  else if addr = A.CMD_Q_CTL then f.lo == 35 || ring
  else if addr = A.TB_INC then clockFree s && decide (0x27F5C28F6 ≤ v ∧ v ≤ 0x280A3D70A)
  else if addr = A.CAL_TRIM_SEL then f.lo != 0 || decide (v < trimCount (trimKindAfter w s))
  else true

/-- One field of a write (R13, R14, R42): the word so far and whether a value has been refused. -/
def takeField (ok : FieldRow → Bool) (v : Word) (x : Word × Bool) (f : FieldRow) : Word × Bool :=
  let n := wbits v f.hi f.lo
  match f.acc with
  | .ro | .wo => x
  | .w1c => (setBits x.1 f.hi f.lo (wbits x.1 f.hi f.lo - (wbits x.1 f.hi f.lo &&& n)), x.2)
  | .rw | .sh => if f.rng.ok n && ok f then (setBits x.1 f.hi f.lo n, x.2) else (x.1, true)

/-- The fields of a write, one after the other. -/
def takeFields (ok : FieldRow → Bool) (fs : List FieldRow) (v old : Word) : Word × Bool :=
  fs.foldl (takeField ok v) (old, false)

/-- A field of a word that a register would hold. -/
def inWord (w : Word) (f : Fld) : Nat := wbits w f.hi f.lo

/-- The relations between fields that the register descriptions state (R262, R301, R339, R476, R501). -/
def relationOk (addr : Nat) (w : Word) (s : State) : Bool :=
  let g := inWord w
  if addr = A.SLC_THERM then
    decide (g F.SLC_THERM_RESUME_T < g F.SLC_THERM_SOFT_T ∧ g F.SLC_THERM_SOFT_T < g F.SLC_THERM_HARD_T)
  else if addr = A.TB_LAUNCH_CTL then decide (g F.TB_LAUNCH_CTL_CXL_NS < g F.TB_LAUNCH_CTL_WINDOW_NS)
  else if addr = A.MOT_CTL then decide (g F.MOT_CTL_SP_LEAD_US < g F.MOT_CTL_HORIZON_US)
  else if addr = A.MOT_AX_JERK 1 then
    decide (g (F.MOT_AX_JERK_J_MOVE 1) ≤ g (F.MOT_AX_JERK_J_STOP 1) ∧ s.fld F.MOT_SCAN_LIM_J_SCAN ≤ g (F.MOT_AX_JERK_J_STOP 1))
  else if addr = A.MOT_AX_JERK 0 ∨ addr = A.MOT_AX_JERK 2 ∨ addr = A.MOT_AX_JERK 3 then
    decide (g (F.MOT_AX_JERK_J_MOVE 0) ≤ g (F.MOT_AX_JERK_J_STOP 0))
  else if addr = A.MOT_SCAN_LIM then decide (g F.MOT_SCAN_LIM_J_SCAN ≤ s.fld (F.MOT_AX_JERK_J_STOP 1))
  else if addr = A.PWR_AVS_CTL then
    decide (g F.PWR_AVS_CTL_VMIN_MV < g F.PWR_AVS_CTL_VMAX_MV ∧ g F.PWR_AVS_CTL_VMIN_MV ≤ s.fld F.PWR_THERM_VWARN_MV ∧
      s.fld F.PWR_THERM_VWARN_MV ≤ g F.PWR_AVS_CTL_VMAX_MV)
  else if addr = A.PWR_THERM then
    decide (g F.PWR_THERM_WARN_C < g F.PWR_THERM_TRIP_C ∧ s.fld F.PWR_AVS_CTL_VMIN_MV ≤ g F.PWR_THERM_VWARN_MV ∧
      g F.PWR_THERM_VWARN_MV ≤ s.fld F.PWR_AVS_CTL_VMAX_MV)
  else if addr = A.PAIR_CTL then decide (g F.PAIR_CTL_BEAT_US < 1000 * g F.PAIR_CTL_TOKEN_MS)
  else true

/-- The axis whose MOT_AX_FAULT stands at an address, or a number above 3. -/
def faultAxis (addr : Nat) : Nat := if addr < 0x4160 then 4 else if (addr - 0x4160) % 0x80 = 0 then (addr - 0x4160) / 0x80 else 4

/-- Has a limit input of the axis made a debounced transition within the last 100 ms (R325)? -/
def lateMoves (a : Nat) (s : State) : Bool :=
  ((s.axis a).limP.moves ++ (s.axis a).limM.moves).any fun t => decide (s.tb.ticks - t ≤ 40000000)

/-- The bits of a write to MOT_AX_FAULT that are not ignored (R325). -/
def faultBits (a : Nat) (v : Word) (s : State) : Word :=
  let v := if lateMoves a s then setBits v 2 2 0 else v
  if (s.axis a).alive then v else setBits v 5 5 0

/-- The value of a write with the bits that its register ignores left out. -/
def heeded (addr : Nat) (v : Word) (s : State) : Word := if faultAxis addr < 4 then faultBits (faultAxis addr) v s else v

/-- The VALID field of an error record at an address (R84, R113, R182, R209, R476). -/
def recordValid (addr : Nat) : Option Fld :=
  if addr = A.DGH_ERR then some F.DGH_ERR_VALID
  else if 0x10000 ≤ addr ∧ addr < 0x20000 then
    if addr % 0x400 = 0x20 then some (F.KNX_CL_MIS_VALID ((addr - 0x10000) / 0x400)) else none
  else if addr = A.PRF_STALL then some F.PRF_STALL_VALID
  else if addr = A.PRF_ERR then some F.PRF_ERR_VALID
  else if 0x30000 ≤ addr ∧ addr < 0x38000 then
    if addr % 0x200 = 0x10 then some (F.MEM_PC_UE_VALID ((addr - 0x30000) / 0x200)) else none
  else if addr = A.PAIR_DIFF then some F.PAIR_DIFF_VALID
  else none

/-- Does the register hold the occurrence counters of the flags before it (R416)? -/
def isCounters (addr : Nat) : Bool :=
  match flagCounter (addr - 8) 0 with
  | some f => f.addr == addr
  | none => false

/-- A write of 1 to a CLEAR field (R41, R113, R416); that of TB_EVT_CNT zeroes the counters of RESTORED and TRUNC too (R301, R302). -/
def clearWritten (addr : Nat) (s : State) : State :=
  if addr = A.GLB_BAD_ACCESS_CNT then (s.setFld F.GLB_BAD_ACCESS_CNT_COUNT 0).setFld F.GLB_BAD_ACCESS_ADDR_VALID 0
  else match recordValid addr with
    | some f => s.setFld f 0
    | none =>
      if addr = A.TB_EVT_CNT then ((s.setReg addr 0).setFld F.TB_JNL_STATUS_RESTORED_CNT 0).setFld F.TB_JNL_STATUS_TRUNC_CNT 0
      else if isCounters addr then s.setReg addr 0 else s

/-- Does a TST operation lie in the slot that was booted (R489, R524)? -/
def bootedSlot (addr : Nat) (s : State) : Bool := decide (addr / 0x800000 = s.fld F.PWR_BOOT_SLOT) && !s.bit F.PWR_BOOT_RECOVERY

/-- TST_FLASH_CMD.OP (R524): the operation is refused, or waits for the flash. -/
def flashCommand (op : Nat) (s : State) : State :=
  let a := s.fld F.TST_FLASH_ADDR_ADDR
  if (if op = 3 then a % 4096 ≠ 0 else a % 256 ≠ 0) ∨ 0x1000000 ≤ a ∨ (op ≠ 1 ∧ bootedSlot a s = true) then
    s.setFld F.TST_FLASH_CMD_RESULT 1
  else queueJob (.tst op a) 0 (s.setFld F.TST_FLASH_CMD_BUSY 1)

/-- Clusters return to service (R129). -/
def returnClusters (first : Nat) (v : Word) (s : State) : State :=
  (bitsSet 32 v.toNat).foldl (fun s c => { s with plc := { s.plc with strikes := amPut (fun _ => 0) s.plc.strikes (first + c) 0 } }) s

/-- CMD_Q_CTL written (R389, R417): `en` is EN before. -/
def ringWritten (en : Bool) (s : State) : State :=
  if !en && s.bit F.CMD_Q_CTL_EN then
    [F.CMD_SQ_TAIL_PTR, F.CMD_SQ_HEAD_PTR, F.CMD_CQ_TAIL_PTR, F.CMD_CQ_HEAD_PTR].foldl (fun s f => s.setFld f 0) s
  else if en && !s.bit F.CMD_Q_CTL_EN then resetPort .host s
  else s

/-- PWR_SAFE.RELEASE (R483). -/
def releaseSafe (s : State) : State :=
  if s.core = .safe ∧ s.pwr.causes = 0 then checkElig { s with core := if s.job.isSome then .job else .idle } else s

/-- What a write does beside storing its fields: `old` is the state before, `v` the bits heeded. A TB_STEP write that R267 discards is
one that its register refuses in the present state, and R42 counts it (DEDUCED, log 70). -/
def wrote (addr : Nat) (v : Word) (old s : State) : State :=
  if addr = A.CMD_Q_CTL then ringWritten (old.bit F.CMD_Q_CTL_EN) s
  else if addr = A.CMD_CQ_HEAD then { s with cmd := { s.cmd with v0Sent := false } }
  else if addr = A.CMD_GRANT then
    if old.bit F.CMD_GRANT_HOST_CAL && !s.bit F.CMD_GRANT_HOST_CAL && holds .host 1 s then endLease 1 false s else s
  else if addr = A.PWR_SAFE then if v.getLsbD 35 then releaseSafe s else s
  else if addr = A.TB_CTL then checkElig (if old.bit F.TB_CTL_PTP_EN && !s.bit F.TB_CTL_PTP_EN then ptpOff s else s)
  else if addr = A.TB_STEP then
    let x := askStep (4 * v.toInt) s
    if x.1 then x.2 else badAccess 3 addr x.2
  else if addr = A.CAM_COMMIT then if v.getLsbD 35 then { s with cal := { s.cal with commits := s.cal.commits + 1 } } else s
  else if addr = A.CAL_TRIM_DATA then s.setTrim (s.fld F.CAL_TRIM_SEL_KIND) (s.fld F.CAL_TRIM_SEL_INDEX) v
  else if addr = A.PLC_CL_OUT_LO then returnClusters 0 v s
  else if addr = A.PLC_CL_OUT_HI then returnClusters 32 v s
  else if addr = A.PAIR_CTL then checkElig s
  else if addr = A.TST_FLASH_CMD then flashCommand (wbits v 35 33) s
  else if addr = A.TST_BIST then if v.getLsbD 35 then { s with tst := { s.tst with bist := true } } else s
  else if v.getLsbD 35 then clearWritten addr s
  else s

/-- Does a refused field leave its whole register unchanged (R501)? -/
def wholeBlock (addr : Nat) : Bool := decide (0x2000 ≤ addr ∧ addr < 0x3000)

/-- A write by a port that may write the register. -/
def applyWrite (r : RegRow) (addr : Nat) (v : Word) (s : State) : State :=
  let v := heeded addr v s
  if refusesWhole addr v s then badAccess 3 addr s
  else
    let x := takeFields (fun f => valueOk addr f v s) r.fields v (s.getReg addr)
    if !relationOk addr x.1 s || (x.2 && wholeBlock addr) then badAccess 3 addr s
    else
      let t := if addr = A.CAL_TRIM_DATA then s else s.setReg addr x.1
      wrote addr v s (if x.2 then badAccess 3 addr t else t)

/-- A port writes a register (R403, R42, R39, R16): the status of a refused right, and the state. -/
def writeReg (p : Port) (addr : Nat) (v : Word) (s : State) : Option Nat × State :=
  match writeRight p addr s with
  | some st => (some st, denyWrite p addr s)
  | none => (none, match regRow addr with
    | some r => applyWrite r addr v s
    | none => if (blockRows addr).isNone then badAccess 1 addr s else s)

/-- A write of a row: one that is not aligned to 8 bytes is no register write (R12). -/
def rowWrite (p : Port) (addr : Nat) (v : Word) (s : State) : State :=
  if addr % 8 = 0 then (writeReg p addr v s).2 else badAccess 0 addr s

/-- The W1C flags among the bits of a register's word. -/
def flagsIn (addr : Nat) (v : Word) : List Fld :=
  match regRow addr with
  | some r => ((r.fields.filter fun f => f.acc == .w1c && f.hi == f.lo && v.getLsbD f.lo).map fun f => ({ addr := addr, hi := f.lo, lo := f.lo } : Fld)).reverse
  | none => []

/-- Occurrences of flags in one epoch, in ascending bit number. -/
def raiseAll (l : List Fld) (s : State) : State := l.foldl (fun s f => raise f s) s

end Sys2Proof.Machine
end

