-- ==== Sys2Proof/Machine/Access.lean ====
section
/-!
DEFINITION. The meanings of the register accesses that the table lists: the BAR0 accesses that are no register accesses (R12, R39,
R40), plain writes (R42), and the registers with a behaviour of their own.
-/
namespace Sys2Proof.Machine

/-- A write with bit 35 at a level, the bit its row names. -/
def withTop (b : Bool) (v : Word) : Word := setBits v 35 35 (bitN b)

/-- NON_ALIGNED_WRITE (R12): aligned 8-byte writes are register writes and none of this row's. -/
def execNonAlignedWrite (addr : BitVec 19) (len : Nat) (s : State) : Host.Outcome State Fault Refusal :=
  done s (if len = 8 ∧ addr.toNat % 8 = 0 then s else badAccess 0 addr.toNat s)

/-- OUT_OF_BLOCK_WRITE (R39): an aligned write by the host; in a block it is a register write. -/
def execOutOfBlockWrite (addr : BitVec 19) (v : Word) (s : State) : Host.Outcome State Fault Refusal :=
  done s (rowWrite .host addr.toNat v s)

/-- A BAR0 read of the host: an aligned 8-byte read returns the slot, an aligned 4-byte read the addressed half of it (R10, R12), any
other read zeros, counted (R40). A read of either half reads the register, captures included (DESIGN CHOICE, log 69). -/
def barRead (addr len : Nat) (s : State) : State :=
  if (len = 8 ∧ addr % 8 = 0) ∨ (len = 4 ∧ addr % 4 = 0) then
    let (v, s) := readReg .host (addr - addr % 8) s
    emit (.barData addr (((slotBytes v).drop (addr % 8)).take len)) s
  else emit (.barData addr (List.replicate len 0)) (badAccess 2 addr s)

/-- MALFORMED_READ (R40, R12). -/
def execMalformedRead (addr : BitVec 19) (len : Nat) (s : State) : Host.Outcome State Fault Refusal :=
  done s (barRead addr.toNat len s)

/-- REGISTER_WRITE (R42). -/
def execRegisterWrite (p : Port) (addr : BitVec 19) (v : Word) (s : State) : Host.Outcome State Fault Refusal :=
  done s (rowWrite p addr.toNat v s)

/-- W1C_FLAG_CLEAR (R14): `hw` holds the flags that the hardware sets in the same epoch; they end set and counted. -/
def execW1cFlagClear (p : Port) (addr : BitVec 19) (v hw : Word) (s : State) : Host.Outcome State Fault Refusal :=
  done s (raiseAll (flagsIn addr.toNat hw) (rowWrite p addr.toNat v s))

/-- The occurrences of the same epoch as a clear (R43, R302, R416): of the flags that the counters count, RESTORED and TRUNC at their bits of
TB_JNL_STATUS, or a rejected access, given as GLB_BAD_ACCESS_ADDR would record it. -/
def afterClear (addr : Nat) (hw : Word) (s : State) : State :=
  if addr = A.GLB_BAD_ACCESS_CNT then if hw.getLsbD 35 then badAccess (wbits hw 34 33) (wbits hw 18 0) s else s
  else if addr = A.TB_EVT_CNT then raiseAll (flagsIn A.TB_JNL_STATUS hw ++ flagsIn A.TB_EVT hw) s
  else if isCounters addr then raiseAll (flagsIn (addr - 8) hw) s
  else s

/-- COUNTER_CLEAR (R416, R43): the clear is applied first. -/
def execCounterClear (p : Port) (addr : BitVec 19) (v hw : Word) (s : State) : Host.Outcome State Fault Refusal :=
  done s (afterClear addr.toNat hw (rowWrite p addr.toNat (withTop true v) s))

/-- RECORD_CLEAR (R113). -/
def execRecordClear (p : Port) (addr : BitVec 19) (v : Word) (s : State) : Host.Outcome State Fault Refusal :=
  done s (rowWrite p addr.toNat (withTop true v) s)

/-- A read of a row: its data are shown. -/
def rowRead (p : Port) (addr : Nat) (s : State) : State :=
  let (v, s) := readReg p addr s
  emit (.barData addr (slotBytes v)) s

/-- TB_TIME_LO_READ (R266). -/
def execTbTimeLoRead (p : Port) (s : State) : Host.Outcome State Fault Refusal := done s (rowRead p A.TB_TIME_LO s)

/-- CAM_FSTAT0_READ (R424). -/
def execCamFstat0Read (p : Port) (s : State) : Host.Outcome State Fault Refusal := done s (rowRead p A.CAM_FSTAT0 s)

/-- TB_INC_WRITE (R265). -/
def execTbIncWrite (p : Port) (v : Word) (s : State) : Host.Outcome State Fault Refusal := done s (rowWrite p A.TB_INC v s)

/-- TB_STEP (R267). -/
def execTbStep (p : Port) (v : Word) (s : State) : Host.Outcome State Fault Refusal := done s (rowWrite p A.TB_STEP v s)

/-- RING_ENABLE (R417): a write to CMD_Q_CTL with EN = 1. -/
def execRingEnable (p : Port) (v : Word) (s : State) : Host.Outcome State Fault Refusal := done s (rowWrite p A.CMD_Q_CTL (withTop true v) s)

/-- RING_DISABLE (R389): a write to CMD_Q_CTL with EN = 0. -/
def execRingDisable (p : Port) (v : Word) (s : State) : Host.Outcome State Fault Refusal := done s (rowWrite p A.CMD_Q_CTL (withTop false v) s)

/-- CMD_CQ_HEAD_WRITE (R385). -/
def execCmdCqHeadWrite (p : Port) (v : Word) (s : State) : Host.Outcome State Fault Refusal := done s (rowWrite p A.CMD_CQ_HEAD v s)

/-- CMD_GRANT_WRITE (R404). -/
def execCmdGrantWrite (p : Port) (v : Word) (s : State) : Host.Outcome State Fault Refusal := done s (rowWrite p A.CMD_GRANT v s)

/-- Placement takes clusters out in the same epoch (R129). -/
def takeOut (f : Fld) (v : Word) (s : State) : State :=
  (bitsSet 32 v.toNat).foldl (fun s c => raise F.PLC_EVT_CL_OUT (s.setFld f (s.fld f ||| 2 ^ c))) s

/-- CLUSTER_RETURN (R129): `hi` names PLC_CL_OUT_HI; `takenOut` the clusters that placement takes out in the same epoch. -/
def execClusterReturn (p : Port) (hi : Bool) (v takenOut : Word) (s : State) : Host.Outcome State Fault Refusal :=
  done s (takeOut (if hi then F.PLC_CL_OUT_HI_OUT else F.PLC_CL_OUT_LO_OUT) takenOut
    (rowWrite p (if hi then A.PLC_CL_OUT_HI else A.PLC_CL_OUT_LO) v s))

/-- FAULT_CAUSE_CLEAR (R325). -/
def execFaultCauseClear (p : Port) (axis : Fin 4) (v : Word) (s : State) : Host.Outcome State Fault Refusal :=
  done s (rowWrite p (A.MOT_AX_FAULT axis.val) v s)

/-- OFFLINE_REQUEST (R117). -/
def execOfflineRequest (p : Port) (cluster : Fin 64) (v : Word) (s : State) : Host.Outcome State Fault Refusal :=
  done s (rowWrite p (A.KNX_CL_CTL cluster.val) v s)

/-- GO: CAM_COMMIT.GO (R423). -/
def execGo (p : Port) (v : Word) (s : State) : Host.Outcome State Fault Refusal := done s (rowWrite p A.CAM_COMMIT (withTop true v) s)

/-- RELEASE: PWR_SAFE.RELEASE (R483). -/
def execRelease (p : Port) (v : Word) (s : State) : Host.Outcome State Fault Refusal := done s (rowWrite p A.PWR_SAFE (withTop true v) s)

/-- CAL_TRIM_DATA_WRITE (R439). -/
def execCalTrimDataWrite (p : Port) (v : Word) (s : State) : Host.Outcome State Fault Refusal := done s (rowWrite p A.CAL_TRIM_DATA v s)

/-- The word of a TST_FLASH_CMD operation. -/
def flashOp (op : Nat) : Word := BitVec.ofNat 36 (op * 2 ^ 33)

/-- READ: TST_FLASH_CMD (R524). -/
def execRead (p : Port) (s : State) : Host.Outcome State Fault Refusal := done s (rowWrite p A.TST_FLASH_CMD (flashOp 1) s)

/-- PROGRAM: TST_FLASH_CMD (R524). -/
def execProgram (p : Port) (s : State) : Host.Outcome State Fault Refusal := done s (rowWrite p A.TST_FLASH_CMD (flashOp 2) s)

/-- ERASE: TST_FLASH_CMD (R524). -/
def execErase (p : Port) (s : State) : Host.Outcome State Fault Refusal := done s (rowWrite p A.TST_FLASH_CMD (flashOp 3) s)

/-- BIST_GO: TST_BIST.GO (R526). -/
def execBistGo (p : Port) (v : Word) (s : State) : Host.Outcome State Fault Refusal := done s (rowWrite p A.TST_BIST (withTop true v) s)

/-- BIST_END (R526, R527): the results are shown, a failure flagged. -/
def execBistEnd (banks : BitVec 4) (clusters : BitVec 64) (s : State) : Host.Outcome State Fault Refusal :=
  done s (if !s.tst.bist then s
    else
      let t := { s with tst := { s.tst with bist := false } }
      let t := (t.setFld F.TST_BIST_LO_BANK banks.toNat).setFld F.TST_BIST_LO_CL (clusters.toNat % 2 ^ 32)
      let t := t.setFld F.TST_BIST_HI_CL (clusters.toNat / 2 ^ 32)
      raiseIf (banks != 0 || clusters != 0) F.TST_EVT_BIST_FAIL t)

end Sys2Proof.Machine
end

