-- ==== Sys2Proof/Machine/Commands.lean ====
section
/-!
DEFINITION. The requests of the general command set (R394 to R396, R400, R405 to R410, R414): NOP, register access, the journal,
the locks and the event queues.
-/
namespace Sys2Proof.Machine

/-- The body of NOP (R394). -/
def bodyNop (r : Req) (s : State) : State := r.reply stOk r.w s

/-- ADDR and COUNT of a register request (R394). -/
def Req.regAddr (r : Req) : Nat := r.fld 1 18 0
def Req.regCount (r : Req) : Nat := r.fld 1 30 19

/-- Is the range of registers one that R394 allows, of at most `most` registers? -/
def regRange (most : Nat) (r : Req) : Bool :=
  decide (1 ≤ r.regCount ∧ r.regCount ≤ most ∧ r.regAddr % 8 = 0 ∧ r.regAddr + 8 * (r.regCount - 1) ≤ 0x7FFF8)

/-- The body of REG_READ (R394). -/
def bodyRegRead (r : Req) (s : State) : State :=
  if !regRange 4095 r then refuse r stBadParam s
  else
    let (l, s) := readRegs r.port r.regCount r.regAddr s
    r.reply stOk l s

/-- Write registers one after the other (R395): the number written, the status that stopped them, and the state. A write that resets the
command's own port ends it (R389). -/
def writeRegs (r : Req) : Nat → List Word → Nat → State → Nat × Option Nat × State
  | _, [], n, s => (n, none, s)
  | addr, v :: l, n, s =>
    match writeReg r.port addr v s with
    | (some st, s) => (n, some st, s)
    | (none, s) => if inFlight r.port r.tag s then writeRegs r (addr + 8) l (n + 1) s else (n + 1, none, s)

/-- The body of REG_WRITE (R394, R395). -/
def bodyRegWrite (r : Req) (s : State) : State :=
  if !regRange 4094 r then refuse r stBadParam s
  else
    let (n, st, s) := writeRegs r r.regAddr (r.w.drop 1) 0 s
    r.reply (st.getD stOk) [BitVec.ofNat 36 n] s

/-- The word that a REG_MODIFY writes (R396). -/
def modifyWord (addr : Nat) (old mask v : Word) : Word :=
  let set := v &&& mask
  match regRow addr with
  | none => (old &&& ~~~mask) ||| set
  | some row => row.fields.foldl (fun w f => match f.acc with
      | .w1c | .wo => setBits w f.hi f.lo (wbits set f.hi f.lo)
      | .ro | .rw | .sh => w) ((old &&& ~~~mask) ||| set)

/-- The body of REG_MODIFY (R396, R403). -/
def bodyRegModify (r : Req) (s : State) : State :=
  let addr := r.regAddr
  if addr % 8 ≠ 0 then refuse r stBadParam s
  else match writeRight r.port addr s with
  | some st => refuse r st (denyWrite r.port addr s)
  | none =>
    let (old, s) := readReg r.port addr s
    r.reply stOk [old] (writeReg r.port addr (modifyWord addr old (r.word 2) (r.word 3)) s).2

/-- The body of JOURNAL_READ (R209, R298, R400, R446): one whose table has failed in both copies replies CHECK_FAIL. -/
def bodyJournalRead (r : Req) (s : State) : State :=
  let most := r.fld 1 9 0
  if most = 0 then refuse r stBadParam s
  else if r.consumes && !s.nvm.jnlErased then refuse r stBusy s
  else if s.mem.jnlBad then refuse r stCheckFail { s with mem := { s.mem with jnlBad := false } }
  else
    let s := postTable 0 r.consumes s
    let l := s.jnl.take most
    let s := if r.consumes then { s with jnl := s.jnl.drop most } else s
    let s := r.reply stOk (BitVec.ofNat 36 (s.jnl.length * 2 ^ 17 + l.length) :: l.flatMap JEnt.words) s
    if r.consumes then flushDropped s else s

/-- Set a lock's lease. -/
def setLock (n : Nat) (l : Option Lease) (s : State) : State :=
  if n = 0 then { s with cmd := { s.cmd with exp := l } } else { s with cmd := { s.cmd with cal := l } }

/-- A lease taken or renewed now (R406). -/
def leaseNow (p : Port) (ms : Nat) (s : State) : Lease := { port := p, ms := ms, deadline := s.tb.ticks + msTicks ms }

/-- May a port ask for a lock (R405)? -/
def lockRight (p : Port) (n : Nat) (s : State) : Bool := if n = 0 then p == .host else calRight p s

/-- Has the deadline of a lock's lease passed (R406)? -/
def leaseOver (n : Nat) (s : State) : Bool :=
  match lockOf n s with
  | some l => decide (l.deadline ≤ s.tb.ticks)
  | none => false

/-- A lease whose deadline has passed expires before a lock command reads it (R406, R407; DEDUCED, log 80). -/
def expireDue (s : State) : State :=
  [0, 1].foldl (fun s n => if leaseOver n s then endLease n false s else s) s

/-- LEASE_MS of a LOCK_ACQUIRE: 0 stands for CMD_LEASE_DEF (R394). -/
def leaseMs (r : Req) (s : State) : Nat := if r.fld 1 26 16 = 0 then s.fld F.CMD_LEASE_DEF_DEF_MS else r.fld 1 26 16

/-- The body of LOCK_ACQUIRE (R405, R406). -/
def bodyLockAcquire (r : Req) (s : State) : State :=
  let s := expireDue s
  let n := r.fld 1 0 0
  let ms := r.fld 1 26 16
  let other : Bool := match lockOf n s with
    | some l => l.port != r.port
    | none => false
  if !lockRight r.port n s then refuse r stDenied s
  else if n = 0 ∧ holds r.port 1 s = true then refuse r stOrder s
  else if other then refuse r stLocked s
  else if ms ≠ 0 ∧ (ms < 20 ∨ 2000 < ms) then refuse r stBadParam s
  else checkElig (r.reply stOk [] (setLock n (some (leaseNow r.port (leaseMs r s) s)) s))

/-- The body of LOCK_RELEASE (R410). -/
def bodyLockRelease (r : Req) (s : State) : State :=
  let s := expireDue s
  let n := r.fld 1 0 0
  if !holds r.port n s || (n == 0 && (s.core == .armed || s.core == .exposing)) then refuse r stBadState s
  else checkElig (r.reply stOk [] (setLock n none s))

/-- Renew a lease that the port holds (R407). -/
def renewLease (p : Port) (s : State) (n : Nat) : State :=
  match lockOf n s with
  | some l => if l.port = p then setLock n (some (leaseNow p l.ms s)) s else s
  | none => s

/-- The body of LEASE_RENEW (R407). -/
def bodyLeaseRenew (r : Req) (s : State) : State :=
  let s := expireDue s
  let l := bitsSet 2 (r.fld 1 1 0)
  if l.isEmpty then refuse r stBadParam s
  else r.reply (if l.all fun n => holds r.port n s then stOk else stBadState) [] (l.foldl (renewLease r.port) s)

/-- The four words of an event record (R413). -/
def EvRec.words (e : EvRec) : List Word :=
  [BitVec.ofNat 36 (e.addr * 2 ^ 17 + e.bit * 2 ^ 11), BitVec.ofNat 36 (e.occ * 2 ^ 20), BitVec.ofNat 36 (e.first % 2 ^ 36),
   BitVec.ofNat 36 (e.first / 2 ^ 36 % 2 ^ 28)]

/-- The body of EVENT_READ (R385, R414, R415). -/
def bodyEventRead (r : Req) (s : State) : State :=
  let most := r.fld 1 9 0
  if most = 0 then refuse r stBadParam s
  else
    let q := (s.cmd.port r.port).events
    let l := q.take most
    let rest := q.drop most
    let s := { s with cmd := s.cmd.updPort r.port fun x => { x with events := rest } }
    let s := r.reply stOk (BitVec.ofNat 36 (rest.length * 2 ^ 10 + l.length) :: l.flatMap EvRec.words) s
    if rest.isEmpty then s else { s with cmd := s.cmd.updPort r.port fun x => { x with wake := true } }

/-- NOP (R394). -/
def execNop (p : Port) (h : Hdr) (w : List Word) (s : State) : Host.Outcome State Fault Refusal :=
  done s (takeReq bodyNop (mkReq p h 0x01 w) s)

/-- REG_READ (R394). -/
def execRegRead (p : Port) (h : Hdr) (w : List Word) (s : State) : Host.Outcome State Fault Refusal :=
  done s (takeReq bodyRegRead (mkReq p h 0x02 w) s)

/-- REG_WRITE (R395). -/
def execRegWrite (p : Port) (h : Hdr) (w : List Word) (s : State) : Host.Outcome State Fault Refusal :=
  done s (takeReq bodyRegWrite (mkReq p h 0x03 w) s)

/-- REG_MODIFY (R396). -/
def execRegModify (p : Port) (h : Hdr) (w : List Word) (s : State) : Host.Outcome State Fault Refusal :=
  done s (takeReq bodyRegModify (mkReq p h 0x04 w) s)

/-- JOURNAL_READ (R400). -/
def execJournalRead (p : Port) (h : Hdr) (w : List Word) (s : State) : Host.Outcome State Fault Refusal :=
  done s (takeReq bodyJournalRead (mkReq p h 0x18 w) s)

/-- LOCK_ACQUIRE (R405). -/
def execLockAcquire (p : Port) (h : Hdr) (w : List Word) (s : State) : Host.Outcome State Fault Refusal :=
  done s (takeReq bodyLockAcquire (mkReq p h 0x20 w) s)

/-- LOCK_RELEASE (R410). -/
def execLockRelease (p : Port) (h : Hdr) (w : List Word) (s : State) : Host.Outcome State Fault Refusal :=
  done s (takeReq bodyLockRelease (mkReq p h 0x21 w) s)

/-- LEASE_RENEW (R407). -/
def execLeaseRenew (p : Port) (h : Hdr) (w : List Word) (s : State) : Host.Outcome State Fault Refusal :=
  done s (takeReq bodyLeaseRenew (mkReq p h 0x22 w) s)

/-- EVENT_READ (R414). -/
def execEventRead (p : Port) (h : Hdr) (w : List Word) (s : State) : Host.Outcome State Fault Refusal :=
  done s (takeReq bodyEventRead (mkReq p h 0x70 w) s)

/-- LEASE_EXPIRE (R406, R409): the lease of a lock ends once its deadline, in time-base ticks, has passed. -/
def execLeaseExpire (cal : Bool) (s : State) : Host.Outcome State Fault Refusal :=
  let n := if cal then 1 else 0
  done s (if leaseOver n s then endLease n false s else s)

end Sys2Proof.Machine
end

