-- ==== Sys2Proof/Machine/Exposure.lean ====
section
/-!
DEFINITION. Slice launch (R274 to R288): transmission, overspeed and late slices, launches, position words with crossings, running
errors and deviation windows (R280 to R285, R305, R317 to R319), time words and lane identities (R274, R350).
-/
namespace Sys2Proof.Machine

/-! Transmission. -/

/-- Quarter ns that a slice's blocks take on a lane (R278, R345, R366, R367). -/
def sendQuarters (g : Nat) (x : Slice) (lam : Nat) (s : State) : Nat :=
  let blocks := 193 + ceilDiv (amGet (fun _ => []) x.lists lam).length 32
  if (s.grp g).coding then ceilDiv (640 * (2 + 64 * blocks)) (fbRate16 (s.grp g).rate) else ceilDiv (257 * blocks) 14

/-- A slice's state on a lane. -/
def Slice.onLane (x : Slice) (lam : Nat) : Option LaneState := (x.lanes.find? (·.1 == lam)).map (·.2)

/-- The lowest slice that waits on a lane (R278). -/
def waitingOn (lam : Nat) (s : State) : Option Slice := s.lch.slices.find? fun x => x.onLane lam == some .waiting

/-- Does the cancel that runs cover a slice (R284)? -/
def covered (n : Nat) (s : State) : Bool :=
  match s.lch.cancel with
  | some c => decide (c.first ≤ n)
  | none => false

/-- Change a slice. -/
def updSlice (n : Nat) (f : Slice → Slice) (s : State) : State :=
  { s with lch := { s.lch with slices := updateFirst (·.n == n) f s.lch.slices } }

/-- A slice's state on a lane becomes `v`. -/
def Slice.setLane (x : Slice) (lam : Nat) (v : LaneState) : Slice :=
  { x with lanes := x.lanes.map fun e => if e.1 = lam then (e.1, v) else e }

/-- Is a slice launched or due to launch (R279)? -/
def dueToLaunch (s : State) (x : Slice) : Bool :=
  !x.overspeed && !covered x.n s && x.lanes.any fun e => e.2 != .blanked

/-- L_p of a slice (R279): of the last slice before it that has launched or is due to. -/
def prevLaunch (x : Slice) (s : State) : Option Nat :=
  match (s.lch.slices.filter fun y => decide (y.n < x.n) && dueToLaunch s y).getLast? with
  | some y => some y.l
  | none => s.lch.run.bind Run.prevL

/-- Is a slice too close to the one before it (R279)? -/
def tooClose (x : Slice) (s : State) : Bool :=
  match prevLaunch x s with
  | some p => decide (x.l < p + 4 * periodMin s)
  | none => false

/-- The slice is sent on no lane (R279). -/
def overspeed (r : Run) (x : Slice) (s : State) : State :=
  let m := x.lanes.foldl (fun m e => m + 2 ^ e.1) 0
  let s := updSlice x.n (fun x => { x with overspeed := true, lanes := x.lanes.map fun e => (e.1, .blanked) }) s
  slowRequest (raise F.TB_EVT_OVERSPEED (recordRange (rangeRec kBlanked 2 r x.n x.n m) s))

/-- Start a slice on the lane that carries the active lane (R258 to R260, R350, R365), with a time word between it and the slice before
(R274). -/
def sendSlice (r : Run) (x : Slice) (lam : Nat) (s : State) : State :=
  let g := lam / 8
  let k := physOf lam s
  let s := leadSlice g k s
  let s := noteSent r.ord r.id (beginSlice g k x.n (slicePayloads s (jobBeams s) r.ord x lam) s)
  updSlice x.n (·.setLane lam .sent) { s with lch := { s.lch with carried := s.lch.carried ++ [(g, k, r.ord, x.n, lam)] } }

/-- May lanes start slices at all (R284, R361, R461, R467)? -/
def mayStart (s : State) : Bool :=
  s.lch.cancel.isNone && s.lch.clkLoss.isNone && !pairStandby s && !(pairOwner s && eligible s && !s.pair.unacked.isEmpty)

/-- LANE_SLICE_START (R278, R279): within the lead window. -/
def execLaneSliceStart (lane : Fin 32) (s : State) : Host.Outcome State Fault Refusal :=
  let lam := lane.val
  done s (match s.lch.run, waitingOn lam s with
    | some r, some x =>
      if !mayStart s || physOf lam s == 0xF then s
      else if tooClose x s then overspeed r x s
      else if x.l ≤ s.quarter + 160000 ∧ s.quarter + sendQuarters (lam / 8) x lam s + 24000 ≤ x.l then sendSlice r x lam s
      else s
    | _, _ => s)

/-- NOT_READY (R278): the second condition can no longer be met. -/
def execNotReady (lane : Fin 32) (s : State) : Host.Outcome State Fault Refusal :=
  let lam := lane.val
  done s (match s.lch.run, waitingOn lam s with
    | some r, some x =>
      if pairStandby s || covered x.n s || decide (s.quarter + sendQuarters (lam / 8) x lam s + 24000 ≤ x.l) then s
      else
        let t := updSlice x.n (·.setLane lam .blanked) s
        slowRequest (raise F.TB_EVT_NOT_READY (recordRange (rangeRec kBlanked 1 r x.n x.n (2 ^ lam)) t))
    | _, _ => s)

/-! Launch and crossings. -/

/-- Record a crossing error in TB_XERR (R281, R301). -/
def recordXerr (e : Int) (s : State) : State :=
  let s := s.setFld F.TB_XERR_LAST (twos 18 (satS 18 e))
  let m := satU 18 e.natAbs
  if s.fld F.TB_XERR_MAX < m then s.setFld F.TB_XERR_MAX m else s

/-- A slice is displaced (R281): the flag, and a cancel when none runs. -/
def displace (s : State) : State := beginCancel (raise F.TB_EVT_DISPLACED s)

/-- The crossing of a launched slice has been found (R280, R281). `open` tells whether its DISPLACED entry is open. -/
def judgeCrossing (r : Run) (n l tc : Nat) (opened : Bool) (s : State) : State :=
  let e : Int := (tc : Int) - l
  let s := recordXerr e s
  let wide := decide (4 * s.act F.TB_LAUNCH_CTL_WINDOW_NS < e.natAbs)
  if opened then commitEnt (displacedEnt r n (twos 32 e)) s
  else if wide then displace (commitEnt (displacedEnt r n (twos 32 e)) s)
  else s

/-- The slice whose launch time is reached is launched (R279), unless it was sent on no lane. -/
def launchSlice (r : Run) (x : Slice) (s : State) : State :=
  let s := flushSlice x.n s
  let s := { s with lch := { s.lch with slices := removeFirst (·.n == x.n) s.lch.slices } }
  let s := updRun (fun r => { r with reached := some (x.n, x.l) }) s
  let fired := !x.overspeed && x.lanes.any fun e => e.2 == .sent
  let s := if !fired then s
    else
      let s := updRun (fun r => { r with prevL := some x.l }) (s.setFld F.TB_LAUNCH_STATUS_LAUNCHED x.n)
      match x.tc with
      | some tc => judgeCrossing r x.n x.l tc false s
      | none => { s with lch := { s.lch with crossings := s.lch.crossings ++ [{ n := x.n, l := x.l, pos := x.pos, displaced := false }] } }
  disposeTo (x.n + 1) s

/-- Is the stage at rest (R428): no axis moves as planned? -/
def stageAtRest (s : State) : Bool := (List.range 4).all fun a => decide ((planOf a s.nowRat s).v = 0 ∧ (planOf a s.nowRat s).a = 0)

/-- May the BEAMS capture launch a slice (R428)? Slices are MIN_NS apart; none follows the fall of CAM_TRIG, and none comes while CAM_TRIG
is high for an earlier capture. -/
def calDue (c : Capt) (s : State) : Bool :=
  c.kind == 0x03 && c.raised == s.cal.trig && stageAtRest s && (match c.lastQ with
    | some q => decide (q + 4 * periodMin s ≤ s.quarter)
    | none => true)

/-- A calibration slice of a BEAMS capture is launched (R428): CAM_TRIG rises at slice WARM. The model sends it in the step that launches
it (DEDUCED, log 51). -/
def calSlice (s : State) : State :=
  match s.cal.capt with
  | none => s
  | some c =>
    let warm := s.act F.CAM_BEAM_WARM
    if !calDue c s then s
    else
      let nl := lanesOf (captBeams s)
      let lanes := (List.range nl).filter fun lam => physOf lam s != 0xF
      let groups := List.range (nl / 8)
      let codes := List.replicate 16384 (s.act F.CAM_BEAM_CODE)
      let pcrc := pcrcOf (bodyBlocks codes [])
      let x : Slice := { n := c.slice, l := s.quarter, pos := 0, codes := lanes.map fun lam => (lam, codes), lists := [],
                         pcrc := lanes.map fun lam => (lam, pcrc),
                         kt := groups.map fun g => (g, (ktOf (plateOf g s).pt s).toNat),
                         tedge := groups.map fun g => (g, (tedgeOf (plateOf g s).v s).toNat), lanes := [], overspeed := false, tc := none }
      let s := if pairStandby s then s
        else lanes.foldl (fun s lam =>
          let k := physOf lam s
          emitSlice (lam / 8) k (slicePayloads s (captBeams s) 0xFFFF x lam) (leadSlice (lam / 8) k s)) s
      let up := c.raised || decide (warm ≤ c.shots)
      { s with cal := { s.cal with trig := up, capt := some { c with slice := c.slice + 1, shots := c.shots + 1, raised := up,
                                                                     lastQ := some s.quarter } } }

/-- SLICE_LAUNCH (R279): the first slice whose launch time is reached. -/
def execSliceLaunch (s : State) : Host.Outcome State Fault Refusal :=
  done s (match s.lch.run, s.lch.slices with
    | some r, x :: _ => if s.quarter < x.l ∨ covered x.n s = true then s else launchSlice r x s
    | some _, [] => calSlice s
    | none, _ => calSlice s)

/-- Has the sample instant L_n + 4 · WINDOW_NS passed without a crossing (R281): a word sampled then or later has arrived, or none has
arrived that could have been sampled by then (R280, R304: one word in 50 ns, LAT_Q under way)? -/
def crossingMissed (c : Crossing) (s : State) : Bool :=
  let q := c.l + 4 * s.act F.TB_LAUNCH_CTL_WINDOW_NS
  (match s.lch.word with
    | some (_, t) => decide (q ≤ t)
    | none => false) || decide (q + s.fld F.TB_POS_LAT_LAT_Q + 200 ≤ s.quarter)

/-- CROSSING_TIMEOUT (R281): the first launched slice without a crossing by the sample instant L_n + 4 · WINDOW_NS. -/
def execCrossingTimeout (s : State) : Host.Outcome State Fault Refusal :=
  done s (match s.lch.crossings.find? (fun c => !c.displaced) with
    | none => s
    | some c =>
      if !crossingMissed c s then s
      else
        let l := updateFirst (·.n == c.n) (fun c => { c with displaced := true }) s.lch.crossings
        displace { s with lch := { s.lch with crossings := l } })

/-- Does the pair of words straddle a slice's start (R280)? -/
def straddles (sg : Int) (pos p0 p1 : Int) : Bool := decide (sg * (p0 - pos) < 0 ∧ 0 ≤ sg * (p1 - pos))

/-- t_c of R280. -/
def crossTime (pos p0 p1 : Int) (t0 t1 : Nat) : Nat :=
  let dp := p1 - p0
  (t0 + (2 * (pos - p0) * ((t1 : Int) - t0) + dp).fdiv (2 * dp)).toNat

/-- The crossings between the last word and this one (R280): slices waiting note theirs, launched ones are judged. -/
def findCrossings (p : Int) (t : Nat) (s : State) : State :=
  match s.lch.run, s.lch.word with
  | some r, some (p0, t0) =>
    let sg := s.mot.scan.sigma
    let hit (l : Nat) (pos : Int) : Bool := straddles sg pos p0 p && decide (l ≤ t0 + 160000)
    let mark (x : Slice) : Slice :=
      if x.tc.isNone && hit x.l x.pos then { x with tc := some (crossTime x.pos p0 p t0 t) } else x
    let s := { s with lch := { s.lch with slices := s.lch.slices.map mark } }
    let (now, later) := s.lch.crossings.partition fun c => hit c.l c.pos
    now.foldl (fun s c => judgeCrossing r c.n c.l (crossTime c.pos p0 p t0 t) c.displaced s)
      { s with lch := { s.lch with crossings := later } }
  | _, _ => s

/-- round_half_up(4 · τ(p)) of a position word (R282, R328). -/
def tauQuarter (p : Int) (t : Rat) (s : State) : Int :=
  let sc := s.mot.scan
  let sg : Rat := (sc.sigma : Rat)
  match lastRest sc.prof t with
  | none => ratRound (4 * sc.e)
  | some f =>
    if sg * ((p : Rat) - f.p0) ≤ 0 then ratRound (4 * f.leaves)
    else if 0 < sg * ((p : Rat) - (profAt sc.prof sc.e).p) then ratRound (4 * sc.e)
    else reachQuarter sc.prof f sc.sigma p

/-- The running error of a Y word, and what it decides (R282, R284, R285). A standby sends no cancel and decides none (R461). -/
def runningError (p : Int) (t : Nat) (s : State) : State :=
  let at0 : Rat := mkRat t 4
  if s.lch.run.isNone || s.mot.scan.state != .run || decide ((profAt s.mot.scan.prof at0).v = 0) || pairStandby s then s
  else
    let big := decide (4 * s.act F.TB_LAUNCH_CTL_CXL_NS < ((t : Int) - tauQuarter p at0 s).natAbs)
    match s.lch.cancel with
    | none => if big then beginCancel s else s
    | some c =>
      if big then { s with lch := { s.lch with cancel := some { c with good := 0 } } }
      else if c.good < 63 then { s with lch := { s.lch with cancel := some { c with good := c.good + 1 } } }
      else endCancel s

/-- A valid Y word of the primary channel (R280, R282). -/
def yWord (p : Int) (t : Nat) (s : State) : State :=
  let s := if pairStandby s then s else findCrossings p t s
  runningError p t { s with lch := { s.lch with word := some (p, t) } }

/-! Position words. -/

/-- The deviation window (R317): a run of words outside it sets the cause, and the count begins anew. -/
def checkDeviation (a : Nat) (p : Int) (t : Rat) (s : State) : State :=
  let x := s.axis a
  if !x.homed && !x.homing then s.updAxis a fun x => { x with devRun := 0 }
  else
    let dev := |(p : Rat) - (planOf a t s).p|
    if dev ≤ 64 * (s.fld (F.MOT_AX_DEV_DEV_NM a) : Rat) then s.updAxis a fun x => { x with devRun := 0 }
    else if x.devRun + 1 < s.fld (F.MOT_AX_CTL_DEV_CNT a) then s.updAxis a fun x => { x with devRun := x.devRun + 1 }
    else gainFault a (F.MOT_AX_FAULT_DEVIATION a) (s.updAxis a fun x => { x with devRun := 0 })

/-- The cross-check of the two channels (R318). -/
def checkChannels (a : Nat) (s : State) : State :=
  let x := s.axis a
  match x.ifm, x.enc with
  | some i, some e =>
    if !s.bit (F.MOT_AX_CTL_XCHK_EN a) || !x.homed then s.updAxis a fun x => { x with xchkRun := 0 }
    else if (i - e - x.off).natAbs ≤ 64 * s.fld (F.MOT_AX_DEV_XCHK_NM a) then s.updAxis a fun x => { x with xchkRun := 0 }
    else if x.xchkRun + 1 < s.fld (F.MOT_AX_CTL_DEV_CNT a) then s.updAxis a fun x => { x with xchkRun := x.xchkRun + 1 }
    else gainFault a (F.MOT_AX_FAULT_XCHECK a) (s.updAxis a fun x => { x with xchkRun := 0 })
  | _, _ => s

/-- Count the words within DEV_NM of the target of a move whose profile has ended (R313). -/
def countSettled (a : Nat) (p : Int) (t : Rat) (s : State) : State :=
  match s.mot.moves.find? fun m => !m.stopping && m.axes.any (·.1 == a) with
  | none => s
  | some m =>
    let target := ((m.ends.find? (·.1 == a)).map (·.2)).getD 0
    let ok := decide (profEnd m.prof ≤ t ∧ |(p : Rat) - target| ≤ 64 * (s.fld (F.MOT_AX_DEV_DEV_NM a) : Rat))
    s.updAxis a fun x => { x with settleRun := if ok then x.settleRun + 1 else 0 }

/-- A limit's latch takes the first primary word sampled at or after its edge (R319). -/
def Limit.take (l : Limit) (raw : Int) (t : Nat) : Limit :=
  match l.await with
  | some q => if q ≤ t then { l with latch := some raw, await := none } else l
  | none => l

/-- A valid word of the primary channel, sampled at `t` quarter ns (R304, R313, R317 to R319). -/
def primaryWord (a : Nat) (raw : Int) (t : Nat) (s : State) : State :=
  let p := raw + (s.axis a).offset
  let at0 : Rat := mkRat t 4
  let s := s.updAxis a fun x => { x with alive := true, limP := x.limP.take raw t, limM := x.limM.take raw t }
  let s := s.setReg (A.MOT_AX_MEAS a) (BitVec.ofInt 36 p)
  let s := checkChannels a (checkDeviation a p at0 (countSettled a p at0 s))
  if a = 1 then yWord p t s else s

/-- A position-port frame is valid: VALID is 1 and its parity holds (R513). -/
def frameValid (f : BitVec 40) : Bool := f.getLsbD 39 && popcount 40 f.toNat % 2 == 1

/-- POSITION_WORD (R280, R282, R304, R317, R318, R513): a frame that arrives on one channel of an axis, with its arrival time in quarter
ns. -/
def execPositionWord (axis : Fin 4) (encoder : Bool) (frame : BitVec 40) (arrival : Nat) (s : State) :
    Host.Outcome State Fault Refusal :=
  done s (if !frameValid frame then s
    else
      let a := axis.val
      let raw := sext 36 (frame.toNat / 4 % 2 ^ 36)
      let t := s.updAxis a fun x => if encoder then { x with enc := some raw } else { x with ifm := some raw }
      if encoder == s.bit (F.MOT_AX_CTL_PRIMARY a) then primaryWord a raw (arrival - s.fld F.TB_POS_LAT_LAT_Q) t else t)

/-- POS_LOST (R305). -/
def execPosLost (axis : Fin 4) (s : State) : Host.Outcome State Fault Refusal :=
  let a := axis.val
  done s (gainFault a (F.MOT_AX_FAULT_POS_LOST a) (s.updAxis a fun x => { x with alive := false, homed := false }))

/-! Control blocks of a lane. -/

/-- TIME_WORD_DUE (R274, R344, R354): on a physical lane that carries an active lane, or in the VERIFY phase of its training. -/
def execTimeWordDue (lane : PhysLane) (s : State) : Host.Outcome State Fault Refusal :=
  let g := lane.group.val
  let k := lane.phys.val
  done s (if (carriedOn g k s).isSome || ((s.grp g).phase == 5 && transmits g k s) then sendTime g k s else s)

/-- LANE_ID_DUE (R350, R354): on a physical lane that transmits. -/
def execLaneIdDue (lane : PhysLane) (s : State) : Host.Outcome State Fault Refusal :=
  done s (if transmits lane.group.val lane.phys.val s then sendLaneId lane.group.val lane.phys.val s else s)

end Sys2Proof.Machine
end

