-- ==== Sys2Proof/Machine/Motion.lean ====
section
/-!
DEFINITION. Motion commands and events (R313 to R325): MOVE, HOME, STOP_AXIS, limit inputs, homing, settled moves and the ends of
stops (R337, R532).
-/
namespace Sys2Proof.Machine

/-- The named axes of a request. -/
def namedAxes (r : Req) : List Nat := bitsSet 4 (r.fld 1 3 0)

/-- The targets of a MOVE (R394). -/
def moveTargets (r : Req) : List (Nat × Int) := (namedAxes r).zip ((r.w.drop 1).map BitVec.toInt)

/-- Does a target lie further in the direction of an asserted limit (R321)? -/
def beyondLimit (x : Nat × Int) (s : State) : Bool :=
  let p := (planOf x.1 s.nowRat s).p
  ((s.axis x.1).limP.deb && decide (p < (x.2 : Rat))) || ((s.axis x.1).limM.deb && decide ((x.2 : Rat) < p))

/-- Is CORE_STATE ARMED or EXPOSING? -/
def loafActive (s : State) : Bool := s.core == .armed || s.core == .exposing

/-- A LOAF_ARM whose move has been replaced ends with BAD_STATE (R532): at once where none of it is left to stop. -/
def armReplaced (s : State) : State :=
  let s := armBroken s
  if s.mot.arm.isSome && !(s.mot.moves.any fun m => m.kind == .arm) then jobCloseEnd (armEnd s) else s

/-- The body of MOVE (R313, R314, R461). -/
def bodyMove (r : Req) (s : State) : State :=
  let ax := namedAxes r
  let tg := moveTargets r
  if s.pins.interlock then refuse r stDenied s
  else if ax.isEmpty then refuse r stBadParam s
  else if pairStandby s || (loafActive s && ax.any fun a => decide (a ≤ 1)) then refuse r stBadState s
  else if ax.any fun a => faulted a s || homing a s || !(s.axis a).homed then refuse r stBadState s
  else if ax.any fun a => stopping a s then refuse r stBusy s
  else if tg.any fun x => !softOk x.1 x.2 s || beyondLimit x s then refuse r stBadParam s
  else if loafActive s && wouldReverse tg s then refuse r stBadState s
  else r.reply stOk [] (armReplaced (beginMove tg .plain s))

/-- MOVE (R313). -/
def execMove (p : Port) (h : Hdr) (w : List Word) (s : State) : Host.Outcome State Fault Refusal :=
  done s (takeReq bodyMove (mkReq p h 0x30 w) s)

/-- Has every move of an axis reached its end, if it has one? A move that is still to begin has not (DEDUCED, log 49). -/
def settling (a : Nat) (s : State) : Bool := (movesOf [a] s).all (·.over s.nowRat)

/-- The body of HOME (R322, R323, R461). -/
def bodyHome (r : Req) (s : State) : State :=
  let ax := namedAxes r
  if ax.isEmpty then refuse r stBadParam s
  else if pairStandby s || loafActive s || s.mot.home.isSome || ax.any fun a => faulted a s || moving a s || stopping a s || !settling a s then
    refuse r stBadState s
  else
    let s := (movesOf ax s).foldl (fun s m => endMove m s) s
    let s := armReplaced (ax.foldl (fun s a => s.updAxis a fun x => { x with homing := true }) s)
    r.reply stOk [] (homeNext { s with mot := { s.mot with home := some { axes := ax, named := ax, step := 0, aborting := false } } })

/-- HOME (R323). -/
def execHome (p : Port) (h : Hdr) (w : List Word) (s : State) : Host.Outcome State Fault Refusal :=
  done s (takeReq bodyHome (mkReq p h 0x31 w) s)

/-- The body of STOP_AXIS (R315, R324, R461). -/
def bodyStopAxis (r : Req) (s : State) : State :=
  let ax := namedAxes r
  if ax.isEmpty then refuse r stBadParam s
  else if pairStandby s then refuse r stBadState s
  else
    let s := ax.foldl (fun s a => abortHomeOf a s) s
    let s := if s.core == .exposing && ax.any fun a => decide (a ≤ 1) then stopLoaf cStop false s else s
    r.reply stOk [] (armBroken (stopMovesIf (fun a => ax.contains a) s))

/-- STOP_AXIS (R315). -/
def execStopAxis (p : Port) (h : Hdr) (w : List Word) (s : State) : Host.Outcome State Fault Refusal :=
  done s (takeReq bodyStopAxis (mkReq p h 0x32 w) s)

/-! Limits and homing. -/

/-- LIMIT_EDGE (R319): a raw edge; the next primary word is latched. -/
def execLimitEdge (axis : Fin 4) (pos asserted : Bool) (s : State) : Host.Outcome State Fault Refusal :=
  done s (if ((s.axis axis.val).limit pos).raw = asserted then s
    else s.updAxis axis.val fun x => x.updLimit pos fun l => { l with raw := asserted, latch := none, await := some s.quarter })

/-- The axis being homed (R323). -/
def homingNow (a : Nat) (s : State) : Bool :=
  match s.mot.home with
  | some h => !h.aborting && h.axes.head? == some a
  | none => false

/-- The step of the homing in progress. -/
def homeStep (s : State) : Nat := (s.mot.home.map (·.step)).getD 0

/-- Set the step of the homing in progress. -/
def setHomeStep (n : Nat) (s : State) : State :=
  { s with mot := { s.mot with home := s.mot.home.map fun h => { h with step := n } } }

/-- The reference event (R323 steps 3 and 4): the offset, OFF and the planned trajectory change together, and the axis stops. A latch or
a word that no channel has delivered is free. -/
def referenceEvent (a : Nat) (l : Limit) (s : State) : State :=
  let (f1, s) := s.draw
  let (f2, s) := s.draw
  let x := s.axis a
  let cap := l.latch.getD (sext 36 f1)
  let off := (s.getReg (A.MOT_AX_HOME_POS a)).toInt - cap
  let shift : Rat := ((off - x.offset : Int) : Rat)
  let diff := match x.ifm, x.enc with
    | some i, some e => i - e
    | _, _ => sext 36 f2
  let s := s.updAxis a fun x => { x with offset := off, off := diff, rest := x.rest + shift }
  let moves := s.mot.moves.map fun m => { m with axes := m.axes.map fun y => if y.1 = a then (y.1, y.2.1 + shift, y.2.2) else y }
  stopMoves (· == a) (setHomeStep 4 { s with mot := { s.mot with moves := moves } })

/-- A debounced change to asserted (R320, R323, R324). -/
def limitTrip (a : Nat) (pos : Bool) (s : State) : State :=
  let ref := decide (0 < refDir a s) == pos
  if homingNow a s && ref then
    if homeStep s = 2 then referenceEvent a ((s.axis a).limit pos) s else s
  else gainFault a (if pos then F.MOT_AX_FAULT_LIMIT_P a else F.MOT_AX_FAULT_LIMIT_M a) s

/-- A debounced change to deasserted (R323 step 1). -/
def limitRelease (a : Nat) (pos : Bool) (s : State) : State :=
  if homingNow a s && decide (0 < refDir a s) == pos && homeStep s == 1 then stopMoves (· == a) s else s

/-- Five debounced transitions within 10 ms (R322). -/
def chatters (l : List Nat) : Bool :=
  match l.head?, l[4]? with
  | some a, some b => decide (a - b ≤ 4000000)
  | _, _ => false

/-- LIMIT_DEBOUNCE (R319 to R323): the raw input has held its level for 200 µs. -/
def execLimitDebounce (axis : Fin 4) (pos : Bool) (s : State) : Host.Outcome State Fault Refusal :=
  let a := axis.val
  let l := (s.axis a).limit pos
  done s (if !l.settled then s.updAxis a fun x => x.updLimit pos fun l => { l with deb := l.raw, settled := true }
    else if l.deb = l.raw then s
    else
      let moves := (s.tb.ticks :: l.moves).take 5
      let t := s.updAxis a fun x => x.updLimit pos fun l => { l with deb := l.raw, moves := moves }
      let t := if chatters moves then gainFault a (F.MOT_AX_FAULT_CHATTER a) t else t
      if l.raw then limitTrip a pos t else limitRelease a pos t)

/-- HOMING_TIMEOUT (R324): neither the release of step 1 nor the reference event of step 2 has come within 120 s. -/
def execHomingTimeout (s : State) : Host.Outcome State Fault Refusal :=
  done s (match s.mot.home with
    | some h =>
      let stops := match h.axes with
        | a :: _ => stopping a s
        | [] => false
      if h.aborting || !(h.step == 2 || (h.step == 1 && !stops)) then s else abortHome s
    | none => s)

/-- Homing of the first axis is done (R323 step 6). -/
def homeDone (s : State) : State :=
  match s.mot.home with
  | none => s
  | some h =>
    match h.axes with
    | [] => s
    | a :: rest =>
      let s := s.updAxis a fun x => { x with homed := true, homing := false }
      homeNext (raise F.MOT_EVT_HOMED { s with mot := { s.mot with home := some { h with axes := rest } } })

/-- The back-off of step 5 (R323). -/
def backOff (a : Nat) (s : State) : State :=
  let target := (s.getReg (A.MOT_AX_HOME_POS a)).toInt - refDir a s * 64 * (s.fld (F.MOT_AX_VEL_BACKOFF_NM a) : Int)
  setHomeStep 5 (beginMove [(a, target)] .homing s)

/-! Ends of moves. -/

/-- Has a move settled: every moved axis within its window for DEV_CNT words (R313); the back-off of homing, ended (R323)? -/
def settled (s : State) (m : Mv) : Bool :=
  !m.stopping && (match m.kind with
    | .plain | .arm => m.axes.all fun x => decide (s.fld (F.MOT_AX_CTL_DEV_CNT x.1) ≤ (s.axis x.1).settleRun)
    | .homing => homeStep s == 5 && decide (profEnd m.prof ≤ s.nowRat)
    | .resume => false)

/-- MOVE_SETTLED (R313, R323, R330). -/
def execMoveSettled (s : State) : Host.Outcome State Fault Refusal :=
  done s (match s.mot.moves.find? (settled s) with
    | none => s
    | some m =>
      let t := endMove m s
      match m.kind with
      | .plain => raise F.MOT_EVT_MOVE_DONE t
      | .arm => (match t.mot.arm with
          | some a =>
            if a.ends.isSome then jobCloseEnd (armEnd t)
            else answer .host a.tag stOk [] (armNow { t with mot := { t.mot with arm := none } })
          | none => t)
      | .homing => homeDone t
      | .resume => t)

/-- A stopped move has come to rest (R314, R323, R324, R338, R532). -/
def moveStopped (m : Mv) (s : State) : State :=
  let s := endMove m s
  match m.kind with
  | .plain => s
  | .arm => jobCloseEnd (armEnd s)
  | .homing => (match s.mot.home with
      | none => s
      | some h =>
        if h.aborting then { s with mot := { s.mot with home := none } }
        else match h.axes with
        | [] => s
        | a :: _ => if h.step = 1 then homeDrive a (refDir a s) (setHomeStep 2 s) else if h.step = 4 then backOff a s else s)
  | .resume =>
    let rest : Phase := { t0 := s.nowRat, dur := 0, p0 := (s.axis 1).rest, v0 := 0, a0 := 0, j := 0 }
    let s := { s with mot := { s.mot with scan := { s.mot.scan with prof := [rest], stopFrom := none } } }
    if s.mot.scan.state = .leadout then jobCloseEnd (loafEnd s) else s

/-- The scan's stop has ended with Y at rest (R337, R338, R473): a new owner that awaits the TOKEN frame goes on waiting. -/
def scanStopped (s : State) : State :=
  let t := { s with mot := { s.mot with scan := { s.mot.scan with stopping := false } } }
  match s.mot.scan.state with
  | .leadout => if awaitsToken s then s else jobCloseEnd (loafEnd s)
  | .pause => t
  | .none | .approach | .ready | .run | .hold => t

/-- STOP_END (R312, R337, R532): the stop that ends first has ended. -/
def execStopEnd (s : State) : Host.Outcome State Fault Refusal :=
  let first := leastBy (fun a b : Mv => decide (profEnd a.prof < profEnd b.prof)) (s.mot.moves.filter (·.stopping))
  done s (match first with
    | some m =>
      if s.mot.scan.stopping && decide (profEnd s.mot.scan.prof < profEnd m.prof) then scanStopped s else moveStopped m s
    | none => if s.mot.scan.stopping then scanStopped s else s)

end Sys2Proof.Machine
end

