-- ==== Sys2Proof/Machine/Partner.lean ====
section
/-!
DEFINITION. The redundant pair (R452 to R477): forming it, the messages of the pair link, the handover and the taking of the token.
-/
namespace Sys2Proof.Machine

/-! Forming the pair. -/

/-- The words whose digest a JOIN carries (R458), in its order. -/
def digestWords (s : State) : List Word :=
  let job := match s.job with
    | some j => [BitVec.ofNat 36 (j.beams * 2 ^ 18 + j.pitch), j.id, BitVec.ofNat 36 j.nextOrd]
    | none => [0, 0, 0]
  let regs := [A.SLC_SPLIT_CTL, A.SLC_DWELL, A.SLC_COND, A.SLC_HEAT_CTL] ++ ((List.range 256).map fun i => A.SLC_HEAT_DECAY i) ++
    [A.MOT_CTL, A.MOT_SCAN, A.MOT_SCAN_LIM, A.MOT_PLAN, A.MOT_RUN, A.MOT_AX_VEL 1, A.MOT_AX_ACC 1, A.MOT_AX_JERK 1, A.TB_LAUNCH_CTL]
  job ++ beamsPayload s.cal.beams ++ regs.map s.getReg

/-- The digest of a JOIN (R458). -/
def digestOf (s : State) : Nat := (crc32c (packWords (digestWords s))).toNat

/-- The token on entry to SYNC (R459): an asserted OWN_N stays, and side A asserts its own where neither is. -/
def placeToken (s : State) : State :=
  if s.pair.own || s.pins.peerOwn || s.pins.sideB then s else { s with pair := { s.pair with own := true } }

/-- Entry to SYNC (R458, R459). -/
def enterSync (s : State) : State :=
  let p := { s.pair with mirror := [], markEpochs := [], trajs := [], axes := none, unacked := [], handing := none, taking := none,
                         differ := false, alone := false }
  setPairSt 2 (placeToken { s with pair := p })

/-- A HOST JOIN that waits and the partner's JOIN meet (R458). -/
def tryJoin (s : State) : State :=
  match s.pair.join, s.pair.kept with
  | some (tag, own, _), some peer =>
    let s := { s with pair := { s.pair with join := none, kept := none } }
    if own = peer then answer .host tag stOk [] (enterSync s) else answer .host tag stCheckFail [] (setPairSt 3 s)
  | _, _ => s

/-- PAIR_SYNC JOIN of HOST (R458): the device's own JOIN goes to the partner. -/
def hostJoin (r : Req) (s : State) : State :=
  if !s.loaves.isEmpty then refuse r stBadState s
  else
    let d := digestOf s
    let s := { s with pair := { s.pair with join := some (r.tag, d, s.pair.st) } }
    let s := setPairSt 1 s
    tryJoin (if s.lnk.pair.up then (sendPeer 0x60 [fnWord 0x0, BitVec.ofNat 36 d] s).2 else s)

/-- PAIR_SYNC JOIN of PARTNER (R458, R466): it is kept. -/
def peerJoin (r : Req) (s : State) : State :=
  let s := r.reply stOk [] s
  tryJoin { s with pair := { s.pair with kept := some (r.fld 2 31 0) } }

/-- JOIN_TIMEOUT (R458): no JOIN of the partner within 1 s; STATE keeps its value. -/
def execJoinTimeout (s : State) : Host.Outcome State Fault Refusal :=
  done s (match s.pair.join with
    | some (tag, _, st) => answer .host tag stTimeout [] (setPairSt st { s with pair := { s.pair with join := none } })
    | none => s)

/-! Messages. -/

/-- The device's own BEAT (R465). The ordinal of a device that has no loaf armed is a free value. -/
def beatWords (free : Nat) (s : State) : List Word :=
  let ord := (armedOrd s).getD free
  [fnWord 0x1, BitVec.ofNat 36 (s.plc.front % 2 ^ 17 * 2 ^ 19 + s.core.code % 8 * 2 ^ 16 + ord % 2 ^ 16),
   BitVec.ofNat 36 (s.fld F.TB_LAUNCH_STATUS_LAUNCHED), BitVec.ofNat 36 (gmOf s % 2 ^ 36), BitVec.ofNat 36 (gmOf s / 2 ^ 36),
   BitVec.ofNat 36 (s.fld F.TB_PTP_STATUS_LOCKED + (if holds .host 0 s then 2 else 0))]

/-- BEAT_SEND (R465). -/
def execBeatSend (s : State) : Host.Outcome State Fault Refusal :=
  done s (if s.lnk.pair.up then
    let (n, s) := if (armedOrd s).isSome then (0, s) else s.draw
    (sendPeer 0x60 (beatWords n s) s).2
  else s)

/-- The standby's LOAF_ARM replies when the owner shows the loaf armed and its AXES have arrived (R460). -/
def followArm (s : State) : State :=
  match s.pair.armWait, s.pair.beat, currentLoaf s with
  | some tag, some b, some l =>
    if b.core = 3 ∧ b.ord = l.ord ∧ s.pair.axes.isSome = true then
      answer .host tag stOk [] (armNow { s with pair := { s.pair with armWait := none } })
    else s
  | _, _, _ => s

/-- A LOAF_START that waits for the partner goes on (R460): the standby at the owner's start, the owner once the standby is armed. -/
def followStart (s : State) : State :=
  match s.pair.startWait, s.pair.beat with
  | some tag, some b =>
    let go := if pairStandby s then b.core == 4 && (armedOrd s == some b.ord) else standbyShowsArmed s
    if go then startExposure tag { s with pair := { s.pair with startWait := none } } else s
  | _, _ => s

/-- The partner's BEAT (R460, R465, R469, R476). -/
def takeBeat (r : Req) (s : State) : State :=
  let b : Beat := { ready := r.fld 2 35 19, core := r.fld 2 18 16, ord := r.fld 2 15 0, launched := r.fld 3 31 0,
                    gm := r.fld 4 35 0 + r.fld 5 27 0 * 2 ^ 36, locked := r.fld 6 0 0 == 1, expHeld := r.fld 6 1 1 == 1,
                    tick := s.tb.ticks }
  let s := { s with pair := { s.pair with beat := some b } }
  let s := (s.setReg A.PAIR_PEER (r.word 2)).setFld F.PAIR_PEER_LNCH_LAUNCHED b.launched
  checkElig (followStart (followArm (checkElig s)))

/-- A TRAJ of the owner waits for the step of its tick (R462, R465). -/
def takeTraj (r : Req) (s : State) : State :=
  if !pairStandby s then s
  else { s with pair := { s.pair with trajs := s.pair.trajs ++ [(r.fld 2 35 0 + r.fld 3 14 0 * 2 ^ 36, r.fld 3 17 15, r.fld 4 19 0)] } }

/-- A MARK of the owner (R462, R464, R465). -/
def takeMark (r : Req) (s : State) : State :=
  if !pairStandby s then s
  else if r.markKind = 1 then
    { s with pair := { s.pair with markEpochs := s.pair.markEpochs ++ [(r.fld 3 31 0, r.fld 4 31 0)] } }
  else if r.markKind = 2 then pauseAt (r.fld 3 31 0) s
  else followArm { s with pair := { s.pair with axes := some (r.word 3, r.word 4, r.word 5) } }

/-- The loaf ordinal of a message that does not carry it: the partner's armed ordinal (R465). -/
def peerOrd (s : State) : Option Nat := s.pair.beat.map (·.ord)

/-- A TILE of the partner (R468). -/
def takeTile (r : Req) (s : State) : State :=
  match peerOrd s with
  | some o => takePeerTile { ord := o, row := r.fld 2 31 16, col := r.fld 2 4 0, k := (r.word 3).toNat, a := (r.word 4).toNat } s
  | none => s

/-- A SLICE of the partner (R468). -/
def takeSlice (r : Req) (s : State) : State :=
  match peerOrd s with
  | some o => takePeerSlice { ord := o, n := r.fld 2 31 0, clean := r.fld 2 35 35 == 1, pcrc := (r.w.drop 2).map BitVec.toNat } s
  | none => s

/-- A JNL of the owner (R465, R467). -/
def takeJnl (r : Req) (s : State) : State := if s.pair.own then s else mirrorEnt (JEnt.ofWords (r.w.drop 1)) s

/-- A message of PARTNER is acknowledged at once; while STATE is SINGLE or JOINING it is ignored (R466). -/
def pairMsg (act : Req → State → State) (r : Req) (s : State) : State :=
  let s := r.reply stOk [] s
  if s.pair.st < 2 then s else act r s

/-- STATE becomes SINGLE (R459, R466); a standby's running loaf ends first. -/
def leavePair (s : State) : State :=
  let s := unfollow s
  setPairSt 0 { s with pair := { s.pair with unacked := [], kept := none, handing := none, taking := none,
                                             join := s.pair.join.map fun j => (j.1, j.2.1, 0) } }

/-- PAIR_SYNC LEAVE (R466): of HOST, it also goes to the partner. -/
def bodyLeave (r : Req) (s : State) : State :=
  let s := r.reply stOk [] s
  let s := leavePair s
  if r.port = .host ∧ s.lnk.pair.up = true then (sendPeer 0x60 [fnWord 0x7] s).2 else s

/-- PAIR_SYNC HANDOVER (R466, R470). -/
def bodyHandover (r : Req) (s : State) : State :=
  if !pairOwner s || s.pair.handing.isSome then refuse r stBadState s
  else match s.core with
    | .exposing =>
      if eligible s && running s then stopHand cTakeover (stopLoaf cTakeover false) (some r.tag) s else refuse r stBadState s
    | .boot | .idle | .job | .armed | .safe | .recovery =>
      if followReady s then
        let (o, s) := s.draw
        sendTakeover 0xFFFFFFFF s.quarter cTakeover (o % 2 ^ 16) (some r.tag) true s
      else refuse r stBadState s

/-- The body of PAIR_SYNC by port and FN (R465, R466). -/
def bodyPairSync (r : Req) (s : State) : State :=
  if !fnFrom r then refuse r stBadParam s
  else match r.fn with
  | 0 => if r.port = .host then hostJoin r s else peerJoin r s
  | 1 => pairMsg takeBeat r s
  | 2 => pairMsg takeTraj r s
  | 3 => pairMsg takeMark r s
  | 4 => pairMsg takeTile r s
  | 5 => pairMsg takeSlice r s
  | 6 => pairMsg takeJnl r s
  | 7 => bodyLeave r s
  | _ => bodyHandover r s

/-- PAIR_SYNC JOIN from HOST (R458). -/
def execJoin (h : Hdr) (w : List Word) (s : State) : Host.Outcome State Fault Refusal :=
  done s (takeReq bodyPairSync (mkReq .host h 0x60 (withFn 0x0 w)) s)

/-- PAIR_SYNC JOIN from PARTNER (R466). -/
def execPartnerJoin (h : Hdr) (w : List Word) (s : State) : Host.Outcome State Fault Refusal :=
  done s (takeReq bodyPairSync (mkReq .partner h 0x60 (withFn 0x0 w)) s)

/-- PAIR_SYNC BEAT (R465). -/
def execBeat (p : Port) (h : Hdr) (w : List Word) (s : State) : Host.Outcome State Fault Refusal :=
  done s (takeReq bodyPairSync (mkReq p h 0x60 (withFn 0x1 w)) s)

/-- PAIR_SYNC TRAJ (R462, R465). -/
def execTraj (p : Port) (h : Hdr) (w : List Word) (s : State) : Host.Outcome State Fault Refusal :=
  done s (takeReq bodyPairSync (mkReq p h 0x60 (withFn 0x2 w)) s)

/-- PAIR_SYNC MARK (R462, R465). -/
def execMark (p : Port) (h : Hdr) (w : List Word) (s : State) : Host.Outcome State Fault Refusal :=
  done s (takeReq bodyPairSync (mkReq p h 0x60 (withFn 0x3 w)) s)

/-- PAIR_SYNC TILE (R468). -/
def execTile (p : Port) (h : Hdr) (w : List Word) (s : State) : Host.Outcome State Fault Refusal :=
  done s (takeReq bodyPairSync (mkReq p h 0x60 (withFn 0x4 w)) s)

/-- PAIR_SYNC SLICE (R468). -/
def execSlice (p : Port) (h : Hdr) (w : List Word) (s : State) : Host.Outcome State Fault Refusal :=
  done s (takeReq bodyPairSync (mkReq p h 0x60 (withFn 0x5 w)) s)

/-- PAIR_SYNC JNL (R465, R467). -/
def execJnl (p : Port) (h : Hdr) (w : List Word) (s : State) : Host.Outcome State Fault Refusal :=
  done s (takeReq bodyPairSync (mkReq p h 0x60 (withFn 0x6 w)) s)

/-- PAIR_SYNC LEAVE (R466). -/
def execLeave (p : Port) (h : Hdr) (w : List Word) (s : State) : Host.Outcome State Fault Refusal :=
  done s (takeReq bodyPairSync (mkReq p h 0x60 (withFn 0x7 w)) s)

/-- PAIR_SYNC HANDOVER (R466). -/
def execHandover (p : Port) (h : Hdr) (w : List Word) (s : State) : Host.Outcome State Fault Refusal :=
  done s (takeReq bodyPairSync (mkReq p h 0x60 (withFn 0x8 w)) s)

/-! The takeover. -/

/-- PAIR_TAKEOVER of the owner (R466, R471, R475): an eligible standby agrees; in JOB, one that follows. -/
def bodyPairTakeover (r : Req) (s : State) : State :=
  let first := r.fld 1 31 0
  let cause := r.fld 4 19 16
  let inJob := decide (first = 0xFFFFFFFF ∧ cause = cTakeover)
  let fit := pairStandby s && s.pair.taking.isNone && (if inJob then s.core == .job && followReady s else eligible s)
  if !fit then refuse r stBadState s
  else
    let t : Taking := { first := first, lFirst := (r.word 2).toNat + r.fld 3 29 0 * 2 ^ 36, cause := cause, ord := r.fld 4 15 0,
                        seen := !s.pins.peerOwn, taken := false, unasked := false, inJob := inJob }
    r.reply stOk [] { s with pair := { s.pair with taking := some t } }

/-- PAIR_TAKEOVER (R471). -/
def execPairTakeover (p : Port) (h : Hdr) (w : List Word) (s : State) : Host.Outcome State Fault Refusal :=
  done s (takeReq bodyPairTakeover (mkReq p h 0x61 w) s)

/-- The partner's reply to PAIR_TAKEOVER (R466, R471). -/
def takeoverReply (status : Nat) (s : State) : State :=
  if status = stOk then passIfDue { s with pair := { s.pair with handing := s.pair.handing.map fun h => { h with ok := true } } }
  else keepToken stBadState s

/-- A reply of the partner, its STATUS in the header's flags (R377): of a PAIR_TAKEOVER (R471), or the OK that acknowledges a JNL
(R467). -/
def execPartnerReply (h : Hdr) (opcode : BitVec 8) (w : List Word) (s : State) : Host.Outcome State Fault Refusal :=
  let status := h.flags.toNat
  let mine := match s.pair.handing with
    | some x => x.tag == h.tag && !x.ok && !x.passed
    | none => false
  done s (if opcode = 0x61 ∧ mine = true ∧ w = [] then takeoverReply status s
    else if opcode = 0x60 ∧ status = stOk then { s with pair := { s.pair with unacked := s.pair.unacked.filter (· != h.tag) } }
    else s)

/-- TAKEOVER_L_FIRST_REACHED (R471): the owner's clock reaches L_FIRST after the OK. -/
def execTakeoverLFirstReached (s : State) : Host.Outcome State Fault Refusal := done s (passIfDue s)

/-- TAKEOVER_REPLY_TIMEOUT (R471). -/
def execTakeoverReplyTimeout (s : State) : Host.Outcome State Fault Refusal :=
  done s (match s.pair.handing with
    | some h => if h.ok || h.host.isSome then s else keepToken stTimeout s
    | none => s)

/-- HANDOVER_TIMEOUT (R466). -/
def execHandoverTimeout (s : State) : Host.Outcome State Fault Refusal :=
  done s (match s.pair.handing with
    | some h => if h.ok || h.host.isNone then s else keepToken stTimeout s
    | none => s)

/-- PEER_OWN_N changes (R471). -/
def execPeerOwnNChange (asserted : Bool) (s : State) : Host.Outcome State Fault Refusal :=
  let t := { s with pins := { s.pins with peerOwn := asserted } }
  donePin s (if heldInReset s then t
    else { t with pair := { t.pair with taking := t.pair.taking.map fun x => if x.taken then x else { x with seen := !asserted } } })

/-- TOKEN_GAP_EXPIRE (R471, R473): the standby asserts OWN_N; never while it sees the other's asserted. -/
def execTokenGapExpire (s : State) : Host.Outcome State Fault Refusal :=
  done s (match s.pair.taking with
    | some t => if t.seen && !t.taken && !s.pins.peerOwn then takeToken t s else s
    | none => s)

/-- STANDBY_TAKE_TIMEOUT (R471): PEER_OWN_N still asserted 100 µs after the OK. -/
def execStandbyTakeTimeout (s : State) : Host.Outcome State Fault Refusal :=
  done s (match s.pair.taking with
    | some t =>
      if t.taken || !s.pins.peerOwn then s else setPairSt 3 (unfollow { s with pair := { s.pair with taking := none } })
    | none => s)

/-- TOKEN_LEASE_EXPIRE (R472): no BEAT for TOKEN_MS. -/
def execTokenLeaseExpire (s : State) : Host.Outcome State Fault Refusal :=
  done s (if !pairStandby s || beatFresh s || s.pair.taking.isSome then s
    else if s.pins.peerOwn then setPairSt 3 (unfollow s)
    else
      let first := firstAt (s.quarter + 2000) s
      takeToken { first := first, lFirst := lFirstOf first s, cause := cTakeover, ord := (armedOrd s).getD 0, seen := true, taken := false,
                  unasked := true, inJob := false } s)

/-- TOKEN_FRAME_TIMEOUT (R473): the CANCELLED range starts at FIRST, and a LOST entry follows. -/
def execTokenFrameTimeout (s : State) : Host.Outcome State Fault Refusal :=
  done s (match s.pair.taking with
    | some t => if awaitsToken s then takeoverEnts t.first true s else s
    | none => s)

/-- LOAF_START_HOLD_TIMEOUT (R460): the owner starts alone, and the standby is not eligible for that loaf. -/
def execLoafStartHoldTimeout (s : State) : Host.Outcome State Fault Refusal :=
  done s (match s.pair.startWait with
    | some tag =>
      if pairStandby s then s
      else checkElig (startExposure tag { s with pair := { s.pair with startWait := none, alone := true } })
    | none => s)

end Sys2Proof.Machine
end

