-- ==== Sys2Proof/Machine/Ports.lean ====
section
/-!
DEFINITION. The ports (R381 to R389): requests taken from the submission ring and from SERVICE frames, by opcode, and what resets a
port.
-/
namespace Sys2Proof.Machine

/-- The body of a request by its opcode (R393). -/
def dispatchOp (r : Req) (s : State) : State :=
  match r.op with
  | 0x01 => bodyNop r s
  | 0x02 => bodyRegRead r s
  | 0x03 => bodyRegWrite r s
  | 0x04 => bodyRegModify r s
  | 0x10 => bodyJobOpen r s
  | 0x11 => bodyJobClose r s
  | 0x12 => bodyLoafLoad r s
  | 0x13 => bodyLoafArm r s
  | 0x14 => bodyLoafStart r s
  | 0x15 => bodyLoafStop r s
  | 0x16 => bodyLoafAbort r s
  | 0x18 => bodyJournalRead r s
  | 0x20 => bodyLockAcquire r s
  | 0x21 => bodyLockRelease r s
  | 0x22 => bodyLeaseRenew r s
  | 0x30 => bodyMove r s
  | 0x31 => bodyHome r s
  | 0x32 => bodyStopAxis r s
  | 0x40 | 0x41 | 0x42 | 0x43 => bodyCal r s
  | 0x50 => bodyLinkTrain r s
  | 0x51 => bodyLinkLoopback r s
  | 0x58 => bodyMemRetrain r s
  | 0x60 => bodyPairSync r s
  | 0x61 => bodyPairTakeover r s
  | 0x70 => bodyEventRead r s
  | 0x7F => bodyResetSoft r s
  | _ => s

/-- The request that a packet carries (R377): its header and the words that follow, of which LEN are its payload. -/
def packetReq (p : Port) (h : Word) (w : List Word) : Req :=
  { port := p, tag := h.extractLsb' 18 10, flags := h.extractLsb' 0 6, op := wbits h 35 28, w := w.take (wbits h 17 6) }

/-- Groups that wait in the submission ring (R382). -/
def ringWaiting (s : State) : Nat := (s.fld F.CMD_SQ_TAIL_PTR + 2 ^ 21 - s.fld F.CMD_SQ_HEAD_PTR) % 2 ^ 21

/-- The nine bytes of group `p` of a ring of 2^k groups that host memory holds; bytes it does not give read zero. -/
def ringGroup (ring : List Byte) (k p : Nat) : List Byte := (List.range 9).map fun i => nth 0 ring (9 * (p % 2 ^ k) + i)

/-- The words of `n` groups of the submission ring from group `p` on (R48, R381, R382). -/
def ringWords (ring : List Byte) (k p n : Nat) : List Word := (List.range n).flatMap fun i => unpackGroup (ringGroup ring k (p + i))

/-- Take the packet at CMD_SQ_HEAD (R381 to R383): the pointer indexes the ring modulo its size, and its groups are read one after the
other. -/
def takeRing (ring : List Byte) (s : State) : State :=
  let k := s.fld F.CMD_Q_CTL_SQ_LOG2
  let p := s.fld F.CMD_SQ_HEAD_PTR
  let h := nth 0 (ringWords ring k p 1) 0
  let n := packetGroups (wbits h 17 6)
  let r := packetReq .host h ((ringWords ring k p n).drop 1)
  if !portUp .host s || decide (ringWaiting s < n) || !ringRoom r s || decide (960 ≤ (flightsOf .host s).length) then s
  else
    let s := emit (.hostRead ((List.range n).map fun i => ringAddr (sqBase s) k (p + i))) s
    takeReq dispatchOp r (s.setFld F.CMD_SQ_HEAD_PTR (ptrAdd p n))

/-- HOST_REQUEST_TAKE (R381 to R383): `ring` is what host memory holds from the address of the submission ring on (DESIGN CHOICE,
log 11). -/
def execHostRequestTake (ring : List Byte) (s : State) : Host.Outcome State Fault Refusal := done s (takeRing ring s)

/-- A frame or a ring access failed (R384, R387). -/
def frameErr (p : Port) (s : State) : State := raise F.CMD_EVT_FRAME_ERR (s.bump (F.CMD_PORT_ERR_FRAME_ERR (portIdx p)))

/-- RING_ACCESS_FAULT (R384). -/
def execRingAccessFault (s : State) : Host.Outcome State Fault Refusal :=
  done s (if s.bit F.CMD_Q_CTL_EN then resetPort .host (frameErr .host (s.setFld F.CMD_Q_CTL_EN 0)) else s)

/-- HOST_LINK_RESET (R373, R389): `d3` tells an entry to D3hot, in which the port counts as reset until it is reset in another way. -/
def execHostLinkReset (s : State) (d3 : Bool := false) : Host.Outcome State Fault Refusal :=
  done s (resetPort .host { s with cmd := { s.cmd with d3 := d3 } })

/-- The bytes of a frame on the SERVICE line that have come are kept (R387). -/
def keepRx (b : List Byte) (s : State) : State := { s with cmd := { s.cmd with rx := b } }

/-- Receive bytes on the SERVICE line (R386, R387): hunt for 0x7E, take LEN from the first group, and check the CRC. A discarded frame is
hunted again from the byte after its 0x7E. A frame whose bytes have not all come is kept, or, where a gap falls in it, discarded. -/
def serviceScan (gap : Bool) : Nat → List Byte → State → State
  | 0, _, s => keepRx [] s
  | fuel + 1, b, s =>
    match b.dropWhile (· != 0x7E) with
    | [] => keepRx [] s
    | x :: r =>
      let w := wordsOf (r.take 9)
      let n := 9 * packetGroups (wbits (nth 0 w 0) 17 6)
      if r.length < 9 ∨ r.length < n + 4 then
        if gap then serviceScan gap fuel r (frameErr .service s) else keepRx (x :: r) s
      else if leNat ((r.drop n).take 4) = (crc32c (r.take n)).toNat then
        let l := wordsOf (r.take n)
        serviceScan gap fuel (r.drop (n + 4)) (takeReq dispatchOp (packetReq .service (nth 0 l 0) (l.drop 1)) s)
      else serviceScan gap fuel r (frameErr .service s)

/-- SERVICE_FRAME (R386, R387): bytes that arrive on the line, after those of a frame in progress. -/
def execServiceFrame (bytes : List Byte) (s : State) : Host.Outcome State Fault Refusal :=
  let b := s.cmd.rx ++ bytes
  done s (if s.cmd.uart then serviceScan false (b.length + 1) b s else s)

/-- SERVICE_BYTE_GAP (R387): the frame in progress is discarded, and the receiver hunts from the byte after its 0x7E. A frame of which no byte
stands in the state counts too (DESIGN CHOICE, log 12). -/
def execServiceByteGap (s : State) : Host.Outcome State Fault Refusal :=
  let b := s.cmd.rx
  done s (if !s.cmd.uart then s else if b.isEmpty then frameErr .service s else serviceScan true (b.length + 1) b s)

/-- BREAK (R387, R389): a break also ends the frame in progress. -/
def execLineBreak (s : State) : Host.Outcome State Fault Refusal := done s (if s.cmd.uart then keepRx [] (resetPort .service s) else s)

end Sys2Proof.Machine
end

