-- ==== Sys2Proof/Machine/Tap.lean ====
section
/-!
DEFINITION. The test access port (R520 to R522): the instruction that is active, and the reset in which some instructions hold
the device. No row of the table shifts a register (DESIGN CHOICE, log 68); any code not listed selects BYPASS (R521).
-/
namespace Sys2Proof.Machine

/-- The cells of the boundary register that drive SP_CLK, SP_DAT and SP_FRM while the instruction lets it drive the balls (R521 to R523). -/
def setpointCells (s : State) : Option (BitVec 3) :=
  match s.tap with
  | .extest | .extestPulse | .extestTrain | .clamp => some (s.boundary.extractLsb' 61 3)
  | .sample | .idcode | .highz | .bypass => none

/-- Select an instruction that does not hold the device in reset (R520, R521). -/
def selectTap (i : TapIns) (s : State) : State := { s with tap := i }

/-- Select an instruction that holds the device in reset as RESET_N does (R522): the reset begins unless one holds already. -/
def holdTap (i : TapIns) (s : State) : State :=
  if heldInReset s then selectTap i s
  else
    let t := deviceReset rstPin s
    selectTap i { t with pins := { t.pins with resetN := s.pins.resetN } }

/-- EXTEST (R521, R522). -/
def execExtest (s : State) : Host.Outcome State Fault Refusal := donePin s (holdTap .extest s)

/-- SAMPLE/PRELOAD (R521). -/
def execSamplePreload (s : State) : Host.Outcome State Fault Refusal := donePin s (selectTap .sample s)

/-- IDCODE (R520). -/
def execIdcode (s : State) : Host.Outcome State Fault Refusal := donePin s (selectTap .idcode s)

/-- CLAMP (R521, R522). -/
def execJtagClamp (s : State) : Host.Outcome State Fault Refusal := donePin s (holdTap .clamp s)

/-- HIGHZ (R521, R522). -/
def execHighz (s : State) : Host.Outcome State Fault Refusal := donePin s (holdTap .highz s)

/-- EXTEST_PULSE (R521, R522). -/
def execExtestPulse (s : State) : Host.Outcome State Fault Refusal := donePin s (holdTap .extestPulse s)

/-- EXTEST_TRAIN (R521, R522). -/
def execExtestTrain (s : State) : Host.Outcome State Fault Refusal := donePin s (holdTap .extestTrain s)

/-- BYPASS, and any code that the table does not list (R521). -/
def execBypass (s : State) : Host.Outcome State Fault Refusal := donePin s (selectTap .bypass s)

/-- Test-Logic-Reset (R520, R522). -/
def execTestLogicReset (s : State) : Host.Outcome State Fault Refusal := donePin s (selectTap .idcode s)

end Sys2Proof.Machine
end

