-- ==== Sys2Proof/Machine/Dispatch.lean ====
section
/-!
DEFINITION. The dispatcher: one arm for each command of the table, each one direct call of the command's meaning.
-/
namespace Sys2Proof.Machine

def exec (i : Instr) (s : State) : Host.Outcome State Fault Refusal :=
  match i with
  | .nop p h w => Sys2Proof.Machine.execNop p h w s
  | .regRead p h w => Sys2Proof.Machine.execRegRead p h w s
  | .regWrite p h w => Sys2Proof.Machine.execRegWrite p h w s
  | .regModify p h w => Sys2Proof.Machine.execRegModify p h w s
  | .jobOpen p h w => Sys2Proof.Machine.execJobOpen p h w s
  | .jobClose p h w => Sys2Proof.Machine.execJobClose p h w s
  | .loafLoad p h w => Sys2Proof.Machine.execLoafLoad p h w s
  | .loafArm p h w => Sys2Proof.Machine.execLoafArm p h w s
  | .loafStart p h w => Sys2Proof.Machine.execLoafStart p h w s
  | .loafStop p h w => Sys2Proof.Machine.execLoafStop p h w s
  | .loafAbort p h w => Sys2Proof.Machine.execLoafAbort p h w s
  | .journalRead p h w => Sys2Proof.Machine.execJournalRead p h w s
  | .lockAcquire p h w => Sys2Proof.Machine.execLockAcquire p h w s
  | .lockRelease p h w => Sys2Proof.Machine.execLockRelease p h w s
  | .leaseRenew p h w => Sys2Proof.Machine.execLeaseRenew p h w s
  | .move p h w => Sys2Proof.Machine.execMove p h w s
  | .home p h w => Sys2Proof.Machine.execHome p h w s
  | .stopAxis p h w => Sys2Proof.Machine.execStopAxis p h w s
  | .calCaptureDark p h w => Sys2Proof.Machine.execCalCaptureDark p h w s
  | .calCaptureFlat p h w => Sys2Proof.Machine.execCalCaptureFlat p h w s
  | .calCaptureBeams p h w => Sys2Proof.Machine.execCalCaptureBeams p h w s
  | .calCaptureRxOff p h w => Sys2Proof.Machine.execCalCaptureRxOff p h w s
  | .calCaptureOsc p h w => Sys2Proof.Machine.execCalCaptureOsc p h w s
  | .calApply p h w => Sys2Proof.Machine.execCalApply p h w s
  | .nvmStore p h w sense => Sys2Proof.Machine.execNvmStore p h w sense s
  | .nvmStoreCompact p h w sense => Sys2Proof.Machine.execNvmStoreCompact p h w sense s
  | .nvmLoad p h w => Sys2Proof.Machine.execNvmLoad p h w s
  | .linkTrain p h w => Sys2Proof.Machine.execLinkTrain p h w s
  | .linkLoopback p h w => Sys2Proof.Machine.execLinkLoopback p h w s
  | .memRetrain p h w => Sys2Proof.Machine.execMemRetrain p h w s
  | .join h w => Sys2Proof.Machine.execJoin h w s
  | .partnerJoin h w => Sys2Proof.Machine.execPartnerJoin h w s
  | .beat p h w => Sys2Proof.Machine.execBeat p h w s
  | .traj p h w => Sys2Proof.Machine.execTraj p h w s
  | .mark p h w => Sys2Proof.Machine.execMark p h w s
  | .tile p h w => Sys2Proof.Machine.execTile p h w s
  | .slice p h w => Sys2Proof.Machine.execSlice p h w s
  | .jnl p h w => Sys2Proof.Machine.execJnl p h w s
  | .leave p h w => Sys2Proof.Machine.execLeave p h w s
  | .handover p h w => Sys2Proof.Machine.execHandover p h w s
  | .pairTakeover p h w => Sys2Proof.Machine.execPairTakeover p h w s
  | .eventRead p h w => Sys2Proof.Machine.execEventRead p h w s
  | .resetSoft p h w => Sys2Proof.Machine.execResetSoft p h w s
  | .nonAlignedWrite addr len => Sys2Proof.Machine.execNonAlignedWrite addr len s
  | .outOfBlockWrite addr v => Sys2Proof.Machine.execOutOfBlockWrite addr v s
  | .malformedRead addr len => Sys2Proof.Machine.execMalformedRead addr len s
  | .registerWrite p addr v => Sys2Proof.Machine.execRegisterWrite p addr v s
  | .w1cFlagClear p addr v hw => Sys2Proof.Machine.execW1cFlagClear p addr v hw s
  | .counterClear p addr v hw => Sys2Proof.Machine.execCounterClear p addr v hw s
  | .recordClear p addr v => Sys2Proof.Machine.execRecordClear p addr v s
  | .tbTimeLoRead p => Sys2Proof.Machine.execTbTimeLoRead p s
  | .camFstat0Read p => Sys2Proof.Machine.execCamFstat0Read p s
  | .tbIncWrite p v => Sys2Proof.Machine.execTbIncWrite p v s
  | .tbStep p v => Sys2Proof.Machine.execTbStep p v s
  | .ringEnable p v => Sys2Proof.Machine.execRingEnable p v s
  | .ringDisable p v => Sys2Proof.Machine.execRingDisable p v s
  | .cmdCqHeadWrite p v => Sys2Proof.Machine.execCmdCqHeadWrite p v s
  | .cmdGrantWrite p v => Sys2Proof.Machine.execCmdGrantWrite p v s
  | .clusterReturn p hi v takenOut => Sys2Proof.Machine.execClusterReturn p hi v takenOut s
  | .faultCauseClear p axis v => Sys2Proof.Machine.execFaultCauseClear p axis v s
  | .offlineRequest p cluster v => Sys2Proof.Machine.execOfflineRequest p cluster v s
  | .go p v => Sys2Proof.Machine.execGo p v s
  | .release p v => Sys2Proof.Machine.execRelease p v s
  | .calTrimDataWrite p v => Sys2Proof.Machine.execCalTrimDataWrite p v s
  | .read p => Sys2Proof.Machine.execRead p s
  | .program p => Sys2Proof.Machine.execProgram p s
  | .erase p => Sys2Proof.Machine.execErase p s
  | .flashOperationDone r sense => Sys2Proof.Machine.execFlashOperationDone r sense s
  | .bistGo p v => Sys2Proof.Machine.execBistGo p v s
  | .bistEnd banks clusters => Sys2Proof.Machine.execBistEnd banks clusters s
  | .hostRequestTake ring => Sys2Proof.Machine.execHostRequestTake ring s
  | .ringAccessFault => Sys2Proof.Machine.execRingAccessFault s
  | .hostLinkReset d3 => Sys2Proof.Machine.execHostLinkReset s d3
  | .serviceFrame bytes => Sys2Proof.Machine.execServiceFrame bytes s
  | .serviceByteGap => Sys2Proof.Machine.execServiceByteGap s
  | .lineBreak => Sys2Proof.Machine.execLineBreak s
  | .partnerReply h opcode w => Sys2Proof.Machine.execPartnerReply h opcode w s
  | .leaseExpire cal => Sys2Proof.Machine.execLeaseExpire cal s
  | .doughSegmentLoad data => Sys2Proof.Machine.execDoughSegmentLoad data s
  | .tileDispatch => Sys2Proof.Machine.execTileDispatch s
  | .kneaderTake c => Sys2Proof.Machine.execKneaderTake c s
  | .expansionDone k r => Sys2Proof.Machine.execExpansionDone k r s
  | .areaCheckDone c r => Sys2Proof.Machine.execAreaCheckDone c r s
  | .clusterOfflineBoundary c => Sys2Proof.Machine.execClusterOfflineBoundary c s
  | .compressionStart c inOrder => Sys2Proof.Machine.execCompressionStart c inOrder s
  | .proofPageRequest c inBytes => Sys2Proof.Machine.execProofPageRequest c inBytes s
  | .compressorResume => Sys2Proof.Machine.execCompressorResume s
  | .tileComplete ks => Sys2Proof.Machine.execTileComplete ks s
  | .waitWatchdogExpire => Sys2Proof.Machine.execWaitWatchdogExpire s
  | .rateMeasure c => Sys2Proof.Machine.execRateMeasure c s
  | .windowFillRow filler next => Sys2Proof.Machine.execWindowFillRow filler next s
  | .segmentRebuild filler => Sys2Proof.Machine.execSegmentRebuild filler s
  | .transactionAccept pc port addr bursts deadline write => Sys2Proof.Machine.execTransactionAccept pc port addr bursts deadline write s
  | .selfRefreshExitDone failed => Sys2Proof.Machine.execSelfRefreshExitDone failed s
  | .busSlotStart pc => Sys2Proof.Machine.execBusSlotStart pc s
  | .refreshDue pc => Sys2Proof.Machine.execRefreshDue pc s
  | .refreshDone pc => Sys2Proof.Machine.execRefreshDone pc s
  | .transactionComplete pc => Sys2Proof.Machine.execTransactionComplete pc s
  | .errorSeverityReport pc uncorrectable => Sys2Proof.Machine.execErrorSeverityReport pc uncorrectable s
  | .parityError pc => Sys2Proof.Machine.execParityError pc s
  | .stackTemperatureReadout stack t => Sys2Proof.Machine.execStackTemperatureReadout stack t s
  | .retrainingStart => Sys2Proof.Machine.execRetrainingStart s
  | .retrainingDone ok => Sys2Proof.Machine.execRetrainingDone ok s
  | .selfRefreshEntry => Sys2Proof.Machine.execSelfRefreshEntry s
  | .sliceBuild => Sys2Proof.Machine.execSliceBuild s
  | .laneSliceStart lane => Sys2Proof.Machine.execLaneSliceStart lane s
  | .notReady lane => Sys2Proof.Machine.execNotReady lane s
  | .sliceLaunch => Sys2Proof.Machine.execSliceLaunch s
  | .positionWord axis encoder frame arrival => Sys2Proof.Machine.execPositionWord axis encoder frame arrival s
  | .crossingTimeout => Sys2Proof.Machine.execCrossingTimeout s
  | .posLost axis => Sys2Proof.Machine.execPosLost axis s
  | .timeWordDue lane => Sys2Proof.Machine.execTimeWordDue lane s
  | .laneIdDue lane => Sys2Proof.Machine.execLaneIdDue lane s
  | .setpointFrameSend => Sys2Proof.Machine.execSetpointFrameSend s
  | .plannerStep => Sys2Proof.Machine.execPlannerStep s
  | .slowHoldExpire => Sys2Proof.Machine.execSlowHoldExpire s
  | .sync m => Sys2Proof.Machine.execSync m s
  | .announce port m => Sys2Proof.Machine.execAnnounce port m s
  | .delayReqSend => Sys2Proof.Machine.execDelayReqSend s
  | .holdover => Sys2Proof.Machine.execHoldover s
  | .transparentClockForward port f ingress egress => Sys2Proof.Machine.execTransparentClockForward port f ingress egress s
  | .limitEdge axis pos asserted => Sys2Proof.Machine.execLimitEdge axis pos asserted s
  | .limitDebounce axis pos => Sys2Proof.Machine.execLimitDebounce axis pos s
  | .moveSettled => Sys2Proof.Machine.execMoveSettled s
  | .stopEnd => Sys2Proof.Machine.execStopEnd s
  | .resumeApproachDone => Sys2Proof.Machine.execResumeApproachDone s
  | .homingTimeout => Sys2Proof.Machine.execHomingTimeout s
  | .status g bytes => Sys2Proof.Machine.execStatus g bytes s
  | .discard g bytes => Sys2Proof.Machine.execDiscard g bytes s
  | .laneFault g bytes => Sys2Proof.Machine.execLaneFault g bytes s
  | .token g bytes => Sys2Proof.Machine.execToken g bytes s
  | .backChannelSilent g => Sys2Proof.Machine.execBackChannelSilent g s
  | .clkFirstDecide => Sys2Proof.Machine.execClkFirstDecide s
  | .clkReportTimeout => Sys2Proof.Machine.execClkReportTimeout s
  | .trainingPhaseEnd g failed => Sys2Proof.Machine.execTrainingPhaseEnd g failed s
  | .trainingPhaseTimeout g late => Sys2Proof.Machine.execTrainingPhaseTimeout g late s
  | .linkLoopbackEnd => Sys2Proof.Machine.execLinkLoopbackEnd s
  | .laneDriverSetOn => Sys2Proof.Machine.execLaneDriverSetOn s
  | .pairLink mask clk => Sys2Proof.Machine.execPairLink mask clk s
  | .pairLinkDown => Sys2Proof.Machine.execPairLinkDown s
  | .beatSend => Sys2Proof.Machine.execBeatSend s
  | .tokenLeaseExpire => Sys2Proof.Machine.execTokenLeaseExpire s
  | .peerOwnNChange asserted => Sys2Proof.Machine.execPeerOwnNChange asserted s
  | .tokenGapExpire => Sys2Proof.Machine.execTokenGapExpire s
  | .takeoverReplyTimeout => Sys2Proof.Machine.execTakeoverReplyTimeout s
  | .standbyTakeTimeout => Sys2Proof.Machine.execStandbyTakeTimeout s
  | .tokenFrameTimeout => Sys2Proof.Machine.execTokenFrameTimeout s
  | .loafStartHoldTimeout => Sys2Proof.Machine.execLoafStartHoldTimeout s
  | .joinTimeout => Sys2Proof.Machine.execJoinTimeout s
  | .handoverTimeout => Sys2Proof.Machine.execHandoverTimeout s
  | .resetN => Sys2Proof.Machine.execResetN s
  | .power => Sys2Proof.Machine.execPower s
  | .wdogReset => Sys2Proof.Machine.execWdogReset s
  | .boot vout ack hbmFailed => Sys2Proof.Machine.execBoot vout ack hbmFailed s
  | .journalMarkDone => Sys2Proof.Machine.execJournalMarkDone s
  | .clusterEnableStep => Sys2Proof.Machine.execClusterEnableStep s
  | .interlockN => Sys2Proof.Machine.execInterlockN s
  | .interlockDeassert => Sys2Proof.Machine.execInterlockDeassert s
  | .pwrFail => Sys2Proof.Machine.execPwrFail s
  | .journalDump => Sys2Proof.Machine.execJournalDump s
  | .journalDumpEnd => Sys2Proof.Machine.execJournalDumpEnd s
  | .coreUv raw => Sys2Proof.Machine.execCoreUv raw s
  | .bankSensorReading bank raw => Sys2Proof.Machine.execBankSensorReading bank raw s
  | .avsPeriod rates ack => Sys2Proof.Machine.execAvsPeriod rates ack s
  | .pmbusStatusPoll status => Sys2Proof.Machine.execPmbusStatusPoll status s
  | .idleOff => Sys2Proof.Machine.execIdleOff s
  | .frameStart => Sys2Proof.Machine.execFrameStart s
  | .frameEnd edges => Sys2Proof.Machine.execFrameEnd edges s
  | .frameWatchdog => Sys2Proof.Machine.execFrameWatchdog s
  | .camTrigFall => Sys2Proof.Machine.execCamTrigFall s
  | .noFrameTimeout => Sys2Proof.Machine.execNoFrameTimeout s
  | .extest => Sys2Proof.Machine.execExtest s
  | .samplePreload => Sys2Proof.Machine.execSamplePreload s
  | .idcode => Sys2Proof.Machine.execIdcode s
  | .jtagClamp => Sys2Proof.Machine.execJtagClamp s
  | .highz => Sys2Proof.Machine.execHighz s
  | .extestPulse => Sys2Proof.Machine.execExtestPulse s
  | .extestTrain => Sys2Proof.Machine.execExtestTrain s
  | .bypass => Sys2Proof.Machine.execBypass s
  | .testLogicReset => Sys2Proof.Machine.execTestLogicReset s
  | .hostMemoryReadFault data timeout => Sys2Proof.Machine.execHostMemoryReadFault data timeout s
  | .rxOffMeasurementDone => Sys2Proof.Machine.execRxOffMeasurementDone s
  | .coreUvClear raw => Sys2Proof.Machine.execCoreUvClear raw s
  | .pairLaneBlockLockLoss lane => Sys2Proof.Machine.execPairLaneBlockLockLoss lane s
  | .timingPortBlockLock port up => Sys2Proof.Machine.execTimingPortBlockLock port up s
  | .takeoverLFirstReached => Sys2Proof.Machine.execTakeoverLFirstReached s

end Sys2Proof.Machine
end

