-- ==== Sys2Proof/Machine/Idle.lean ====
section
/-!
DEFINITION. What the block does by itself in one tick of its clock (DESIGN CHOICE, log 1): the clock, and the requests that wait for nothing but
the end of others (R378, R436).
-/
namespace Sys2Proof.Machine

/-- The requests held by FENCE before which no earlier request of their port is in flight (R378). -/
def fenceDue (s : State) : List Req :=
  s.cmd.held.filter fun r => match flightsOf r.port s with
    | f :: _ => f.tag == r.tag
    | [] => false

/-- Start the requests whose FENCE has been met (R378). -/
def startFenced (s : State) : State :=
  (fenceDue s).foldl (fun s r =>
    start dispatchOp r { s with cmd := { s.cmd with held := removeFirst (fun h => h.port == r.port && h.tag == r.tag) s.cmd.held } }) s

/-- One tick with no command at hand. -/
def idleTick (s : State) : State := finish s (if heldInReset s then s else startCalWaits (startFenced (tickClock s)))

end Sys2Proof.Machine
end

