-- ==== Sys2Proof/WellFormed.lean ====
section
/-!
DEFINITION. Which commands can be sent at all: what a packet's header can say of its payload (R377), which BAR0 accesses a row names
(R12, R39, R40), and which transactions a memory port can bring (R184, R188, R189).
-/
namespace Sys2Proof

/-- A payload that LEN can count (R377). -/
def lenFitsHeader (w : List Word) : Bool := decide (w.length ≤ 4095)

/-- An aligned 8-byte access (R12). -/
def alignedWord (addr : BitVec 19) : Bool := decide (addr.toNat % 8 = 0)

/-- An address in no block range (R38). -/
def outsideBlocks (addr : BitVec 19) : Bool :=
  let a := addr.toNat
  decide ((0x7000 ≤ a ∧ a < 0x8000) ∨ (0x9000 ≤ a ∧ a < 0x10000) ∨ (0x38000 ≤ a ∧ a < 0x40000))

/-- A transaction that a port can bring: whole bursts within the 768 MiB of a pseudo-channel, as many as the port may have, in the
port's direction (R184, R188, R189). -/
def validTransaction (port : Fin 7) (addr : BitVec 30) (bursts : Nat) (write : Bool) : Bool :=
  decide (addr.toNat % 32 = 0 ∧ 1 ≤ bursts ∧ bursts ≤ (if port.val = 0 then 48 else 8) ∧ addr.toNat + 32 * bursts ≤ 768 * 2 ^ 20) &&
    (port.val == 6 || write == (port.val == 1 || port.val == 3 || port.val == 5))

/-- Kneaders named once each. -/
def namedOnce : List (Fin 1024) → Bool
  | [] => true
  | k :: r => !r.contains k && namedOnce r

/-- Can the command be sent? -/
def Instr.wellFormed : Instr → Bool
  | .nop _ _ w | .regRead _ _ w | .regWrite _ _ w | .regModify _ _ w | .jobOpen _ _ w | .jobClose _ _ w | .loafLoad _ _ w
  | .loafArm _ _ w | .loafStart _ _ w | .loafStop _ _ w | .loafAbort _ _ w | .journalRead _ _ w | .lockAcquire _ _ w
  | .lockRelease _ _ w | .leaseRenew _ _ w | .move _ _ w | .home _ _ w | .stopAxis _ _ w | .calCaptureDark _ _ w
  | .calCaptureFlat _ _ w | .calCaptureBeams _ _ w | .calCaptureRxOff _ _ w | .calCaptureOsc _ _ w | .calApply _ _ w
  | .nvmStore _ _ w _ | .nvmStoreCompact _ _ w _ | .nvmLoad _ _ w | .linkTrain _ _ w | .linkLoopback _ _ w | .memRetrain _ _ w
  | .join _ w | .partnerJoin _ w | .beat _ _ w | .traj _ _ w | .mark _ _ w | .tile _ _ w | .slice _ _ w | .jnl _ _ w
  | .leave _ _ w | .handover _ _ w | .pairTakeover _ _ w | .eventRead _ _ w | .resetSoft _ _ w | .partnerReply _ _ w =>
    lenFitsHeader w
  | .nonAlignedWrite addr len => !(len == 8 && alignedWord addr)
  | .outOfBlockWrite addr _ => alignedWord addr && outsideBlocks addr
  | .malformedRead addr len => !(len == 8 && alignedWord addr) && !(len == 4 && addr.toNat % 4 == 0)
  | .registerWrite _ addr _ | .w1cFlagClear _ addr _ _ | .counterClear _ addr _ _ | .recordClear _ addr _ => alignedWord addr
  | .hostRequestTake ring => decide (9 ≤ ring.length)
  | .serviceFrame bytes => !bytes.isEmpty
  | .transactionAccept _ port addr bursts _ write => validTransaction port addr bursts write
  | .tileComplete ks => !ks.isEmpty && namedOnce ks
  | .transparentClockForward _ _ ingress egress => decide (ingress ≤ egress)
  | .avsPeriod rates _ => rates.length == 64
  | .tbTimeLoRead _ | .camFstat0Read _ | .tbIncWrite _ _ | .tbStep _ _ | .ringEnable _ _ | .ringDisable _ _ | .cmdCqHeadWrite _ _
  | .cmdGrantWrite _ _ | .clusterReturn _ _ _ _ | .faultCauseClear _ _ _ | .offlineRequest _ _ _ | .go _ _ | .release _ _
  | .calTrimDataWrite _ _ | .read _ | .program _ | .erase _ | .flashOperationDone _ _ | .bistGo _ _ | .bistEnd _ _
  | .ringAccessFault | .hostLinkReset _ | .serviceByteGap | .lineBreak | .leaseExpire _ | .doughSegmentLoad _ | .tileDispatch
  | .kneaderTake _ | .expansionDone _ _ | .areaCheckDone _ _ | .clusterOfflineBoundary _ | .compressionStart _ _
  | .proofPageRequest _ _ | .compressorResume | .waitWatchdogExpire | .rateMeasure _ | .windowFillRow _ _ | .segmentRebuild _
  | .selfRefreshExitDone _ | .busSlotStart _ | .refreshDue _ | .refreshDone _ | .transactionComplete _ | .errorSeverityReport _ _
  | .parityError _ | .stackTemperatureReadout _ _ | .retrainingStart | .retrainingDone _ | .selfRefreshEntry | .sliceBuild
  | .laneSliceStart _ | .notReady _ | .sliceLaunch | .positionWord _ _ _ _ | .crossingTimeout | .posLost _ | .timeWordDue _
  | .laneIdDue _ | .setpointFrameSend | .plannerStep | .slowHoldExpire | .sync _ | .announce _ _ | .delayReqSend | .holdover
  | .limitEdge _ _ _ | .limitDebounce _ _ | .moveSettled | .stopEnd | .resumeApproachDone | .homingTimeout | .status _ _
  | .discard _ _ | .laneFault _ _ | .token _ _ | .backChannelSilent _ | .clkFirstDecide | .clkReportTimeout
  | .trainingPhaseEnd _ _ | .trainingPhaseTimeout _ _ | .linkLoopbackEnd | .laneDriverSetOn | .pairLink _ _ | .pairLinkDown
  | .beatSend | .tokenLeaseExpire | .peerOwnNChange _ | .tokenGapExpire | .takeoverReplyTimeout | .standbyTakeTimeout
  | .tokenFrameTimeout | .loafStartHoldTimeout | .joinTimeout | .handoverTimeout | .resetN | .power | .wdogReset | .boot _ _ _
  | .journalMarkDone | .clusterEnableStep | .interlockN | .interlockDeassert | .pwrFail | .journalDump | .journalDumpEnd
  | .coreUv _ | .bankSensorReading _ _ | .pmbusStatusPoll _ | .idleOff | .frameStart | .frameEnd _ | .frameWatchdog | .camTrigFall
  | .noFrameTimeout | .extest | .samplePreload | .idcode | .jtagClamp | .highz | .extestPulse | .extestTrain | .bypass
  | .testLogicReset | .hostMemoryReadFault _ _ | .rxOffMeasurementDone | .coreUvClear _ | .pairLaneBlockLockLoss _
  | .timingPortBlockLock _ _ | .takeoverLFirstReached => true

end Sys2Proof
end

