-- ==== Sys2Proof/Safety.lean ====
section
/-!
DEFINITION. What the claims about the block are stated in: a device that is not held in reset, a request that is taken and passes its
checks, the pins as the rules drive them, and the canonical form of the sparse stores.
-/
namespace Sys2Proof.Machine

/-- The device is not held in reset (R480, R522). -/
def State.live (s : State) : Prop := heldInReset s = false

/-- The state once a request counts as in flight (R390). -/
def State.taken (s : State) (r : Req) : State := { s with cmd := { s.cmd with flight := s.cmd.flight ++ [r.flight] } }

/-- A request is taken now and starts: its port is up, the completion ring has room for its reply (R383), its tag is free, the boot is over,
the port may have one more command in flight, FENCE has nothing to wait for, and no check of R380 fails. -/
def Starts (r : Req) (s : State) : Prop :=
  portUp r.port s = true ∧ ringRoom r s = true ∧ inFlight r.port r.tag s = false ∧ s.core ≠ .boot ∧ (flightsOf r.port s).length < flightLimit r.port ∧
    (r.fence = false ∨ flightsOf r.port s = []) ∧ firstFailure r (s.taken r) = none

/-- A request reaches the sequencer: its port is up with room for its reply, may have one more command in flight, and FENCE has nothing to
wait for. -/
def Arrives (r : Req) (s : State) : Prop :=
  portUp r.port s = true ∧ ringRoom r s = true ∧ (flightsOf r.port s).length < flightLimit r.port ∧
    (r.fence = false ∨ flightsOf r.port s = [])

/-- The request that a command of the table brings (R393, R394, R434, R465), for the rows that are requests. -/
def requestOf : Instr → Option Req
  | .nop p h w => some (mkReq p h 0x01 w)
  | .regRead p h w => some (mkReq p h 0x02 w)
  | .regWrite p h w => some (mkReq p h 0x03 w)
  | .regModify p h w => some (mkReq p h 0x04 w)
  | .jobOpen p h w => some (mkReq p h 0x10 w)
  | .jobClose p h w => some (mkReq p h 0x11 w)
  | .loafLoad p h w => some (mkReq p h 0x12 w)
  | .loafArm p h w => some (mkReq p h 0x13 w)
  | .loafStart p h w => some (mkReq p h 0x14 w)
  | .loafStop p h w => some (mkReq p h 0x15 w)
  | .loafAbort p h w => some (mkReq p h 0x16 w)
  | .journalRead p h w => some (mkReq p h 0x18 w)
  | .lockAcquire p h w => some (mkReq p h 0x20 w)
  | .lockRelease p h w => some (mkReq p h 0x21 w)
  | .leaseRenew p h w => some (mkReq p h 0x22 w)
  | .move p h w => some (mkReq p h 0x30 w)
  | .home p h w => some (mkReq p h 0x31 w)
  | .stopAxis p h w => some (mkReq p h 0x32 w)
  | .calCaptureDark p h w => some (mkReq p h 0x40 (withKind 0x01 w))
  | .calCaptureFlat p h w => some (mkReq p h 0x40 (withKind 0x02 w))
  | .calCaptureBeams p h w => some (mkReq p h 0x40 (withKind 0x03 w))
  | .calCaptureRxOff p h w => some (mkReq p h 0x40 (withKind 0x11 w))
  | .calCaptureOsc p h w => some (mkReq p h 0x40 (withKind 0x14 w))
  | .calApply p h w => some (mkReq p h 0x41 w)
  | .nvmStore p h w _ => some (mkReq p h 0x42 w)
  | .nvmStoreCompact p h w _ => some (mkReq p h 0x42 (withKind 0xFE w))
  | .nvmLoad p h w => some (mkReq p h 0x43 w)
  | .linkTrain p h w => some (mkReq p h 0x50 w)
  | .linkLoopback p h w => some (mkReq p h 0x51 w)
  | .memRetrain p h w => some (mkReq p h 0x58 w)
  | .join h w => some (mkReq .host h 0x60 (withFn 0x0 w))
  | .partnerJoin h w => some (mkReq .partner h 0x60 (withFn 0x0 w))
  | .beat p h w => some (mkReq p h 0x60 (withFn 0x1 w))
  | .traj p h w => some (mkReq p h 0x60 (withFn 0x2 w))
  | .mark p h w => some (mkReq p h 0x60 (withFn 0x3 w))
  | .tile p h w => some (mkReq p h 0x60 (withFn 0x4 w))
  | .slice p h w => some (mkReq p h 0x60 (withFn 0x5 w))
  | .jnl p h w => some (mkReq p h 0x60 (withFn 0x6 w))
  | .leave p h w => some (mkReq p h 0x60 (withFn 0x7 w))
  | .handover p h w => some (mkReq p h 0x60 (withFn 0x8 w))
  | .pairTakeover p h w => some (mkReq p h 0x61 w)
  | .eventRead p h w => some (mkReq p h 0x70 w)
  | .resetSoft p h w => some (mkReq p h 0x7F w)
  | _ => none

/-- The registers that act when written (R41, R129, R265 to R267, R389, R404, R423, R439, R469, R483, R524, R526). -/
def actsWhenWritten (addr : Nat) : Bool :=
  [A.CMD_Q_CTL, A.CMD_CQ_HEAD, A.CMD_GRANT, A.PWR_SAFE, A.TB_CTL, A.TB_STEP, A.CAM_COMMIT, A.CAL_TRIM_DATA, A.PLC_CL_OUT_LO,
   A.PLC_CL_OUT_HI, A.PAIR_CTL, A.TST_FLASH_CMD, A.TST_BIST, A.GLB_BAD_ACCESS_CNT].contains addr

/-- A register all of whose effect on a write is that its fields are stored: none that acts, no counters and no record. -/
def storesOnly (addr : Nat) : Bool :=
  !actsWhenWritten addr && (recordValid addr).isNone && !isCounters addr && decide (4 ≤ faultAxis addr)

/-- The word that a register holds after a write of `v`, field by field (R13): RW and SH fields take the value, a W1C field loses the bits
written 1, and RO and WO fields keep what they hold. -/
def StoredWord (r : RegRow) (old v new : Word) : Prop :=
  ∀ f ∈ r.fields, wbits new f.hi f.lo =
    match f.acc with
    | .rw | .sh => wbits v f.hi f.lo
    | .w1c => wbits old f.hi f.lo - (wbits old f.hi f.lo &&& wbits v f.hi f.lo)
    | .ro | .wo => wbits old f.hi f.lo

/-- Every RW and SH field of a write takes its value: the value lies in the field's range and the state allows it (R42). -/
def AllTaken (r : RegRow) (addr : Nat) (v : Word) (s : State) : Prop :=
  ∀ f ∈ r.fields, f.acc = .rw ∨ f.acc = .sh → f.rng.ok (wbits v f.hi f.lo) = true ∧ valueOk addr f v s = true

/-- A write of `v` to a register that only stores is taken: the port has the right, nothing refuses the register as a whole, every field
takes its value, and every word with the fields as written keeps the relations between fields (R42, R403). -/
def WriteTaken (p : Port) (addr : Nat) (r : RegRow) (v : Word) (s : State) : Prop :=
  regRow addr = some r ∧ storesOnly addr = true ∧ writeRight p addr s = none ∧ refusesWhole addr v s = false ∧ AllTaken r addr v s ∧
    ∀ w, StoredWord r (s.getReg addr) v w → relationOk addr w s = true

/-- The commands that act on a device held in reset as well: resets, the boot, input pins and the test access port (R485, R492, R522). -/
def WatchesPins (c : Instr) : Prop :=
  c ∈ [Instr.resetN, .power, .interlockN, .interlockDeassert, .extest, .samplePreload, .idcode, .jtagClamp, .highz, .extestPulse,
       .extestTrain, .bypass, .testLogicReset] ∨ (∃ v ack m, c = .boot v ack m) ∨ ∃ b, c = .peerOwnNChange b

/-- The output pins stand as the rules drive them (R452, R422, R480, R487). -/
def State.pinsFollow (s : State) : Prop :=
  s.pins.safeBlank = safeBlankRule s ∧ s.pins.ownN = ownRule s ∧ s.pins.camTrig = camTrigRule s ∧
    s.pins.vcxo = (!heldInReset s && s.pwr.driving)

/-- The addressed memories and the register map stand in their canonical form. -/
abbrev Memory.wf (s : State) : Prop :=
  amWf resetWord s.regs = true ∧ amWf resetWord s.active = true ∧ amWf hbmDefault s.hbm = true ∧ amWf erased s.nvm.flash = true

end Sys2Proof.Machine
end

