-- ==== Sys2Proof/Certificates/Slice0/Obligations.lean ====
section
/-!
DEFINITION. The statements for the provers.
-/
open Sys2Proof Sys2Proof.Machine

/-! General requests. -/

/-- R394: NOP replies OK with the request's payload unchanged. REG_READ replies OK with the COUNT registers from ADDR on, in ascending
address; registers that show a port's own captures (R266, R424) have a statement of their own. Nothing else changes. -/
def Obligations.RepliesCarryPayloadAndRegisters : Prop :=
  (∀ (p : Port) (h : Hdr) (w : List Word) (s : State), s.live → Starts (mkReq p h 0x01 w) s →
     exec (.nop p h w) s = .next (finish s (sendReply p h.tag 0x01 0x00 w s))) ∧
  (∀ (p : Port) (h : Hdr) (w : Word) (s : State), s.live → Starts (mkReq p h 0x02 [w]) s →
     1 ≤ wbits w 30 19 → wbits w 18 0 % 8 = 0 → wbits w 18 0 + 8 * (wbits w 30 19 - 1) ≤ 0x7FFF8 →
     (∀ i, i < wbits w 30 19 → captured p (wbits w 18 0 + 8 * i) s = none) →
     exec (.regRead p h [w]) s = .next (finish s (sendReply p h.tag 0x02 0x00
       ((List.range (wbits w 30 19)).map fun i => regValue (wbits w 18 0 + 8 * i) (s.taken (mkReq p h 0x02 [w]))) s)))

/-- R13, R42, R395, R396: REGISTER_WRITE, a REG_WRITE of one register, and a REG_MODIFY of a register without W1C and WO fields store the
fields of a write that is taken and change nothing else; REG_WRITE replies with the number of registers written, REG_MODIFY with the value
read. -/
def Obligations.RegisterWritesStoreTheirFields : Prop :=
  (∀ (p : Port) (a : BitVec 19) (r : RegRow) (v : Word) (s : State), s.live → a.toNat % 8 = 0 → WriteTaken p a.toNat r v s →
    ∃ w, StoredWord r (s.getReg a.toNat) v w ∧ exec (.registerWrite p a v) s = .next (finish s (s.setReg a.toNat w))) ∧
  (∀ (p : Port) (h : Hdr) (x v : Word) (r : RegRow) (s : State), s.live → Starts (mkReq p h 0x03 [x, v]) s → wbits x 30 19 = 1 →
    wbits x 18 0 % 8 = 0 → WriteTaken p (wbits x 18 0) r v s →
    ∃ w, StoredWord r (s.getReg (wbits x 18 0)) v w ∧
      exec (.regWrite p h [x, v]) s = .next (finish s (sendReply p h.tag 0x03 0x00 [1] (s.setReg (wbits x 18 0) w)))) ∧
  (∀ (p : Port) (h : Hdr) (x m v old : Word) (r : RegRow) (s : State), s.live → Starts (mkReq p h 0x04 [x, m, v]) s →
    wbits x 18 0 % 8 = 0 → captured p (wbits x 18 0) s = none → old = regValue (wbits x 18 0) (s.taken (mkReq p h 0x04 [x, m, v])) →
    (∀ f ∈ r.fields, f.acc ≠ .w1c ∧ f.acc ≠ .wo) → WriteTaken p (wbits x 18 0) r ((old &&& ~~~m) ||| (v &&& m)) s →
    ∃ w, StoredWord r (s.getReg (wbits x 18 0)) ((old &&& ~~~m) ||| (v &&& m)) w ∧
      exec (.regModify p h [x, m, v]) s = .next (finish s (sendReply p h.tag 0x04 0x00 [old] (s.setReg (wbits x 18 0) w))))

/-- R413 to R415, R400, R298, R529: EVENT_READ takes up to MAX records from the port's queue, oldest first, into the reply behind the
number left and the number returned; records left call for a signal. JOURNAL_READ returns up to MAX entries, oldest first; with CONSUME = 1
and an erased dump half the journal loses them, and a LOST entry for entries dropped before finds room. The journal's table is accessed; one
that has failed in both copies makes the command reply CHECK_FAIL once (R187, R209). -/
def Obligations.OldestRecordsAndEntriesAreRead : Prop :=
  (∀ (p : Port) (h : Hdr) (w : Word) (s : State), s.live → Starts (mkReq p h 0x70 [w]) s → wbits w 9 0 ≠ 0 →
     let q := (s.cmd.port p).events
     let l := q.take (wbits w 9 0)
     let rest := q.drop (wbits w 9 0)
     let t := sendReply p h.tag 0x70 0x00 (BitVec.ofNat 36 (rest.length * 2 ^ 10 + l.length) :: l.flatMap EvRec.words)
       { s with cmd := s.cmd.updPort p fun x => { x with events := rest } }
     exec (.eventRead p h [w]) s = .next (finish s
       (if rest = [] then t else { t with cmd := t.cmd.updPort p fun x => { x with wake := true } }))) ∧
  (∀ (p : Port) (h : Hdr) (w : Word) (s : State), s.live → Starts (mkReq p h 0x18 [w]) s → wbits w 9 0 ≠ 0 →
     let l := s.jnl.take (wbits w 9 0)
     let words (left : Nat) := BitVec.ofNat 36 (left * 2 ^ 17 + l.length) :: l.flatMap JEnt.words
     (wbits w 17 17 = 0 → s.mem.jnlBad = false →
       exec (.journalRead p h [w]) s = .next (finish s (sendReply p h.tag 0x18 0x00 (words s.jnl.length) (postTable 0 false s)))) ∧
     (wbits w 17 17 = 1 → s.nvm.jnlErased = true → s.mem.jnlBad = false →
       exec (.journalRead p h [w]) s = .next (finish s (flushDropped (sendReply p h.tag 0x18 0x00 (words (s.jnl.length - l.length))
         { postTable 0 true s with jnl := s.jnl.drop (wbits w 9 0) })))) ∧
     (wbits w 17 17 = 0 ∨ s.nvm.jnlErased = true → s.mem.jnlBad = true →
       exec (.journalRead p h [w]) s = .next (finish s (sendReply p h.tag 0x18 0x07 [] { s with mem := { s.mem with jnlBad := false } }))))

/-! Locks. -/

/-- R405, R406 LOCK_ACQUIRE: a port with the right, for which R405 ORDER and another holder stand in no way, holds the lock with a deadline
one lease time from now; a lock it holds already restarts its lease. Nothing else changes. No lease is overdue here: one that is expires first
(log 80). -/
def Obligations.LockAcquireStartsALease : Prop :=
  ∀ (p : Port) (h : Hdr) (w : Word) (s : State), s.live → Starts (mkReq p h 0x20 [w]) s → leaseOver 0 s = false → leaseOver 1 s = false →
    let n := wbits w 0 0
    let ms := wbits w 26 16
    (if n = 0 then p = .host ∧ holds p 1 s = false else calRight p s = true) →
    (∀ l, lockOf n s = some l → l.port = p) → (ms = 0 ∨ (20 ≤ ms ∧ ms ≤ 2000)) →
    let t := if ms = 0 then s.fld F.CMD_LEASE_DEF_DEF_MS else ms
    exec (.lockAcquire p h [w]) s = .next (finish s (checkElig (sendReply p h.tag 0x20 0x00 []
      (setLock n (some { port := p, ms := t, deadline := s.tb.ticks + 400000 * t }) s))))

/-- R410, R407, R409, R406: LOCK_RELEASE frees a lock that its port holds and is answered BAD_STATE when it does not hold it, or for the
exposure lock in ARMED and EXPOSING. LEASE_RENEW gives each named lock that the port holds a new deadline with that lease's time, and
replies BAD_STATE when one is not held. Before its deadline a lease does not expire. With nothing else under way, the end of the exposure
lease disarms an armed loaf, stops every move and frees the lock, that of the calibration lease frees its lock, and both set LEASE_EXP. -/
def Obligations.LocksAreReleasedRenewedAndExpire : Prop :=
  (∀ (p : Port) (h : Hdr) (w : Word) (s : State), s.live → Starts (mkReq p h 0x21 [w]) s → leaseOver 0 s = false → leaseOver 1 s = false →
    exec (.lockRelease p h [w]) s = .next (finish s
      (if holds p (wbits w 0 0) s = false ∨ (wbits w 0 0 = 0 ∧ (s.core = .armed ∨ s.core = .exposing)) then
        sendReply p h.tag 0x21 0x06 [] s
      else checkElig (sendReply p h.tag 0x21 0x00 [] (setLock (wbits w 0 0) none s))))) ∧
  (∀ (p : Port) (h : Hdr) (w : Word) (s : State), s.live → Starts (mkReq p h 0x22 [w]) s → leaseOver 0 s = false → leaseOver 1 s = false →
    wbits w 1 0 ≠ 0 →
    let again (n : Nat) : Option Lease := (lockOf n s).map fun l =>
      if (wbits w 1 0).testBit n ∧ l.port = p then { l with deadline := s.tb.ticks + 400000 * l.ms } else l
    let st := if (bitsSet 2 (wbits w 1 0)).all (fun n => holds p n s) then 0x00 else 0x06
    exec (.leaseRenew p h [w]) s = .next (finish s (sendReply p h.tag 0x22 st []
      { s with cmd := { s.cmd with exp := again 0, cal := again 1 } }))) ∧
  (∀ (cal : Bool) (s : State), s.live → leaseOver (if cal then 1 else 0) s = false → exec (.leaseExpire cal) s = .next (finish s s)) ∧
  (∀ s : State, s.live → leaseOver 0 s = true → s.core ≠ .exposing → s.loads = [] → s.mot.arm = none → s.mot.home = none →
    (∀ j, s.job = some j → j.closing = false) → s.mem.startHold = none → s.pair.armWait = none → s.pair.startWait = none →
    s.pair.join = none → s.pair.handing = none → s.cmd.flight = [] →
    exec (.leaseExpire false) s = .next (finish s (checkElig (raise F.CMD_EVT_LEASE_EXP
      { stopMoves (fun _ => true) (if s.core = .armed then setScan .none { s with core := .job } else s) with
        cmd := { s.cmd with exp := none } })))) ∧
  (∀ s : State, s.live → leaseOver 1 s = true → s.cal.waiting = [] → s.cal.capt = none → s.cal.rxoff = none → s.nvm.jobs = [] →
    exec (.leaseExpire true) s = .next (finish s (raise F.CMD_EVT_LEASE_EXP { s with cmd := { s.cmd with cal := none } })))

/-- R380, R383, R390, R393, R466: a request that starts and fails a check is answered with the status of the first check that fails and has no
other effect; in BOOT a well-formed or malformed request is answered BUSY; a request whose tag is in flight is discarded, counted and flagged; a
port that is not up, or for whose reply the completion ring has no room (R383), takes none; a PAIR_SYNC of a port from which its FN does not come
is answered BAD_PARAM. -/
def Obligations.RefusedRequestsChangeNothing : Prop :=
  (∀ (c : Instr) (r : Req) (s : State) (st : Nat), requestOf c = some r → s.live → Arrives r s → inFlight r.port r.tag s = false →
    s.core ≠ .boot → firstFailure r (s.taken r) = some st → exec c s = .next (finish s (answerNow r st s))) ∧
  (∀ (c : Instr) (r : Req) (s : State), requestOf c = some r → s.live → portUp r.port s = true → ringRoom r s = true →
    inFlight r.port r.tag s = false → s.core = .boot → exec c s = .next (finish s (answerNow r 0x01 s))) ∧
  (∀ (c : Instr) (r : Req) (s : State), requestOf c = some r → s.live → portUp r.port s = false ∨ ringRoom r s = false →
    exec c s = .next (finish s s)) ∧
  (∀ (c : Instr) (r : Req) (s : State), requestOf c = some r → s.live → portUp r.port s = true → ringRoom r s = true →
    inFlight r.port r.tag s = true →
    exec c s = .next (finish s (raise F.CMD_EVT_DUP_TAG (s.bump (F.CMD_PORT_ERR_DUP_TAG (portIdx r.port)))))) ∧
  (∀ (c : Instr) (r : Req) (s : State), requestOf c = some r → s.live → Starts r s → r.op = 0x60 → fnFrom r = false →
    exec c s = .next (finish s (sendReply r.port r.tag 0x60 0x05 [] s)))

/-! Jobs and loaves. -/

/-- R4, R170, R173, R205, R217, R356, R496: JOB_OPEN with the memory and the core awake opens the job and replies OK; JOB_CLOSE with no
loaf running discards every loaf held, closes the job and replies OK (R533). -/
def Obligations.JobOpenAndJobClose : Prop :=
  (∀ (h : Hdr) (w v : Word) (s : State), s.live → Starts (mkReq .host h 0x10 [w, v]) s → wbits w 19 18 ≠ 0 → 64 ≤ wbits w 17 0 →
    s.nvm.jnlErased = true → s.cal.capt = none → s.tst.bist = false → retiredCount s ≤ 4 →
    (∀ g, g < lanesOf (wbits w 19 18) / 8 → (s.grp g).up = true) → s.pwr.clOn = 64 → s.pwr.enabling = false → s.mem.sr = .awake →
    s.cmd.held = [] → flightsOp .host 0x10 s = [] →
    exec (.jobOpen .host h [w, v]) s = .next (finish s (judgeSoft (sendReply .host h.tag 0x10 0x00 []
      { s.activateFld F.PRF_CTL_RING_PC_MIB with
        job := some { beams := wbits w 19 18, pitch := wbits w 17 0, id := v, nextOrd := 0, closing := false }, core := .job,
        prf := { s.prf with outPcs := [], rebuilds := [] }, plc := { s.plc with tiles := [], front := 0 },
        lch := { s.lch with carried := [], sentLoaves := [] } })))) ∧
  (∀ (h : Hdr) (j : Job) (s : State), s.live → Starts (mkReq .host h 0x11 []) s → s.job = some j → s.lch.run = none → s.loads = [] →
    s.mot.arm = none → s.pair.armWait = none → s.cmd.held = [] → flightsOp .host 0x11 s = [] →
    let t := discardAll (s.taken (mkReq .host h 0x11 []))
    t.loaves = [] ∧ exec (.jobClose .host h []) s = .next (finish s (judgeSoft (answer .host h.tag 0x00 []
      { t with job := none, core := if s.core = .safe then .safe else .idle, plc := { t.plc with front := 0 } }))))

/-- R46, R47, R79, R80, R394, R397: LOAF_LOAD joins the loader's order and stays in flight; a read of host memory that fails before any
byte more has come ends the command that loads with CHECK_FAIL, or TIMEOUT for a completion timeout, and the bytes read. The loader takes
the next whole segment of the command at work: a sound header opens the next loaf, a sound tile row enters a free dough buffer slot, and
without a free slot it is held as the segment in progress. The bytes taken are counted, and the command ends with its last byte. -/
def Obligations.LoafLoadTakesItsSegments : Prop :=
  (∀ (h : Hdr) (w : List Word) (s : State), s.live → Starts (mkReq .host h 0x12 w) s → closing s = false → wbits (nth 0 w 0) 7 0 ≠ 0 →
    (∀ x ∈ extents (w.drop 1), x.2 ≠ 0) →
    exec (.loafLoad .host h w) s = .next (finish s { s.taken (mkReq .host h 0x12 w) with
      loads := s.loads ++ [{ tag := h.tag, exts := extents (w.drop 1), left := ((extents (w.drop 1)).map (·.2)).sum, taken := 0,
                             first := true, checkFail := false, fault := none, seg := none, drop := false }] })) ∧
  (∀ (timeout : Bool) (ld : Load) (r : List Load) (s : State), s.live → s.loads = ld :: r → ld.fault = none →
    exec (.hostMemoryReadFault [] timeout) s = .next (finish s (answer .host ld.tag (if timeout then 0x0A else 0x07)
      [BitVec.ofNat 36 ld.taken] { s with loads := r }))) ∧
  (∀ (data : List Byte) (ld : Load) (r : List Load) (s : State), s.live → s.loads = ld :: r →
     let x := inflate [] (data.take ld.left)
     let st := streamOf x
     let n := ceilDiv x.used 8
     let after (t : State) : State := loadEnd { t.setFld F.DGH_BYTES_IN_BYTES (t.fld F.DGH_BYTES_IN_BYTES + n) with
       loads := { ld with left := ld.left - n, taken := ld.taken + n, first := false, seg := none, drop := false } :: r }
     x.err = none → ld.drop = false →
     (∀ hd, st.isHeader = true → ld.first = true → canOpen s = true → checkHeader st = .ok hd →
       exec (.doughSegmentLoad data) s = .next (finish s (after (openLoaf hd s)))) ∧
     (∀ l row, st.isHeader = false → loadingLoaf s = some l → l.nextRow < l.rows → checkRow st l.nextRow = .ok row →
       exec (.doughSegmentLoad data) s = .next (finish s (match freeSlot s with
         | some i => after (takeRow l i row s)
         | none => { s with loads := { ld with seg := if n = 0 then none else some (n, true) } :: r }))))

/-- R330: LOAF_ARM of a loaf that can be armed moves X to ORIGIN_X and Y to the run-up position Y_A = ORIGIN_Y − σ · RUNUP_PX · P; SCAN is
APPROACH, and the command waits for the move. -/
def Obligations.LoafArmMovesToTheRunUp : Prop :=
  ∀ (h : Hdr) (l : Loaf) (s : State), s.live → Starts (mkReq .host h 0x13 []) s → s.cal.waiting = [] → s.cal.capt = none →
    s.loaves.head? = some l → retiredCount s ≤ 4 → (∀ a, a < 2 → faulted a s = false ∧ (s.axis a).homed = true) →
    pairStandby s = false →
    let sg : Int := if l.dir then -1 else 1
    let y : Int := l.oy.toInt - sg * (s.fld F.MOT_RUN_RUNUP_PX : Int) * (jobPitch s : Int)
    softOk 1 y s = true → softOk 1 l.oy.toInt s = true →
    softOk 1 (slicePos l.oy.toInt sg (jobPitch s) (lastSliceOf (jobBeams s) l.rows)) s = true → fbTooFast s = false →
    let u := s.taken (mkReq .host h 0x13 [])
    let sc := { u.mot.scan with oy := l.oy.toInt, sigma := sg, pitch := (jobPitch s : Int), state := .approach }
    let t := beginMove [(0, l.ox.toInt), (1, y)] .arm { u with mot := { u.mot with scan := sc } }
    exec (.loafArm .host h []) s = .next (finish s
      { t with mot := { t.mot with arm := some { tag := h.tag, ends := none, silent := false } } })

/-- R236, R242, R251, R330, R331: LOAF_START of an armed loaf that waits for nothing enters EXPOSING: epoch 0 holds the dead lanes, the
idle counts, heat and slices start empty, the scan runs from its rest, the reply is OK, and the plate temperature is judged. -/
def Obligations.LoafStartEntersExposing : Prop :=
  ∀ (h : Hdr) (l : Loaf) (s : State), s.live → Starts (mkReq .host h 0x14 []) s → s.loaves.head? = some l → retraining s = false →
    pairStandby s = false → (pairOwner s = true → standbyShowsArmed s = true) →
    ∃ u, exec (.loafStart .host h []) s = .next (finish s (judgeHard u)) ∧ u.core = .exposing ∧ u.mot.scan.state = .run ∧
      u.mot.scan.e = tickNs (s.ns / 10000) + 1000 * (s.fld F.MOT_CTL_HORIZON_US : Rat) ∧
      u.slc.epochs.map (·.first) = [0] ∧ u.slc.idle = [] ∧ u.slc.heat = [] ∧ u.slc.next = 0 ∧ u.lch.slices = [] ∧ u.lch.crossings = [] ∧
      u.lch.run = some { ord := l.ord, id := l.id, last := lastSliceOf (jobBeams s) l.rows, disposed := 0, prevL := none,
                         reached := none, stop := none, ended := false, quiet := false } ∧
      u.cmd.flight = s.cmd.flight ∧ u.loaves = s.loaves ∧ u.mot.axes = s.mot.axes ∧ u.hbm = s.hbm

/-- R83, R398, R330: LOAF_STOP in ARMED disarms and replies at once; in EXPOSING it is a stopping event, and the reply waits until Y rests.
LOAF_ABORT of the next loaf, or of a loaf held in JOB with no arm under way, discards it, its dough, its tiles and its rebuilds, and replies at
once; a segment of it in progress is discarded too (R83). -/
def Obligations.LoafStopAndAbort : Prop :=
  (∀ (h : Hdr) (s : State), s.live → Starts (mkReq .host h 0x15 []) s → s.core = .armed → s.mem.startHold = none →
    s.pair.startWait = none →
    exec (.loafStop .host h []) s = .next (finish s (sendReply .host h.tag 0x15 0x00 [] (setScan .none { s with core := .job })))) ∧
  (∀ (h : Hdr) (s : State), s.live → Starts (mkReq .host h 0x15 []) s → s.core = .exposing → pairStandby s = false →
    let t := stopLoaf cStop false (s.taken (mkReq .host h 0x15 []))
    exec (.loafStop .host h []) s = .next (finish s { t with mot := { t.mot with stopReplies := t.mot.stopReplies ++ [(0x00, h.tag)] } })) ∧
  (∀ (h : Hdr) (w : Word) (l m : Loaf) (r : List Loaf) (s : State), s.live → Starts (mkReq .host h 0x16 [w]) s → s.loaves = l :: m :: r →
    wbits w 0 0 = 1 → (∀ x ∈ s.loads, x.tag ≠ h.tag) →
    ∃ u, exec (.loafAbort .host h [w]) s = .next (finish s (answer .host h.tag 0x00 [] u)) ∧ (∀ x ∈ u.loaves, x.ord ≠ m.ord) ∧
      (∀ x ∈ u.rows, x.ord ≠ m.ord) ∧ (∀ x ∈ u.plc.tiles, x.ord ≠ m.ord) ∧ (∀ x ∈ u.prf.rebuilds, x.1 ≠ m.ord) ∧
      u = discardLoaf m.ord (abortSegment m.ord (s.taken (mkReq .host h 0x16 [w]))) ∧ u.core = s.core ∧ u.mot = s.mot) ∧
  (∀ (h : Hdr) (w : Word) (l : Loaf) (r : List Loaf) (s : State), s.live → Starts (mkReq .host h 0x16 [w]) s → s.loaves = l :: r →
    wbits w 0 0 = 0 → s.core = .job → s.lch.run = none → s.mot.arm = none → s.pair.armWait = none →
    ∃ u, exec (.loafAbort .host h [w]) s = .next (finish s (answer .host h.tag 0x00 [] u)) ∧ (∀ x ∈ u.loaves, x.ord ≠ l.ord) ∧
      (∀ x ∈ u.rows, x.ord ≠ l.ord) ∧ (∀ x ∈ u.plc.tiles, x.ord ≠ l.ord) ∧ (∀ x ∈ u.prf.rebuilds, x.1 ≠ l.ord) ∧
      u = discardLoaf l.ord (abortSegment l.ord (s.taken (mkReq .host h 0x16 [w]))) ∧ u.core = s.core ∧ u.mot = s.mot)

/-! Motion. -/

/-- R313 to R315, R321 to R324: a MOVE whose axes are homed, free and within their limits begins the move and replies OK; HOME with no move
under way names its axes and begins with the first; STOP_AXIS stops the moves of its axes that have not reached their end. -/
def Obligations.MotionCommandsBegin : Prop :=
  (∀ (h : Hdr) (w : Word) (v : List Word) (s : State), s.live → Starts (mkReq .host h 0x30 (w :: v)) s →
    let ax := bitsSet 4 (wbits w 3 0)
    let tg := ax.zip (v.map BitVec.toInt)
    s.pins.interlock = false → ax ≠ [] → pairStandby s = false → s.core ≠ .armed → s.core ≠ .exposing →
    (∀ a ∈ ax, faulted a s = false ∧ homing a s = false ∧ (s.axis a).homed = true ∧ stopping a s = false) →
    (∀ x ∈ tg, softOk x.1 x.2 s = true ∧ beyondLimit x s = false) → s.mot.arm = none →
    exec (.move .host h (w :: v)) s = .next (finish s (sendReply .host h.tag 0x30 0x00 [] (beginMove tg .plain s)))) ∧
  (∀ (h : Hdr) (w : Word) (s : State), s.live → Starts (mkReq .host h 0x31 [w]) s →
    let ax := bitsSet 4 (wbits w 3 0)
    let t := ax.foldl (fun t a => t.updAxis a fun x => { x with homing := true }) s
    ax ≠ [] → pairStandby s = false → s.core ≠ .armed → s.core ≠ .exposing → s.mot.home = none → s.mot.arm = none → s.mot.moves = [] →
    (∀ a ∈ ax, faulted a s = false ∧ moving a s = false ∧ stopping a s = false) →
    exec (.home .host h [w]) s = .next (finish s (sendReply .host h.tag 0x31 0x00 []
      (homeNext { t with mot := { t.mot with home := some { axes := ax, named := ax, step := 0, aborting := false } } })))) ∧
  (∀ (h : Hdr) (w : Word) (s : State), s.live → Starts (mkReq .host h 0x32 [w]) s → bitsSet 4 (wbits w 3 0) ≠ [] → pairStandby s = false →
    s.mot.home = none → s.mot.arm = none → s.core ≠ .exposing →
    exec (.stopAxis .host h [w]) s = .next (finish s (sendReply .host h.tag 0x32 0x00 []
      (stopMovesIf (fun a => (bitsSet 4 (wbits w 3 0)).contains a) s))))

/-! Calibration, camera and flash. -/

/-- R422, R428, R432, R434 to R438: a capture of DARK, FLAT or BEAMS with a legal F starts in IDLE or JOB with nothing tried, and CAM_TRIG
rises at once but for BEAMS, unless it is still high; while the camera is taken the capture is answered BUSY (log 82); RX_OFF starts in IDLE at
its first receiver; OSC copies TUNE to CENTRE while LOCKED. CAL_APPLY makes the
candidate of its KIND active: a frame at the next frame start, the beam tables at once. -/
def Obligations.CapturesBeginAndCandidatesApply : Prop :=
  (∀ (p : Port) (h : Hdr) (w : Word) (k : Nat) (c : Instr) (s : State), s.live →
    (k = 0x01 ∧ c = .calCaptureDark p h [w] ∨ k = 0x02 ∧ c = .calCaptureFlat p h [w] ∨
      k = 0x03 ∧ c = .calCaptureBeams p h [w] ∧ s.pins.interlock = false) →
    let r := mkReq p h 0x40 [setBits w 7 0 k]
    Starts r s → 1 ≤ wbits w 15 8 → wbits w 15 8 ≤ 64 → s.core = .idle ∨ s.core = .job → s.pwr.clOn = 64 →
    (captureHeld k s = true → exec c s = .next (finish s (answerNow r 0x01 s))) ∧ (captureHeld k s = false →
    let c0 : Capt := { port := p, tag := h.tag, kind := k, want := wbits w 15 8, tried := 0, good := 0, first := none, seq := 0, sums := [],
                       spots := [], raised := k != 0x03 && !s.cal.trig, await := true, slice := 0, shots := 0, disc := false, lastQ := none }
    exec c s = .next (finish s { s.taken r with cal := { s.cal with capt := some c0, trig := s.cal.trig || k != 0x03 } }))) ∧
  (∀ (p : Port) (h : Hdr) (w : Word) (s : State), s.live → Starts (mkReq p h 0x40 [setBits w 7 0 0x11]) s → wbits w 15 8 = 0 →
    s.core = .idle → captureHeld 0x11 s = false → exec (.calCaptureRxOff p h [w]) s = .next (finish s
      { s.taken (mkReq p h 0x40 [setBits w 7 0 0x11]) with cal := { s.cal with rxoff := some (p, h.tag, 0) } })) ∧
  (∀ (p : Port) (h : Hdr) (w : Word) (s : State), s.live → Starts (mkReq p h 0x40 [setBits w 7 0 0x14]) s → wbits w 15 8 = 0 →
    s.core = .idle ∨ s.core = .job ∨ s.core = .armed → s.bit F.TB_PTP_STATUS_LOCKED = true →
    exec (.calCaptureOsc p h [w]) s = .next (finish s (sendReply p h.tag 0x40 0x00 []
      (s.setFld F.TB_VCXO_CENTRE (s.fld F.TB_VCXO_TUNE))))) ∧
  (∀ (p : Port) (h : Hdr) (w : Word) (s : State), s.live → Starts (mkReq p h 0x41 [w]) s → s.core ≠ .recovery →
     (∀ d, wbits w 7 0 = 0x01 → s.cal.candDark = some d → exec (.calApply p h [w]) s = .next (finish s (sendReply p h.tag 0x41 0x00 []
       { s with cal := { s.cal with nextDark := some d, candDark := none } }))) ∧
     (∀ d, wbits w 7 0 = 0x02 → s.cal.candFlat = some d → exec (.calApply p h [w]) s = .next (finish s (sendReply p h.tag 0x41 0x00 []
       { s with cal := { s.cal with nextFlat := some d, candFlat := none } }))) ∧
     (∀ b, wbits w 7 0 = 0x03 → s.cal.candBeams = some b → exec (.calApply p h [w]) s = .next (finish s (sendReply p h.tag 0x41 0x00 []
       { s with cal := { s.cal with beams := b, candBeams := none } }))))

/-- R442 to R444, R448, R525: with the flash free, NVM_STORE of a KIND, NVM_STORE COMPACT and NVM_LOAD begin at once; with a flash
operation at work they wait behind it. -/
def Obligations.FlashCommandsQueue : Prop :=
  ∀ (p : Port) (h : Hdr) (w : Word) (sense : Nat) (s : State), s.live → s.core = .idle ∨ s.core = .job ∨ s.core = .recovery →
    (∀ k, k = 0x03 ∨ (0x10 ≤ k ∧ k ≤ 0x15) → wbits w 7 0 = k → Starts (mkReq p h 0x42 [w]) s →
      let t := s.taken (mkReq p h 0x42 [w])
      (s.nvm.jobs = [] → exec (.nvmStore p h [w] sense) s = .next (finish s
        (beginStore p h.tag k sense { t with nvm := { s.nvm with jobs := [.store p h.tag k none] } }))) ∧
      (∀ j r, s.nvm.jobs = .tst 1 j :: r → exec (.nvmStore p h [w] sense) s = .next (finish s
        { t with nvm := { s.nvm with jobs := s.nvm.jobs ++ [.store p h.tag k none] } }))) ∧
    (Starts (mkReq p h 0x42 [setBits w 7 0 0xFE]) s → s.nvm.jobs = [] →
      exec (.nvmStoreCompact p h [w] sense) s = .next (finish s (beginCompact p h.tag sense
        { s.taken (mkReq p h 0x42 [setBits w 7 0 0xFE]) with nvm := { s.nvm with jobs := [.compact p h.tag none] } }))) ∧
    (∀ k, k = 0x03 ∨ (0x10 ≤ k ∧ k ≤ 0x15) → wbits w 7 0 = k → Starts (mkReq p h 0x43 [w]) s → s.nvm.jobs = [] →
      exec (.nvmLoad p h [w]) s = .next (finish s
        (doLoad p h.tag k { s.taken (mkReq p h 0x43 [w]) with nvm := { s.nvm with jobs := [.load p h.tag k] } })))

/-- R443, R524, R525, R527: READ, PROGRAM and ERASE of a legal place begin on a free flash and set BUSY. A READ that ends fills the page
buffer, an ERASE leaves its sector erased, an NVM_STORE has written its record and replies with its SEQ. -/
def Obligations.FlashOperationsRun : Prop :=
  (∀ (op : Nat) (c : Instr) (p : Port) (s : State), s.live →
    (op = 1 ∧ c = .read p ∨ op = 2 ∧ c = .program p ∨ op = 3 ∧ c = .erase p) → p = .service → s.nvm.jobs = [] → flashBusy s = false →
    let a := s.fld F.TST_FLASH_ADDR_ADDR
    a % 4096 = 0 → a < 0x1000000 → (op = 1 ∨ bootedSlot a s = false) →
    exec c s = .next (finish s { s.setFld F.TST_FLASH_CMD_BUSY 1 with nvm := { s.nvm with jobs := [.tst op a] } })) ∧
  (∀ (a sense : Nat) (s : State), s.live →
    (s.nvm.jobs = [.tst 1 a] → exec (.flashOperationDone .ok sense) s = .next (finish s
      (tstResult 0 (setBuf (flashBytes s.nvm.flash a 256) { s with nvm := { s.nvm with jobs := [] } })))) ∧
    (s.nvm.jobs = [.tst 3 a] → exec (.flashOperationDone .ok sense) s = .next (finish s
      (tstResult 0 { s with nvm := { s.nvm with
        jobs := [], flash := s.nvm.flash.filter fun e => decide (e.1 < a ∨ a + 4096 ≤ e.1) } }))) ∧
    (∀ p tag k b q, s.nvm.jobs = [.store p tag k (some (a, b, q))] → exec (.flashOperationDone .ok sense) s = .next (finish s
      (answer p tag 0x00 [BitVec.ofNat 36 q] (programFlash a b { s with nvm := { s.nvm with jobs := [] } })))))

/-- R418 to R420, R423 to R425, R434: a frame start takes the committed settings and applied frames and counts the frame; a watchdog discards
the open frame and flags it, with free values (log 4) for the sums that are not known; without an open frame a frame end only ends the
discard. The end of a frame that no capture owns stores its class, number, SEQ, largest pixel, mean of the corrected pixels, saturated
pixels and lines, counts the lines and pixels dropped, and flags a class that is not OK; its lines are those that the sampling edges of CAM_PCLK
show (R418). -/
def Obligations.FramesStartEndAndAreCounted : Prop :=
  (∀ s : State, s.live → s.cal.dropped = false → s.cal.frame = none → s.cal.capt = none →
    let t := takeSettings s
    exec .frameStart s = .next (finish s { t with cal := { t.cal with
      frameNo := (t.cal.frameNo + 1) % 2 ^ 32
      frame := some { no := (t.cal.frameNo + 1) % 2 ^ 32, seq := t.cal.seq, mine := false, disc := false } } })) ∧
  (∀ (f : CamFrame) (s : State), s.live → s.cal.frame = some f → f.mine = false →
    ∃ a b c d, exec .frameWatchdog s = .next (finish s (
      let t := setFstat 3 f.no f.seq a b c d { s with fresh := s.fresh + 4 }
      raise F.CAM_EVT_WDOG { t with cal := { t.cal with frame := none, dropped := true } }))) ∧
  (∀ (edges : List CamEdge) (s : State), s.live → s.cal.frame = none →
    exec (.frameEnd edges) s = .next (finish s { s with cal := { s.cal with dropped := false } })) ∧
  (∀ (edges : List CamEdge) (s : State), camLines edges s = linesFrom ((edges.filter fun e =>
    e.falling == decide (s.act F.CAM_CTL_PCLK_FALL = 1)).takeWhile (·.fval)) []) ∧
  (∀ (edges : List CamEdge) (f : CamFrame) (s : State), s.live → s.cal.frame = some f → f.mine = false →
     let l := camLines edges s
     let w := (frameSize s).1
     let h := (frameSize s).2
     let cls := frameClass w h f.disc l
     let kept := (l.take h).map (·.take w)
     let px := ((List.range kept.length).zip kept).flatMap fun r => ((List.range r.2.length).zip r.2).map fun c => (c.1, r.1, c.2.toNat)
     let cps := px.map fun p => correct s.cal.dark s.cal.flat p.1 p.2.1 p.2.2
     let t := (s.bumpBy F.CAM_DROP_LINES (l.length - h)).bumpBy F.CAM_DROP_PIXELS ((l.take h).map fun x => x.length - w).sum
     px ≠ [] →
     let u := setFstat cls f.no f.seq ((px.map (·.2.2)).foldl max 0) (cps.sum / px.length) (px.countP fun p => p.2.2 == 16383) l.length
       { t with fresh := t.fresh + 1 }
     exec (.frameEnd edges) s = .next (finish s (classFlag cls { u with cal := { u.cal with frame := none } })))

/-- R422, R428, R432, R438: the fall of CAM_TRIG ends the exposure; with no frame by the watchdog the attempt counts as WDOG, and the next
one begins; a measured receiver takes its offset, and after the eleventh RX_OFF replies OK. The offset is a free value (log 4). -/
def Obligations.CaptureAttemptsGoOn : Prop :=
  (∀ s : State, s.live → s.cal.trig = true → (∀ c, s.cal.capt = some c → c.raised = true ∧ c.await = true) →
    exec .camTrigFall s = .next (finish s { s with cal := { s.cal with trig := false } })) ∧
  (∀ (c : Capt) (s : State), s.live → s.cal.capt = some c → c.await = true → c.raised = true → s.cal.trig = false → c.kind = 0x01 ∨ c.kind = 0x02 →
    c.good < c.want → c.tried + 1 < 4 * c.want →
    exec .noFrameTimeout s = .next (finish s
      (let t := raise F.CAM_EVT_WDOG s
       { t with cal := { t.cal with
         trig := true, capt := some { c with tried := c.tried + 1, await := true, raised := true, shots := 0, disc := false } } }))) ∧
  (∀ (p : Port) (tag : BitVec 10) (i : Nat) (s : State), s.live → s.cal.rxoff = some (p, tag, i) →
    ∃ v : Word, exec .rxOffMeasurementDone s = .next (finish s (
      let t := { s with fresh := s.fresh + 1 }.setTrim 0x11 i v
      if i < 10 then { t with cal := { t.cal with rxoff := some (p, tag, i + 1) } }
      else answer p tag 0x00 [] { t with cal := { t.cal with rxoff := none } })))

/-! Links and memory. -/

/-- R354, R355, R369, R370, R394: LINK_TRAIN begins the training of its groups and waits for their end; LINK_LOOPBACK stops the clocks of
its groups, takes their lanes out and waits; its end counts the bit errors and trains the groups again. -/
def Obligations.LinkCommandsBegin : Prop :=
  (∀ (p : Port) (h : Hdr) (w : Word) (s : State), s.live → Starts (mkReq p h 0x50 [w]) s → wbits w 3 0 ≠ 0 → wbits w 4 4 = 0 →
    s.lnk.loop = none →
    let t := s.taken (mkReq p h 0x50 [w])
    exec (.linkTrain p h [w]) s = .next (finish s ((bitsSet 4 (wbits w 3 0)).foldl (fun s g => startTraining g s)
      { t with lnk := { t.lnk with trains := t.lnk.trains ++ [{ port := p, tag := h.tag, groups := wbits w 3 0, pair := false,
                                                                left := wbits w 3 0 }] } }))) ∧
  (∀ (p : Port) (h : Hdr) (w : Word) (s : State), s.live → Starts (mkReq p h 0x51 [w]) s → wbits w 23 8 ≠ 0 →
    wbits w 1 0 = 1 ∨ wbits w 1 0 = 2 → wbits w 5 2 ≠ 0 → s.lnk.loop = none → trainingMask s = 0 →
    let t := s.taken (mkReq p h 0x51 [w])
    exec (.linkLoopback p h [w]) s = .next (finish s (checkElig ((bitsSet 4 (wbits w 5 2)).foldl (fun s g => s.updGrp g fun x =>
        { x with up := false, clkOn := false, trained := 0, map := List.replicate 8 0xF, named := 0 })
      ((bitsSet 4 (wbits w 5 2)).foldl (fun s g => cutLanes g 511 s) { t with lnk := { t.lnk with loop := some {
        port := p, tag := h.tag, mode := wbits w 1 0, groups := wbits w 5 2, pair := decide (wbits w 6 6 = 1),
        bc := decide (wbits w 7 7 = 1), left := none } } }))))) ∧
  (∀ (c : LoopCmd) (s : State), s.live → s.lnk.loop = some c → c.left = none → c.groups = 0 → c.pair = true →
    ∃ n, exec .linkLoopbackEnd s = .next (finish s (answer c.port c.tag 0x00 []
      (let t := { s with fresh := s.fresh + 1 }.bumpBy F.LNK_PAIR_ERR_ERRORS n
       { t with lnk := { t.lnk with loop := none } }))))

/-- R342: after training, an active lane whose own physical lane passed keeps it; the lowest one that failed moves to lane 8 when that
passed; the others have none. -/
def Obligations.LaneAssignmentAfterTraining : Prop :=
  ∀ failed m : Nat, m < 8 →
    nth 0xF (assignLanes failed) m =
      if failed.testBit m = false then m
      else if failed.testBit 8 = false ∧ (∀ k, k < m → failed.testBit k = false) then 8 else 0xF

/-- R353, R492, R342, R354, R355: with all clusters enabled the boot switches the next driver set on, and the twelfth begins the training
of every group and the pair link: the clocks come first, then the data lanes in their order, the pair's data lanes and its clock. A group's
training goes through its phases: phase 2 locks its clock, a phase that times out fails the group or the lanes that are late, and with no lane
failed it ends with lanes 0 to 7 carried, all nine trained and, where its clock still holds, the group up. -/
def Obligations.DriversSwitchOnAndGroupsTrain : Prop :=
  (∀ s : State, s.live → s.pwr.booting = true → s.pwr.enabling = false → s.pwr.clOn = 64 → s.lnk.drivers < 12 →
     let t := (driverSet s.lnk.drivers).foldl (fun s l => emit (.driver l) s) { s with lnk := { s.lnk with drivers := s.lnk.drivers + 1 } }
     exec .laneDriverSetOn s = .next (finish s (if s.lnk.drivers = 11 then
       startPairTraining (startTraining 3 (startTraining 2 (startTraining 1 (startTraining 0 t)))) else t))) ∧
  ((List.range 12).flatMap driverSet = (List.range 4).map .clock ++ (List.range 36).map (fun k => .data (k / 9) (k % 9)) ++
    (List.range 4).map .pairData ++ [.pairClock]) ∧
  (∀ (g : Fin 5) (m : BitVec 9) (s : State), s.live → g.val < 4 →
     let x := s.grp g.val
     (x.phase = 1 → exec (.trainingPhaseEnd g m) s = .next (finish s (s.updGrp g.val fun x => { x with phase := 2, clkOn := true })) ∧
       exec (.trainingPhaseTimeout g m) s = .next (finish s (trainDone g.val (raise F.LNK_EVT_TRAIN_FAIL (s.updGrp g.val fun x =>
         { x with phase := 0, trained := 0, map := List.replicate 8 0xF, dead := 255, up := false }))))) ∧
     (x.phase = 2 → exec (.trainingPhaseEnd g m) s = .next (finish s (s.updGrp g.val fun x => { x with phase := 3, clkLock := true }))) ∧
     (x.phase = 4 → exec (.trainingPhaseEnd g m) s = .next (finish s (s.updGrp g.val fun x =>
       { x with phase := 5, failed := x.failed ||| m.toNat })) ∧
       exec (.trainingPhaseTimeout g m) s = .next (finish s (s.updGrp g.val fun x => { x with phase := 5, failed := x.failed ||| m.toNat }))) ∧
     (x.phase = 5 → x.failed ||| m.toNat = 0 → exec (.trainingPhaseEnd g m) s = .next (finish s (trainDone g.val
       ((s.updGrp g.val fun x => { x with phase := 5, failed := 0 }).updGrp g.val fun x =>
         { x with phase := 0, up := x.clkLock, named := 0, trained := 511, map := [0, 1, 2, 3, 4, 5, 6, 7], dead := 0 })))))

/-- R184, R186 to R191, R206: a transaction that exists is accepted on a live pseudo-channel with an entry free, under its deadline: the next
one of an access that a unit has posted, with what it carries, or traffic that none has (log 87). A retired pseudo-channel accepts none, and a
transaction that does not exist stops the run. A transaction with no bursts left frees its entry. -/
def Obligations.TransactionsAreAcceptedAndComplete : Prop :=
  (∀ (pc : Fin 64) (port : Fin 7) (a : BitVec 30) (n d : Nat) (wr : Bool) (s : State), s.live → txnOk port.val a.toNat n wr = true →
    s.mem.sr = .awake →
    let gives (x : TxnPost) : Bool := x.gives pc.val port.val a.toNat n wr
    let x (again : Bool) (use : TxnUse) : Txn :=
      { id := s.mem.nextTxn, port := port.val, addr := a.toNat, bursts := n, left := n,
        deadline := if port.val = 0 then d else s.ns + s.fld (F.MEM_PORT_TGT_TARGET_NS port.val), write := wr, slot := 0, repeats := 0,
        again := again, use := use }
    let enter (y : Txn) (posts : List TxnPost) : State := updPc pc.val (fun c => { c with txns := c.txns ++ [y] })
      { s with mem := { s.mem with nextTxn := s.mem.nextTxn + 1, posts := posts } }
    ((s.pc pc.val).retired = false → entryFree (s.pc pc.val) port.val (s.fld F.MEM_CTL_RT_RESERVE) = true →
      (s.mem.posts.find? gives = none → exec (.transactionAccept pc port a n d wr) s =
        .next (finish s (enter (x false (useAt pc.val port.val a.toNat s)) s.mem.posts))) ∧
      (∀ y, s.mem.posts.find? gives = some y → exec (.transactionAccept pc port a n d wr) s =
        .next (finish s (noteWrite y.use (enter (x y.again y.use) (takePost gives n s.mem.posts)))))) ∧
    ((s.pc pc.val).retired = true → exec (.transactionAccept pc port a n d wr) s = .next (finish s s))) ∧
  (∀ (pc : Fin 64) (port : Fin 7) (a : BitVec 30) (n d : Nat) (wr : Bool) (s : State), txnOk port.val a.toNat n wr = false →
    exec (.transactionAccept pc port a n d wr) s = .fault .noSuchTransaction) ∧
  (∀ (pc : Fin 64) (x : Txn) (s : State), s.live → (s.pc pc.val).finished = some x → x.port ≠ 0 ∨ s.ns ≤ x.deadline →
    let t := updPc pc.val (fun c => { c with txns := removeFirst (·.id == x.id) c.txns,
                                             holder := if c.holder = some x.id then none else c.holder }) s
    (t.pc pc.val).idle = false → exec (.transactionComplete pc) s = .next (finish s t))

/-- R194, R200 to R203, R207, R208: a bus slot begins with the granted transaction when no refresh is issued; a refresh is due an interval
after the last, and a due one is counted up to five; after a refresh the carried-over grant proceeds. A correctable error of a read is
counted, and the count that reaches CE_LIMIT queues the pseudo-channel and is flagged; the first two parity errors of a transaction repeat
its command. -/
def Obligations.BusSlotsRefreshesAndErrors : Prop :=
  (∀ (pc : Fin 64) (s : State), s.live → busRuns pc.val s = true → (s.pc pc.val).training = false → refreshNow s (s.pc pc.val) = false →
    exec (.busSlotStart pc) s = .next (finish s (beginSlot pc.val (breakPoint pc.val s)))) ∧
  (∀ (pc : Fin 64) (s : State), s.live →
    (2 * s.ns < (s.pc pc.val).refAt → exec (.refreshDue pc) s = .next (finish s s)) ∧
    (s.mem.sr = .awake → (s.pc pc.val).refAt ≤ 2 * s.ns →
      ((s.pc pc.val).idle = false ∧ (s.pc pc.val).aside = false) ∨ (s.pc pc.val).refreshing = true →
      exec (.refreshDue pc) s = .next (finish s
        (updPc pc.val (fun c => { c with postponed := min 5 (c.postponed + 1), refAt := nextRef pc.val s }) s)))) ∧
  (∀ (pc : Fin 64) (s : State), s.live → (s.pc pc.val).refreshing = true → (s.pc pc.val).training = false →
    (s.pc pc.val).retired = false → (s.pc pc.val).idle = false →
    exec (.refreshDone pc) s = .next (finish s (beginSlot pc.val (updPc pc.val (fun c => { c with refreshing := false }) s)))) ∧
  (∀ (pc : Fin 64) (x : Txn) (s : State), s.live → (s.pc pc.val).held = some x → x.write = false →
    let t := s.bump (F.MEM_PC_ECC_CE_CNT pc.val)
    exec (.errorSeverityReport pc false) s = .next (finish s
      (if s.fld (F.MEM_PC_ECC_CE_CNT pc.val) < s.fld F.MEM_CTL_CE_LIMIT ∧ s.fld F.MEM_CTL_CE_LIMIT ≤ t.fld (F.MEM_PC_ECC_CE_CNT pc.val) then
        raise (F.MEM_PC_EVT_CE_LIMIT pc.val) (updPc pc.val (fun c => { c with due := true }) t)
      else t))) ∧
  (∀ (pc : Fin 64) (x : Txn) (s : State), s.live → (s.pc pc.val).held = some x → x.repeats < 2 →
    exec (.parityError pc) s = .next (finish s (updPc pc.val (fun c =>
      { c with txns := updateFirst (·.id == x.id) (fun x => { x with repeats := x.repeats + 1 }) c.txns }) s)))

/-- R211 to R214, R217 to R221, R223: with SR_EN, in IDLE with nothing to do, both stacks enter self-refresh with no refresh left owing; the
exit ends with every pseudo-channel whose check passed as it was, its next refresh an interval away. MEM_RETRAIN queues its pseudo-channels
and waits; the lowest one queued trains in a gap; a training that passes clears its marks and its correctable count; a readout stores the
temperature and flags a stack that becomes hot. -/
def Obligations.SelfRefreshAndRetraining : Prop :=
  (∀ s : State, s.live → s.bit F.MEM_CTL_SR_EN = true → s.core = .idle → (∀ p, p < 64 → (s.pc p).txns = [] ∧ (s.pc p).training = false) →
    s.mem.posts = [] → s.mem.sr = .awake → flightsOp .host 0x10 s = [] →
    let t := (List.range 64).foldl (fun s p => updPc p (fun c => { c with postponed := 0, passed := 0, refreshing := false, openRow := none }) s) s
    exec .selfRefreshEntry s = .next (finish s { t with mem := { t.mem with sr := .asleep } })) ∧
  (∀ s : State, s.live → s.mem.sr = .leaving → s.pwr.clOn = 64 → flightsOp .host 0x10 s = [] →
    exec (.selfRefreshExitDone 0) s = .next (finish s ((List.range 64).foldl
      (fun t p => updPc p (fun c => { c with refAt := 2 * s.ns + refInterval p s }) t) { s with mem := { s.mem with sr := .awake } }))) ∧
  (∀ (p : Port) (h : Hdr) (v w : Word) (s : State), s.live → Starts (mkReq p h 0x58 [v, w]) s → s.job = none → s.mem.sr = .awake →
    let pcs := bitsSet 32 (wbits v 31 0) ++ (bitsSet 32 (wbits w 31 0)).map (· + 32)
    let t := pcs.foldl (fun s p => updPc p (fun c => { c with due := true }) s) (s.taken (mkReq p h 0x58 [v, w]))
    pcs ≠ [] → exec (.memRetrain p h [v, w]) s = .next (finish s { t with mem := { t.mem with
      retrains := t.mem.retrains ++ [{ port := p, tag := h.tag, pcs := pcs, anyRetired := false }] } })) ∧
  (∀ (p : Nat) (s : State), s.live → s.core = .idle ∨ s.core = .job ∨ s.core = .armed → retraining s = false → s.mem.startHold = none →
    s.mem.sr = .awake → p < 64 → (s.pc p).due = true → (∀ q, q < p → (s.pc q).due = false) →
    exec .retrainingStart s = .next (finish s (updPc p (fun c => { c with training := true }) s))) ∧
  (∀ (p : Nat) (s : State), s.live → p < 64 → (s.pc p).training = true → (∀ q, q < p → (s.pc q).training = false) →
    (s.pc p).retired = false → s.mem.startHold = none →
    exec (.retrainingDone true) s = .next (finish s (retrainReplies p false
      (updPc p (fun c => { c with training := false, due := false }) ((recordTraining p true (stackTemp p s) s).setFld (F.MEM_PC_ECC_CE_CNT p) 0))))) ∧
  (∀ (k : Fin 2) (t : BitVec 9) (s : State), s.live →
    (∀ i, i < 32 → (t.toInt - (s.pc (32 * k.val + i)).temp).natAbs ≤ s.fld F.MEM_CTL_RETRAIN_DT) →
    let was := (s.fld F.MEM_STATUS_HOT).testBit k.val
    let hot := decide (85 ≤ t.toInt)
    let h := s.fld F.MEM_STATUS_HOT
    exec (.stackTemperatureReadout k t) s = .next (finish s (raiseIf (hot && !was) F.MEM_EVT_HOT
      ((s.setFld (if k.val = 0 then F.MEM_STK_TEMP_TEMP0 else F.MEM_STK_TEMP_TEMP1) t.toNat).setFld F.MEM_STATUS_HOT
        (if hot = was then h else if hot then h + 2 ^ k.val else h - 2 ^ k.val)))))

/-- R372, R456, R474: the partner's PAIR_LINK sets the live lanes out; a lane in that loses block lock is dropped; with no lane left in one
direction the link is down. -/
def Obligations.PairLanesFollowTheirReports : Prop :=
  ∀ s : State, s.live → s.lnk.pair.phase = 0 → s.lnk.pair.clkOn = true → s.lnk.pair.up = true →
    (∀ m : BitVec 4, m ≠ 0 → s.lnk.pair.rx ≠ 0 →
      exec (.pairLink m true) s = .next (finish s { s with lnk := { s.lnk with pair := { s.lnk.pair with tx := m.toNat } } })) ∧
    (∀ k : Fin 4, let rx := s.lnk.pair.rx - (s.lnk.pair.rx &&& 2 ^ k.val)
      s.lnk.pair.tx ≠ 0 → rx ≠ 0 →
      exec (.pairLaneBlockLockLoss k) s = .next (finish s { s with lnk := { s.lnk with pair := { s.lnk.pair with rx := rx } } })) ∧
    exec .pairLinkDown s = .next (finish s (linkDown { s with lnk := { s.lnk with
      pair := { s.lnk.pair with tx := 0, rx := 0, rxClk := false } } }))

/-! Back-channel. -/

/-- R250, R361 to R365, R375, R473: a back-channel frame with a bad character, or whose TYPE, length or CRC-32C is wrong, is counted BC_BAD
and has no other effect. A sound one, whose bytes stand between /S/ and /T/, is counted BC_GOOD, dates BC_OK, and takes its effect. The group's
silence is flagged once. -/
def Obligations.BackChannelFramesAreTaken : Prop :=
  (∀ b : List Byte, bcBytes ([BcChar.k 27 7] ++ b.map BcChar.d ++ [BcChar.k 29 7]) = some b) ∧
  ∀ (g : Fin 4) (chars : List BcChar) (s : State), s.live →
    let good := (s.bump (F.LNK_GRP_BC_GOOD g.val)).updGrp g.val fun x => { x with bcAt := some s.tb.ticks }
    (∀ type len c, (type = 0x01 ∧ len = 16 ∧ c = .status g chars ∨ type = 0x02 ∧ len = 13 ∧ c = .discard g chars ∨
        type = 0x03 ∧ len = 2 ∧ c = .laneFault g chars ∨ type = 0x04 ∧ len = 7 ∧ c = .token g chars) →
      (bcBytes chars = none → exec c s = .next (finish s (s.bump (F.LNK_GRP_BC_BAD g.val)))) ∧
      (∀ b, bcBytes chars = some b → bcFrameOk type len b = false → exec c s = .next (finish s (s.bump (F.LNK_GRP_BC_BAD g.val)))) ∧
      (∀ b, bcBytes chars = some b → bcFrameOk type len b = true → exec c s = .next (finish s
        (if type = 0x01 then takeStatus g.val b good
        else if type = 0x02 then takeDiscard g.val b good
        else if type = 0x03 then failLanes g.val (if bcField b 0 1 ≤ 8 then 2 ^ bcField b 0 1 else 0) good
        else if s.pair.st < 2 then good else takeTokenFrame (bcField b 1 2) (bcField b 3 4) good)))) ∧
    ((plateOf g.val s).stale = false → exec (.backChannelSilent g) s = .next (finish s
      (let t := { s with slc := { s.slc with
         plates := amPut (fun _ => Plate.reset) s.slc.plates g.val { plateOf g.val s with stale := true } } }
       thermal (plateMax s) (raiseIf (decide (g.val ∈ activeGroups s)) F.SLC_EVT_PLATE_STALE (raise F.LNK_EVT_BC_LOST t)))))

/-- R357, R365, R361, R286: a DISCARD outside a job flags its report and is counted for the group and for the lane it names. The loss of a
forwarded clock in a loaf stops it with cause INTERLOCK: with CLK reports at the slice after the last one that any of them names, without
reports at the first slice not launched, and a LOST entry follows. -/
def Obligations.DiscardsCountAndClockLossStops : Prop :=
  (∀ (g : Nat) (b : List Byte) (s : State), g < 4 → bcField b 2 2 ≠ 0xFFFF → s.job = none → bcField b 0 1 ≤ 8 →
     bcField b 12 1 = 0 ∨ bcField b 12 1 = 2 → (s.grp g).phase = 0 →
     let t := raise F.LNK_EVT_DISCARD s
     takeDiscard g b s = (((t.setFld (F.LNK_GRP_DISC_DISC_RX g) ((t.fld (F.LNK_GRP_DISC_DISC_RX g) + 1) % 65536)).updGrp g fun x =>
       { x with disc := (x.disc + 1) % 65536 }).bump (discFld g (bcField b 0 1)))) ∧
  (∀ (c : ClkLoss) (s : State), s.live → s.lch.clkLoss = some c → running s = true → pairOwner s = false →
     (c.reports ≠ [] → exec .clkFirstDecide s = .next (finish s (stopWith cInterlock (c.reports.foldl max 0 + 1) s))) ∧
     (c.reports = [] → exec .clkReportTimeout s = .next (finish s (commitEnt (lostEnt 1) (stopWith cInterlock c.first s)))))

/-! The redundant pair. -/

/-- R458, R459, R466: JOIN of HOST with no loaf held waits with its digest in STATE JOINING; the partner's JOIN is acknowledged and kept;
without one the HOST JOIN times out and STATE is what it was; LEAVE makes STATE SINGLE. -/
def Obligations.PairFormsAndParts : Prop :=
  (∀ (h : Hdr) (w : Word) (s : State), s.live → Starts (mkReq .host h 0x60 [setBits w 35 32 0]) s → s.loaves = [] → s.lnk.pair.up = false →
    s.pair.kept = none →
    let t := s.taken (mkReq .host h 0x60 [setBits w 35 32 0])
    exec (.join h [w]) s = .next (finish s
      (setPairSt 1 { t with pair := { t.pair with join := some (h.tag, digestOf s, s.pair.st) } }))) ∧
  (∀ (h : Hdr) (v w : Word) (s : State), s.live → Starts (mkReq .partner h 0x60 [setBits v 35 32 0, w]) s → s.pair.join = none →
    exec (.partnerJoin h [v, w]) s = .next (finish s
      (let t := sendReply .partner h.tag 0x60 0x00 [] s
       { t with pair := { t.pair with kept := some (wbits w 31 0) } }))) ∧
  (∀ (tag : BitVec 10) (d st : Nat) (s : State), s.live → s.pair.join = some (tag, d, st) →
    exec .joinTimeout s = .next (finish s (answer .host tag 0x0A [] (setPairSt st { s with pair := { s.pair with join := none } })))) ∧
  (∀ (h : Hdr) (w : Word) (s : State), s.live → Starts (mkReq .host h 0x60 [setBits w 35 32 7]) s → pairStandby s = false →
    s.lnk.pair.up = false → s.pair.join = none →
    exec (.leave .host h [w]) s = .next (finish s
      (let t := sendReply .host h.tag 0x60 0x00 [] s
       setPairSt 0 { t with pair := { t.pair with unacked := [], kept := none, handing := none, taking := none } })))

/-- R460 to R468: a message of the partner is acknowledged at once; before SYNC it has no other effect. In SYNC a BEAT is kept and shown, a
TRAJ and a MARK wait for their slice or tick, a TILE and a SLICE wait for their counterparts, and a JNL entry of no range kind is
committed. -/
def Obligations.PairMessagesAreTaken : Prop :=
  ∀ (h : Hdr) (v : Word) (w : List Word) (s : State), s.live →
    let rq (fn : Nat) := mkReq .partner h 0x60 (setBits v 35 32 fn :: w)
    let t := sendReply .partner h.tag 0x60 0x00 [] s
    let f (i hi lo : Nat) := wbits (nth 0 w (i - 2)) hi lo
    (∀ fn c, (fn = 1 ∧ c = .beat .partner h (v :: w) ∨ fn = 2 ∧ c = .traj .partner h (v :: w) ∨ fn = 3 ∧ c = .mark .partner h (v :: w) ∨
        fn = 4 ∧ c = .tile .partner h (v :: w) ∨ fn = 5 ∧ c = .slice .partner h (v :: w) ∨ fn = 6 ∧ c = .jnl .partner h (v :: w)) →
      Starts (rq fn) s → s.pair.st < 2 → exec c s = .next (finish s t)) ∧
    (Starts (rq 1) s → 2 ≤ s.pair.st → s.pair.armWait = none → s.pair.startWait = none →
      let b : Beat := { ready := f 2 35 19, core := f 2 18 16, ord := f 2 15 0, launched := f 3 31 0, gm := f 4 35 0 + f 5 27 0 * 2 ^ 36,
                        locked := f 6 0 0 == 1, expHeld := f 6 1 1 == 1, tick := s.tb.ticks }
      exec (.beat .partner h (v :: w)) s = .next (finish s (checkElig (checkElig
        (({ t with pair := { t.pair with beat := some b } }.setReg A.PAIR_PEER (nth 0 w 0)).setFld F.PAIR_PEER_LNCH_LAUNCHED b.launched))))) ∧
    (Starts (rq 2) s → pairStandby s = true → exec (.traj .partner h (v :: w)) s = .next (finish s { t with pair := { t.pair with
      trajs := t.pair.trajs ++ [(f 2 35 0 + f 3 14 0 * 2 ^ 36, f 3 17 15, f 4 19 0)] } })) ∧
    (Starts (rq 3) s → pairStandby s = true → f 2 3 0 = 1 → exec (.mark .partner h (v :: w)) s = .next (finish s { t with pair := { t.pair with
      markEpochs := t.pair.markEpochs ++ [(f 3 31 0, f 4 31 0)] } })) ∧
    (∀ b, Starts (rq 4) s → 2 ≤ s.pair.st → s.pair.beat = some b → s.pair.ownTiles = [] →
      exec (.tile .partner h (v :: w)) s = .next (finish s { t with pair := { t.pair with peerTiles := t.pair.peerTiles ++
        [{ ord := b.ord, row := f 2 31 16, col := f 2 4 0, k := (nth 0 w 1).toNat, a := (nth 0 w 2).toNat }] } })) ∧
    (∀ b, Starts (rq 5) s → 2 ≤ s.pair.st → s.pair.beat = some b → s.pair.ownSlices = [] →
      exec (.slice .partner h (v :: w)) s = .next (finish s { t with pair := { t.pair with peerSlices := t.pair.peerSlices ++
        [{ ord := b.ord, n := f 2 31 0, clean := f 2 35 35 == 1, pcrc := (w.drop 1).map BitVec.toNat }] } })) ∧
    (Starts (rq 6) s → 2 ≤ s.pair.st → s.pair.own = false → (JEnt.ofWords w).isRange = false →
      exec (.jnl .partner h (v :: w)) s = .next (finish s (commitEnt (JEnt.ofWords w) t)))

/-- R466, R467, R470, R471: HANDOVER in JOB asks the partner to take the token; an eligible standby agrees to a PAIR_TAKEOVER; the
partner's OK acknowledges a JNL; at L_FIRST after the OK the owner deasserts OWN_N; without a reply it keeps the token and STATE becomes
SPLIT. -/
def Obligations.TokenIsHandedOver : Prop :=
  (∀ (h : Hdr) (w : Word) (s : State), s.live → Starts (mkReq .host h 0x60 [setBits w 35 32 8]) s → pairOwner s = true →
    s.pair.handing = none → s.core = .job → followReady s = true →
    ∃ o, exec (.handover .host h [w]) s = .next (finish s (sendTakeover 0xFFFFFFFF s.quarter cTakeover o (some h.tag) true
      { s.taken (mkReq .host h 0x60 [setBits w 35 32 8]) with fresh := s.fresh + 1 }))) ∧
  (∀ (h : Hdr) (a b c d : Word) (s : State), s.live → Starts (mkReq .partner h 0x61 [a, b, c, d]) s → pairStandby s = true →
    s.pair.taking = none → eligible s = true → wbits a 31 0 ≠ 0xFFFFFFFF →
    exec (.pairTakeover .partner h [a, b, c, d]) s = .next (finish s (sendReply .partner h.tag 0x61 0x00 []
      { s with pair := { s.pair with taking := some {
        first := wbits a 31 0, lFirst := b.toNat + wbits c 29 0 * 2 ^ 36, cause := wbits d 19 16, ord := wbits d 15 0,
        seen := !s.pins.peerOwn, taken := false, unasked := false, inJob := false } } }))) ∧
  (∀ (tag : BitVec 10) (s : State), s.live →
    exec (.partnerReply { tag := tag, flags := 0 } 0x60 []) s = .next (finish s
      { s with pair := { s.pair with unacked := s.pair.unacked.filter (· != tag) } })) ∧
  (∀ (x : Handing) (s : State), s.live → s.pair.handing = some x → x.passed = false →
    (x.ok = true → x.lFirst ≤ s.quarter → x.inJob = false → x.host = none → s.lch.run ≠ none →
      exec .takeoverLFirstReached s = .next (finish s (checkElig (setTko x.cause false false x.first (raise F.PAIR_EVT_HANDED
        { s with pair := { s.pair with own := false, handing := some { x with passed := true } } }))))) ∧
    (x.ok = false → x.host = none → exec .takeoverReplyTimeout s = .next (finish s
      (setPairSt 3 { s with pair := { s.pair with handing := none } }))) ∧
    (∀ tag, x.ok = false → x.host = some tag → exec .handoverTimeout s = .next (finish s
      (setPairSt 3 (answer .host tag 0x0A [] { s with pair := { s.pair with handing := none } })))))

/-- R460, R471 to R473: PEER_OWN_N is followed; after the gap the standby of a HANDOVER in JOB asserts OWN_N; an agreed takeover whose
token does not pass, and a lost partner that still shows the token, make STATE SPLIT; a standby without BEATs whose partner shows no token
takes it. -/
def Obligations.TokenIsTaken : Prop :=
  (∀ (b : Bool) (s : State), s.live → s.pair.taking = none →
    exec (.peerOwnNChange b) s = .next (finish s { s with pins := { s.pins with peerOwn := b } })) ∧
  (∀ (x : Taking) (s : State), s.live → s.pair.taking = some x → x.taken = false →
    (x.seen = true → x.inJob = true → s.pins.peerOwn = false → exec .tokenGapExpire s = .next (finish s
      (checkElig { s with pair := { s.pair with own := true, taking := none } }))) ∧
    (s.pins.peerOwn = true → pairStandby s = true → s.pair.armWait = none → s.pair.startWait = none → s.lch.run = none →
      exec .standbyTakeTimeout s = .next (finish s (setPairSt 3
        { s with pair := { s.pair with taking := none, mirror := [] }, lch := { s.lch with openEnts := [] } })))) ∧
  (∀ s : State, s.live → pairStandby s = true → beatFresh s = false → s.pair.taking = none →
    (s.pins.peerOwn = true → s.pair.armWait = none → s.pair.startWait = none → s.lch.run = none →
      exec .tokenLeaseExpire s = .next (finish s (setPairSt 3
        { s with pair := { s.pair with mirror := [] }, lch := { s.lch with openEnts := [] } }))) ∧
    (s.pins.peerOwn = false →
      let n := firstAt (s.quarter + 2000) s
      let x : Taking := { first := n, lFirst := lFirstOf n s, cause := cTakeover, ord := (armedOrd s).getD 0, seen := true, taken := false,
                          unasked := true, inJob := false }
      exec .tokenLeaseExpire s = .next (finish s (takeToken x s)))) ∧
  (∀ (x : Taking) (s : State), s.live → s.pair.taking = some x → x.taken = true → x.seen = true →
    exec .tokenFrameTimeout s = .next (finish s (takeoverEnts x.first true s))) ∧
  (∀ (tag : BitVec 10) (s : State), s.live → s.pair.startWait = some tag → pairStandby s = false →
    exec .loafStartHoldTimeout s = .next (finish s (checkElig (startExposure tag
      { s with pair := { s.pair with startWait := none, alone := true } })))) ∧
  (∀ (o : Nat) (s : State), s.live → s.lnk.pair.up = true → armedOrd s = some o →
    exec .beatSend s = .next (finish s (sendPeer 0x60
      [fnWord 0x1, BitVec.ofNat 36 (s.plc.front % 2 ^ 17 * 2 ^ 19 + s.core.code % 8 * 2 ^ 16 + o % 2 ^ 16),
       BitVec.ofNat 36 (s.fld F.TB_LAUNCH_STATUS_LAUNCHED), BitVec.ofNat 36 (gmOf s % 2 ^ 36), BitVec.ofNat 36 (gmOf s / 2 ^ 36),
       BitVec.ofNat 36 (s.fld F.TB_PTP_STATUS_LOCKED + (if holds .host 0 s then 2 else 0))] s).2))

/-! Reset, boot and power. -/

/-- R485 to R488: RESET_N and POWER leave every register at its reset value but PWR_RST_CAUSE, which POWER resets too; the inputs stay, and
the flash but for what an operation that runs leaves unfinished (log 84). RESET_SOFT, with its reply, and the watchdog begin with a dump of
the journal; the end of the dump resets the device. -/
def Obligations.ResetsLeaveTheResetState : Prop :=
  ∀ s : State,
    let u := tearFlash s
    let left (regs : AMap Word) (pin : Bool) : State := { State.reset with
      pending := u.pending, out := u.out, fresh := u.fresh, epoch := u.epoch, regs := regs, tap := u.tap,
      boundary := u.boundary,
      nvm := { State.reset.nvm with flash := u.nvm.flash },
      pins := { State.reset.pins with
        resetN := pin, interlock := u.pins.interlock, recovery := u.pins.recovery, sideB := u.pins.sideB, peerOwn := u.pins.peerOwn } }
    let kept (cause : Nat) : AMap Word := amPut resetWord [] A.PWR_RST_CAUSE (rstCauseWord cause u)
    (s.pins.resetN = false → exec .resetN s = .next (finish s (left (kept rstPin) true))) ∧
    exec .power s = .next (finish s (left [] u.pins.resetN)) ∧
    (s.live → s.pwr.failing = false → s.pwr.dump = none →
      (s.nvm.jnlErased = true → exec .wdogReset s = .next (finish s { s with pwr := { s.pwr with dump := some .wdog } })) ∧
      (s.nvm.jnlErased = false → exec .wdogReset s = .next (finish s (left (kept rstWdog) u.pins.resetN))) ∧
      (∀ p h w, Starts (mkReq p h 0x7F [w]) s → s.core ≠ .armed → s.core ≠ .exposing → s.nvm.jnlErased = true →
        exec (.resetSoft p h [w]) s = .next (finish s
          (let t := sendReply p h.tag 0x7F 0x00 [] s
           { t with pwr := { t.pwr with dump := some .soft } })))) ∧
    (s.live → s.pwr.failing = false → s.pwr.dump = some .soft →
      exec .journalDumpEnd s = .next (finish s (left (kept rstSoft) u.pins.resetN)))

/-- R299, R446, R529: a dump writes the journal, oldest entry first, in records of up to 256 entries after the half's mark, and the half is
no longer erased. With none to write it writes nothing. -/
def Obligations.JournalDumpWritesTheEntries : Prop :=
  ∀ (h : Nat) (s : State), s.live → s.pwr.dump ≠ none → s.nvm.jnlErased = true → dumpHalf s.nvm.flash = some h →
    s.fld F.TB_JNL_DROP_DROPPED = 0 →
    (s.jnl = [] → exec .journalDump s = .next (finish s s)) ∧
    (s.jnl ≠ [] →
      let t := writeDump s.jnl.length (dumpStart h) (highSeq s.nvm.flash + 1) 0 (chunks (s.jnl.length + 1) s.jnl) s
      (chunks (s.jnl.length + 1) s.jnl).flatten = s.jnl ∧ (∀ c ∈ chunks (s.jnl.length + 1) s.jnl, c.length ≤ 256) ∧
      exec .journalDump s = .next (finish s { t with nvm := { t.nvm with jnlErased := false } }))

/-- R35, R446, R481, R489 to R492: the boot ends the reset, drives the outputs, selects a slot and applies what the flash holds; with a
slot it goes on to enable the clusters one at a time, without one it enters RECOVERY. A marked dump half counts as erased. -/
def Obligations.BootStartsTheDevice : Prop :=
  (∀ (v : Option (BitVec 8)) (ack : Bool) (m : BitVec 64) (s : State), s.core = .boot → s.pwr.driving = false → s.pins.interlock = false →
    s.tap = .idcode ∨ s.tap = .bypass ∨ s.tap = .sample →
    let t := { s with pins := { s.pins with resetN := false }, pwr := { s.pwr with driving := true }, cmd := { s.cmd with uart := true } }
    let x := selectSlot (bootPmbus v ack t)
    let u := bootJournal (bootHbm m.toNat (bootTrims x.2))
    exec (.boot v ack m) s = .next (finish s
      (if x.1 then { u with pwr := { u.pwr with booting := true, enabling := true } } else { u with core := .recovery }))) ∧
  (∀ s : State, s.live → s.pwr.enabling = true → flightsOp .host 0x10 s = [] →
    exec .clusterEnableStep s = .next (finish s
      { s with pwr := { s.pwr with clOn := s.pwr.clOn + 1, enabling := decide (s.pwr.clOn + 1 < 64) } })) ∧
  (∀ s : State, s.live → s.nvm.jnlErased = false → s.pwr.driving = true → s.pwr.failing = false → s.pwr.dump = none →
    let h := match dumpHalf s.nvm.flash with
      | some h => 1 - h
      | none => 0
    let t := (List.range 512).foldl (fun s i => eraseSector (jnlArea.half h + 4096 * i) s) s
    let u := programFlash (jnlArea.half h) (recordBytes 0x21 (highSeq s.nvm.flash + 1) (s.ns % 2 ^ 36) []) t
    exec .journalMarkDone s = .next (finish s { u with nvm := { u.nvm with jnlErased := true } }))

/-- R316, R481 to R483, R498 to R502: INTERLOCK_N and a low core voltage are shown as causes, enter SAFE from IDLE or JOB with every move
stopped, and are flagged; INTERLOCK_N stops every move in SAFE too; they clear when their condition ends; RELEASE leaves SAFE once no cause is
left. A power failure enters SAFE, stops every move and aborts homing, abandons the flash, stops every port and the clusters, is flagged, and
the dump follows. -/
def Obligations.SafeIsEnteredAndLeft : Prop :=
  (∀ s : State, s.live →
     let all (t : State) : State := stopMoves (fun _ => true) t
     let enter (b : Nat) (t : State) : State := checkElig (all
       { t with pwr := { t.pwr with causes := t.pwr.causes ||| b }, core := .safe })
     let pin (b : Bool) : State := { s with pins := { s.pins with interlock := b } }
     let v (raw : Nat) : Int := senseOf s 4 raw
     let vdd (raw : Nat) : State := s.setFld F.PWR_STATUS_VMEAS_MV (satU 10 (max 0 (v raw)).toNat)
     (s.core = .idle ∨ s.core = .job → s.mot.home = none → s.mot.arm = none → s.mem.startHold = none → s.pair.startWait = none →
       (s.pwr.driving = true → s.cal.capt = none → hasCause 1 s = false →
         exec .interlockN s = .next (finish s (all (raise F.PWR_EVT_INTERLOCK (enter 1 (pin true)))))) ∧
       (∀ raw, v raw < ((vdd raw).fld F.PWR_AVS_CTL_VMIN_MV : Int) - 30 → hasCause 4 s = false →
         exec (.coreUv raw) s = .next (finish s (raise F.PWR_EVT_CORE_UV (enter 4 (vdd raw)))))) ∧
     (s.core = .safe → s.pwr.driving = true → s.cal.capt = none → hasCause 1 s = true → s.mot.home = none → s.mot.arm = none →
       exec .interlockN s = .next (finish s (all (pin true)))) ∧
     (hasCause 1 s = true → exec .interlockDeassert s = .next (finish s
       (let t := pin false
        { t with pwr := { t.pwr with causes := t.pwr.causes - 1 } }))) ∧
     (∀ raw, ((vdd raw).fld F.PWR_AVS_CTL_VMIN_MV : Int) ≤ v raw → hasCause 4 s = true →
       exec (.coreUvClear raw) s = .next (finish s
         (let t := vdd raw
          { t with pwr := { t.pwr with causes := t.pwr.causes - 4 } }))) ∧
     (∀ v, s.core = .safe → s.pwr.causes = 0 → exec (.release .host v) s = .next (finish s
       (let t := s.setReg A.PWR_SAFE (s.getReg A.PWR_SAFE)
        checkElig { t with core := if s.job.isSome then .job else .idle })))) ∧
  (∀ s : State, s.live → s.pwr.failing = false →
     let e := enterSafe cPwrFail { s with pwr := { s.pwr with causes := s.pwr.causes ||| 8 } }
     let t := abandonFlash (armBroken (stopMoves (fun _ => true) (abortHome e)))
     let u := wakeMemory (sleepCore (stopPorts (abandonBist
       (raise F.PWR_EVT_PWR_FAIL { t with pwr := { t.pwr with failing := true, booting := false } }))))
     exec .pwrFail s = .next (finish s { u with pwr := { u.pwr with dump := some (u.pwr.dump.getD .pwrFail) } }))

/-- R493 to R497: a sensor reading well below WARN_C is stored and clears HOT; the law's voltage is commanded and clamped; STATUS_WORD
without a fault is stored; IDLE_OFF commands VMIN_MV and disables the clusters. -/
def Obligations.VoltageAndTemperature : Prop :=
  (∀ (b : Fin 4) (raw : Int) (s : State), s.live →
    let t := s.setFld (nth F.PWR_TEMP_T0 [F.PWR_TEMP_T0, F.PWR_TEMP_T1, F.PWR_TEMP_T2, F.PWR_TEMP_T3] b.val)
      (twos 9 (satS 9 ((senseOf s b.val raw).fdiv 16)))
    junction t < (t.fld F.PWR_THERM_WARN_C : Int) - 5 → junction t < (t.fld F.PWR_THERM_TRIP_C : Int) → hasCause causeTherm s = false →
    exec (.bankSensorReading b raw) s = .next (finish s { t with pwr := { t.pwr with hot := false } })) ∧
  (∀ (l : List Nat) (s : State), s.live → s.bit F.PWR_AVS_CTL_EN = true → s.pwr.avsHold = false → coreOff s = false →
    hasCause causeTherm s = false → s.pwr.booting = false → avsNext l s ≠ s.pwr.vset → s.fld F.PWR_AVS_CTL_VMIN_MV ≤ avsTop s →
    s.fld F.PWR_AVS_CTL_VMIN_MV ≤ avsNext l s ∧ avsNext l s ≤ avsTop s ∧
    exec (.avsPeriod l true) s = .next (finish s (emit
      (.pmbus (s.fld F.PWR_PMB_ADDR) 0x21 (linear16 (avsNext l s) (s.sfld F.PWR_PMB_VOUT_N)))
      { s with pwr := { s.pwr with vset := avsNext l s } }))) ∧
  (∀ (w : BitVec 16) (s : State), s.live → w.toNat &&& pmbFaults = 0 → exec (.pmbusStatusPoll (some w)) s = .next (finish s
    ((emit (.pmbus (s.fld F.PWR_PMB_ADDR) 0x79 0) s).setFld F.PWR_PMB_STATUS_WORD w.toNat))) ∧
  (∀ s : State, s.live → s.core = .idle → s.fld F.PWR_IDLE_OFF_MS ≠ 0 → 64 ≤ s.pwr.clOn → (∀ t ∈ s.plc.tiles, t.inFlight = false) →
    s.cal.capt = none → s.pwr.avsHold = false →
    exec .idleOff s = .next (finish s (
      let v := s.fld F.PWR_AVS_CTL_VMIN_MV
      let t := emit (.pmbus (s.fld F.PWR_PMB_ADDR) 0x21 (linear16 v (s.sfld F.PWR_PMB_VOUT_N))) s
      { t with pwr := { t.pwr with clOn := 0, enabling := false, vset := v, idleOff := true } })))

/-! Register accesses with rows of their own. -/

/-- R10, R12, R39, R40, R266, R424: a write of another length or place, an aligned write outside every block, and a malformed read are counted
in GLB_BAD_ACCESS_CNT and recorded with their KIND and address; a malformed read and a read outside every block give 0. An aligned read of 8
bytes gives the slot, least significant byte first, one of 4 bytes the addressed half. A read of TB_TIME_LO captures the time, and one of
CAM_FSTAT0 the statistics of the last finished frame, for the reading port; each shows its part of what it captured. -/
def Obligations.RejectedAccessesAndCapturingReads : Prop :=
  (∀ v : Word, (slotBytes v).length = 8 ∧ leNat (slotBytes v) = v.toNat) ∧
  (∀ (a : BitVec 19) (s : State), s.live →
     let noted (k : Nat) (t : State) : State := (((t.bump F.GLB_BAD_ACCESS_CNT_COUNT).setFld F.GLB_BAD_ACCESS_ADDR_VALID 1).setFld
       F.GLB_BAD_ACCESS_ADDR_KIND k).setFld F.GLB_BAD_ACCESS_ADDR_ADDR a.toNat
     (∀ n, n ≠ 8 ∨ a.toNat % 8 ≠ 0 → exec (.nonAlignedWrite a n) s = .next (finish s (noted 0 s))) ∧
     (∀ v, a.toNat % 8 = 0 → outsideBlocks a = true → exec (.outOfBlockWrite a v) s = .next (finish s (noted 1 s))) ∧
     (∀ n, (n ≠ 8 ∨ a.toNat % 8 ≠ 0) → (n ≠ 4 ∨ a.toNat % 4 ≠ 0) →
       exec (.malformedRead a n) s = .next (finish s (emit (.barData a.toNat (List.replicate n 0)) (noted 2 s)))) ∧
     (captured .host (a.toNat - a.toNat % 8) s = none →
       let slot := slotBytes (regValue (a.toNat - a.toNat % 8) s)
       (a.toNat % 8 = 0 → exec (.malformedRead a 8) s = .next (finish s (emit (.barData a.toNat slot) s)) ∧
         exec (.malformedRead a 4) s = .next (finish s (emit (.barData a.toNat (slot.take 4)) s))) ∧
       (a.toNat % 8 = 4 → exec (.malformedRead a 4) s = .next (finish s (emit (.barData a.toNat (slot.drop 4)) s)))) ∧
     (a.toNat % 8 = 0 → outsideBlocks a = true → regValue a.toNat s = 0)) ∧
  (∀ (p : Port) (s : State), s.live →
     exec (.tbTimeLoRead p) s = .next (finish s
       (emit (.barData A.TB_TIME_LO (slotBytes (BitVec.ofNat 36 (s.tb.t.toNat / 2 ^ 32 % 2 ^ 36))))
         { s with cmd := s.cmd.updPort p fun x => { x with capt := s.tb.t } })) ∧
     exec (.camFstat0Read p) s = .next (finish s (emit (.barData A.CAM_FSTAT0 (slotBytes (s.getReg A.CAM_FSTAT0)))
       { s with cmd := s.cmd.updPort p fun x => { x with fstat := [s.getReg A.CAM_FSTAT0, s.getReg A.CAM_FSTAT1, s.getReg A.CAM_FSTAT2,
                                                                   s.getReg A.CAM_FSTAT3] } })))

/-- R14, R117, R265, R385, R404, R416, R439, R525: OFFLINE_REQUEST and TB_INC store their fields; W1C_FLAG_CLEAR clears the flags written 1,
and then the hardware's occurrences of the same epoch are set, counted and recorded; CAL_TRIM_DATA writes the entry that CAL_TRIM_SEL names,
and is refused where it names none (log 59); CMD_CQ_HEAD of HOST stores PTR and allows vector 0 again (log 65); CMD_GRANT of SERVICE stores
HOST_CAL. -/
def Obligations.RowsThatStoreFields : Prop :=
  (∀ (p : Port) (c : Fin 64) (r : RegRow) (v : Word) (s : State), s.live → WriteTaken p (A.KNX_CL_CTL c.val) r v s →
    ∃ w, StoredWord r (s.getReg (A.KNX_CL_CTL c.val)) v w ∧
      exec (.offlineRequest p c v) s = .next (finish s (s.setReg (A.KNX_CL_CTL c.val) w))) ∧
  (∀ (p : Port) (r : RegRow) (v : Word) (s : State), s.live → WriteTaken p A.TB_INC r v s →
    ∃ w, StoredWord r (s.getReg A.TB_INC) v w ∧ exec (.tbIncWrite p v) s = .next (finish s (s.setReg A.TB_INC w))) ∧
  (∀ (p : Port) (a : BitVec 19) (r : RegRow) (v hw : Word) (s : State), s.live → a.toNat % 8 = 0 → WriteTaken p a.toNat r v s →
    ∃ w, StoredWord r (s.getReg a.toNat) v w ∧
      exec (.w1cFlagClear p a v hw) s = .next (finish s ((flagsIn a.toNat hw).foldl (fun s f => raise f s) (s.setReg a.toNat w)))) ∧
  (∀ (p : Port) (v : Word) (s : State), s.live → writeRight p A.CAL_TRIM_DATA s = none →
    let k := s.fld F.CAL_TRIM_SEL_KIND
    let i := s.fld F.CAL_TRIM_SEL_INDEX
    exec (.calTrimDataWrite p v) s = .next (finish s (if i < trimCount k then s.setTrim k i v else badAccess 3 A.CAL_TRIM_DATA s))) ∧
  (∀ (v : Word) (s : State), s.live →
    let w := setBits (s.getReg A.CMD_CQ_HEAD) 20 0 (wbits v 20 0)
    exec (.cmdCqHeadWrite .host v) s = .next (finish s
      (let t := s.setReg A.CMD_CQ_HEAD w
       { t with cmd := { t.cmd with v0Sent := false } }))) ∧
  (∀ (v : Word) (s : State), s.live → holds .host 1 s = false →
    ∃ w, wbits w 0 0 = wbits v 0 0 ∧ exec (.cmdGrantWrite .service v) s = .next (finish s (s.setReg A.CMD_GRANT w)))

/-- R43, R84, R113, R301, R302, R325, R416: CLEAR sets the occurrence counters of its flags, or the VALID of its record, to zero, that of
TB_EVT_CNT also those of RESTORED and TRUNC; occurrences of the same epoch are set and counted after it; the fault causes of an axis that a write
may clear are cleared. A rejected access in the epoch of a write of 1 to GLB_BAD_ACCESS_CNT.CLEAR comes after the clear: COUNT and VALID end at
1, ADDR and KIND describe it. Every other register stays, and so does everything that is no register. -/
def Obligations.ClearsClearOnlyTheirRegister : Prop :=
  (∀ (p : Port) (a : BitVec 19) (r : RegRow) (v : Word) (s : State), s.live → a.toNat % 8 = 0 → writeRight p a.toNat s = none →
    actsWhenWritten a.toNat = false → 4 ≤ faultAxis a.toNat → refusesWhole a.toNat (withTop true v) s = false →
    regRow a.toNat = some r → (∀ f ∈ r.fields, f.acc = .ro ∨ f.acc = .wo) → relationOk a.toNat (s.getReg a.toNat) s = true →
    (isCounters a.toNat = true → recordValid a.toNat = none → a.toNat ≠ A.TB_EVT_CNT →
      ∃ t, (∀ hw, exec (.counterClear p a v hw) s = .next (finish s (raiseAll (flagsIn (a.toNat - 8) hw) t))) ∧
        t.getReg a.toNat = 0 ∧ (∀ b, b ≠ a.toNat → t.getReg b = s.getReg b) ∧ t = { s with regs := t.regs }) ∧
    (∀ f, recordValid a.toNat = some f → f.lo = f.hi → f.hi < 36 →
      ∃ t, exec (.recordClear p a v) s = .next (finish s t) ∧ t.bit f = false ∧ (∀ b, b ≠ f.addr → t.getReg b = s.getReg b) ∧
        t = { s with regs := t.regs })) ∧
  (∀ (p : Port) (v : Word) (s : State), s.live → writeRight p A.TB_EVT_CNT s = none →
    ∃ t, (∀ hw, exec (.counterClear p (BitVec.ofNat 19 A.TB_EVT_CNT) v hw) s = .next (finish s
        (raiseAll (flagsIn A.TB_JNL_STATUS hw ++ flagsIn A.TB_EVT hw) t))) ∧
      t.getReg A.TB_EVT_CNT = 0 ∧ t.fld F.TB_JNL_STATUS_RESTORED_CNT = 0 ∧ t.fld F.TB_JNL_STATUS_TRUNC_CNT = 0 ∧
      (∀ b, b ≠ A.TB_EVT_CNT → b ≠ A.TB_JNL_STATUS → t.getReg b = s.getReg b) ∧ t = { s with regs := t.regs }) ∧
  (∀ (x : Fin 4) (r : RegRow) (v : Word) (s : State), s.live → regRow (A.MOT_AX_FAULT x.val) = some r →
    ∃ w, StoredWord r (s.getReg (A.MOT_AX_FAULT x.val)) (faultBits x.val v s) w ∧
      exec (.faultCauseClear .host x v) s = .next (finish s (s.setReg (A.MOT_AX_FAULT x.val) w))) ∧
  (∀ (v hw : Word) (s : State), s.live → hw.getLsbD 35 = true →
    ∃ t, exec (.counterClear .host (BitVec.ofNat 19 A.GLB_BAD_ACCESS_CNT) v hw) s = .next (finish s t) ∧
      t.fld F.GLB_BAD_ACCESS_CNT_COUNT = 1 ∧ t.fld F.GLB_BAD_ACCESS_ADDR_VALID = 1 ∧
      t.fld F.GLB_BAD_ACCESS_ADDR_ADDR = wbits hw 18 0 ∧ t.fld F.GLB_BAD_ACCESS_ADDR_KIND = wbits hw 34 33 ∧
      (∀ b, b ≠ A.GLB_BAD_ACCESS_CNT → b ≠ A.GLB_BAD_ACCESS_ADDR → t.getReg b = s.getReg b) ∧ t = { s with regs := t.regs })

/-- R42, R129, R267, R389, R417, R423, R483, R526: the registers that act when a port with the right writes them. A step of T in IDLE or JOB
waits for the next tick, and is refused, flagged and counted (log 70) in other states; GO counts a commit; clusters written 1 lose their bit
and their strikes, and those that placement takes out in the same epoch end out; the memory test begins in IDLE, is refused elsewhere, and
its end shows its results; EN = 1 starts an empty ring, EN = 0 ends the ring with a reset of HOST. No other register changes its value. -/
def Obligations.WritesThatAct : Prop :=
  (∀ (p : Port) (v : Word) (s : State), s.live → writeRight p A.TB_STEP s = none →
    ∃ t : State, (∀ b, t.getReg b = s.getReg b) ∧ t = { s with regs := t.regs } ∧
      exec (.tbStep p v) s = .next (finish s
        (if s.core = .idle ∨ s.core = .job then { t with tb := { s.tb with step := s.tb.step + 4 * v.toInt } }
         else badAccess 3 A.TB_STEP (raise F.TB_EVT_STEP_REFUSED t)))) ∧
  (∀ (p : Port) (v : Word) (s : State), s.live → writeRight p A.CAM_COMMIT s = none →
    ∃ t : State, (∀ b, t.getReg b = s.getReg b) ∧ t = { s with regs := t.regs } ∧
      exec (.go p v) s = .next (finish s { t with cal := { s.cal with commits := s.cal.commits + 1 } })) ∧
  (∀ (p : Port) (hi : Bool) (v out : Word) (s : State),
    let a := if hi then A.PLC_CL_OUT_HI else A.PLC_CL_OUT_LO
    let f := if hi then F.PLC_CL_OUT_HI_OUT else F.PLC_CL_OUT_LO_OUT
    let back (c : Nat) : Bool := decide (c / 32 = if hi then 1 else 0) && v.getLsbD (c % 32)
    s.live → writeRight p a s = none →
    ∃ t, (∀ c, c < 64 → clOut c t = (clOut c s && !back c)) ∧
      (∀ c, c < 64 → amGet (fun _ => 0) t.plc.strikes c = if back c then 0 else amGet (fun _ => 0) s.plc.strikes c) ∧
      (∀ b, b ≠ a → t.getReg b = s.getReg b) ∧
      t = { s with regs := t.regs, plc := { s.plc with strikes := t.plc.strikes } } ∧
      exec (.clusterReturn p hi v out) s = .next (finish s ((bitsSet 32 out.toNat).foldl (fun s c =>
        raise F.PLC_EVT_CL_OUT (s.setFld f (s.fld f ||| 2 ^ c))) t))) ∧
  (∀ (p : Port) (v : Word) (s : State), s.live → writeRight p A.TST_BIST s = none →
    ∃ t : State, (∀ b, t.getReg b = s.getReg b) ∧ t = { s with regs := t.regs } ∧
      exec (.bistGo p v) s = .next (finish s
        (if s.core = .idle then { t with tst := { bist := true } } else badAccess 3 A.TST_BIST s))) ∧
  (∀ (b : BitVec 4) (c : BitVec 64) (s : State), s.live →
    exec (.bistEnd b c) s = .next (finish s (if s.tst.bist then raiseIf (b != 0 || c != 0) F.TST_EVT_BIST_FAIL
      ((({ s with tst := { bist := false } }.setFld F.TST_BIST_LO_BANK b.toNat).setFld F.TST_BIST_LO_CL (c.toNat % 2 ^ 32)).setFld
        F.TST_BIST_HI_CL (c.toNat / 2 ^ 32)) else s))) ∧
  (∀ (p : Port) (r : RegRow) (v : Word) (s : State), s.live → writeRight p A.CMD_Q_CTL s = none → regRow A.CMD_Q_CTL = some r →
    (AllTaken r A.CMD_Q_CTL (withTop true v) s → ∃ w, StoredWord r (s.getReg A.CMD_Q_CTL) (withTop true v) w ∧
      exec (.ringEnable p v) s = .next (finish s
        (let t := s.setReg A.CMD_Q_CTL w
         if s.bit F.CMD_Q_CTL_EN then t
         else (((t.setFld F.CMD_SQ_TAIL_PTR 0).setFld F.CMD_SQ_HEAD_PTR 0).setFld F.CMD_CQ_TAIL_PTR 0).setFld F.CMD_CQ_HEAD_PTR 0))) ∧
    (AllTaken r A.CMD_Q_CTL (withTop false v) s → ∃ w, StoredWord r (s.getReg A.CMD_Q_CTL) (withTop false v) w ∧
      exec (.ringDisable p v) s = .next (finish s
        (let t := s.setReg A.CMD_Q_CTL w
         if s.bit F.CMD_Q_CTL_EN then resetPort .host t else t))))

/-! Ports and packets. -/

/-- R373, R384, R387, R389: a reset of a port that holds no lock drops its commands in flight, its event records and its captures, and is
flagged. The HOST link, which an entry to D3hot leaves reset, a failed ring access (counted, with EN set to 0) and a break on the SERVICE line,
which drops the bytes that have come, reset their port; a gap in a frame counts and the frame's bytes are hunted again. -/
def Obligations.PortResetsDropTheirCommands : Prop :=
  (∀ (p : Port) (s : State), holds p 0 s = false → holds p 1 s = false →
    ∃ u, resetPort p s = raise F.CMD_EVT_PORT_RESET u ∧ u.cmd.flight = s.cmd.flight.filter (·.port != p) ∧
      u.cmd.held = s.cmd.held.filter (·.port != p) ∧ (u.cmd.port p).events = [] ∧ (u.cmd.port p).capt = 0 ∧
      (p = .host → u.loads = []) ∧ u.core = s.core ∧ u.regs = s.regs ∧ u.jnl = s.jnl) ∧
  (∀ s : State, s.live →
    (∀ d3 : Bool, exec (.hostLinkReset d3) s = .next (finish s (resetPort .host { s with cmd := { s.cmd with d3 := d3 } }))) ∧
    (s.bit F.CMD_Q_CTL_EN = true → exec .ringAccessFault s = .next (finish s (resetPort .host (raise F.CMD_EVT_FRAME_ERR
      ((s.setFld F.CMD_Q_CTL_EN 0).bump (F.CMD_PORT_ERR_FRAME_ERR 0)))))) ∧
    (s.cmd.uart = true →
      let empty (t : State) : State := { t with cmd := { t.cmd with rx := [] } }
      let counted := raise F.CMD_EVT_FRAME_ERR (s.bump (F.CMD_PORT_ERR_FRAME_ERR 1))
      exec .lineBreak s = .next (finish s (empty (resetPort .service s))) ∧
      (s.cmd.rx = [] → exec .serviceByteGap s = .next (finish s counted)) ∧
      (∀ b : List Byte, s.cmd.rx = 0x7E :: b → 0x7E ∉ b → b.length < 9 →
        exec .serviceByteGap s = .next (finish s (empty counted)))))

/-- R377, R381 to R383, R386, R387, R393: with a whole packet waiting in the submission ring, room for its reply and fewer than 960 commands in
flight, HOST_REQUEST_TAKE reads the packet's groups from their places in the ring, advances CMD_SQ_HEAD by them and takes the request, which
does what the command that it spells does; else it changes nothing. The bytes of a whole SERVICE frame do the same; one whose CRC is wrong is
counted, and one that has not all come is kept. NVM_STORE, whose row gives a reading of the hold-up sense, is taken, but its row is not compared
with it here. -/
def Obligations.PacketsActAsTheirCommands : Prop :=
  (∀ (ring : List Byte) (s : State), s.live →
    let k := s.fld F.CMD_Q_CTL_SQ_LOG2
    let p := s.fld F.CMD_SQ_HEAD_PTR
    let h := nth 0 (ringWords ring k p 1) 0
    let n := packetGroups (wbits h 17 6)
    let r := packetReq .host h ((ringWords ring k p n).drop 1)
    let t := (emit (.hostRead ((List.range n).map fun i => sqBase s + 9 * ((p + i) % 2 ^ k))) s).setFld F.CMD_SQ_HEAD_PTR ((p + n) % 2 ^ 21)
    let may := portUp .host s = true ∧ n ≤ ringWaiting s ∧ ringRoom r s = true ∧ (flightsOf .host s).length < 960
    (may → exec (.hostRequestTake ring) s = .next (finish s (takeReq dispatchOp r t)) ∧
      ∀ c, requestOf c = some r → wbits h 35 28 ≠ 0x42 → ∃ u, exec c t = .next (finish t u) ∧
        exec (.hostRequestTake ring) s = .next (finish s u)) ∧
    (¬may → exec (.hostRequestTake ring) s = .next (finish s s))) ∧
  (∀ (bytes : List Byte) (s : State), s.live →
    let rx (b : List Byte) (t : State) : State := { t with cmd := { t.cmd with rx := b } }
    (s.cmd.uart = false → exec (.serviceFrame bytes) s = .next (finish s s)) ∧
    (s.cmd.uart = true →
      (∀ (h : Word) (w : List Word) (b crc : List Byte), s.cmd.rx ++ bytes = 0x7E :: (b ++ crc) → wordsOf b = h :: w →
        b.length = 9 * packetGroups (wbits h 17 6) → crc.length = 4 →
        (leNat crc = (crc32c b).toNat →
          exec (.serviceFrame bytes) s = .next (finish s (rx [] (takeReq dispatchOp (packetReq .service h w) s))) ∧
          ∀ c, requestOf c = some (packetReq .service h w) → wbits h 35 28 ≠ 0x42 →
            ∃ u, exec c s = .next (finish s u) ∧ exec (.serviceFrame bytes) s = .next (finish s (rx [] u))) ∧
        (leNat crc ≠ (crc32c b).toNat → 0x7E ∉ b ++ crc → exec (.serviceFrame bytes) s = .next (finish s
          (rx [] (raise F.CMD_EVT_FRAME_ERR (s.bump (F.CMD_PORT_ERR_FRAME_ERR 1))))))) ∧
      (∀ b : List Byte, s.cmd.rx ++ bytes = 0x7E :: b → b.length < 9 →
        exec (.serviceFrame bytes) s = .next (finish s (rx (0x7E :: b) s)))))

/-! Tiles and proof blocks. -/

/-- R79, R97, R99 to R104, R112, R115, R117, R122, R123, R125, R130: a tile goes to the cluster with the earliest predicted finish and takes a
kneader, whose reads of the figure list are posted, and its expansion and its area check each leave their sum, in the epoch of an abort too;
OFFLINE takes effect on an idle cluster; the rate is measured from the crossings of 64 us in expansion. -/
def Obligations.TilesAreDispatchedAndExpanded : Prop :=
  (∀ (t : Tile) (c : Nat) (s : State), s.live → nextDispatch s = some t → chooseCluster t.est (t.firstTry.map (·.1)) s = some c →
    exec .tileDispatch s = .next (finish s (updTile t (fun t => { t with stage := .queued, cluster := c }) s))) ∧
  (∀ (c : Fin 64) (t : Tile) (k : Nat) (s : State), s.live →
    s.plc.tiles.find? (fun t => t.stage == .queued && t.cluster == c.val) = some t →
    ((List.range 16).map fun i => 16 * c.val + i).find? (fun k => kneaderFree k s) = some k →
    let u := if s.plc.tiles.any fun t => t.cluster == c.val && t.stage == .taken && t.ksum.isNone then s
      else { s with plc := { s.plc with mark := amPut (fun _ => 0) s.plc.mark c.val (s.fld (F.KNX_CL_CROSS_CROSSINGS c.val)) } }
    exec (.kneaderTake c) s = .next (finish s (post (listReads t s) (updTile t (fun t => { t with
      stage := .taken, attempts := t.attempts + 1, kneader := some k, area := some k, words := [], ksum := none, asum := none }) u)))) ∧
  (∀ (k : Fin 1024) (r : UnitEnd) (t : Tile) (s : State), s.live → t.asum = none →
    s.plc.tiles.find? (fun t => t.kneader == some k.val && t.stage == .taken && t.ksum.isNone) = some t →
    tileOf t.ord t.row t.col s = some t →
    let covers := tileCovers t.figs
    let d := tileDoses (tileTables t s).1 (tileTables t s).2 t.col covers
    let sat := d.countP fun x => decide (4095 < x)
    let u := updTile t (fun t => { t with words := doseWordsOf (d.map fun x => min x 4095),
                                          ksum := some ((kneaderSum covers : Int) + r.err).toNat }) s
    let v := u.setFld (F.KNX_CL_TILES_COUNT t.cluster) (u.fld (F.KNX_CL_TILES_COUNT t.cluster) + 1)
    exec (.expansionDone k r) s = .next (finish s (raiseIf (decide (0 < sat)) (F.KNX_CL_EVT_DOSE_SAT t.cluster)
      (v.setFld (F.KNX_CL_SAT_CNT_PIXELS t.cluster) (v.fld (F.KNX_CL_SAT_CNT_PIXELS t.cluster) + sat))))) ∧
  (∀ (c : Fin 64) (r : UnitEnd) (t : Tile) (s : State), s.live → t.ksum = none →
    s.plc.tiles.find? (fun t => t.cluster == c.val && t.stage == .taken && t.asum.isNone) = some t →
    tileOf t.ord t.row t.col s = some t →
    let u := updTile t (fun t => { t with asum := some (checkerSum t.figs + r.err, partialCount t.figs) }) s
    exec (.areaCheckDone c r) s = .next (finish s
      (u.setFld (F.KNX_CL_CROSS_CROSSINGS c.val) (u.fld (F.KNX_CL_CROSS_CROSSINGS c.val) + crossings t.figs)))) ∧
  (∀ (c : Fin 64) (s : State), s.live → (∀ t ∈ s.plc.tiles, t.cluster = c.val → t.inFlight = false) →
    exec (.clusterOfflineBoundary c) s = .next (finish s (s.activateFld (F.KNX_CL_CTL_OFFLINE c.val)))) ∧
  (∀ (c : Fin 64) (s : State), s.live →
    let x := s.fld (F.KNX_CL_CROSS_CROSSINGS c.val)
    let r := max 1 ((x + 2 ^ 36 - amGet (fun _ => 0) s.plc.mark c.val) % 2 ^ 36 / 64)
    exec (.rateMeasure c) s = .next (finish s
      (if s.plc.tiles.any fun t => t.cluster == c.val && t.stage == .taken && t.ksum.isNone then { s with plc := { s.plc with
        rate := amPut (fun _ => 800) s.plc.rate c.val r, mark := amPut (fun _ => 0) s.plc.mark c.val x } } else s)))

/-- R131, R132, R140 to R144, R151, R153, R162, R165 to R167, R171, R172, R176 to R180: a passed tile starts its free compressor, takes pages in
rotation and posts their writes, completes when they are acknowledged, and commits; the youngest timed waiter is aborted by the wait watchdog.
The lowest free filler reads the blocks of the next ready row, writes it into the window and advances the front; a rebuild whose row is
readable goes before it and writes its segment anew. -/
def Obligations.ProofBlocksFillTheWindow : Prop :=
  (∀ (c : Fin 64) (t : Tile) (s : State), s.live →
    s.plc.tiles.find? (fun t => t.cluster == c.val && canCompress t s) = some t → compressorFree c.val s = true → t.col = 0 →
    exec (.compressionStart c true) s = .next (finish s (updTile t (fun u => { u with
      stage := .compressing, hist := none, block := some (blockOf t none s) }) s))) ∧
  (∀ (t : Tile) (b : Block) (s : State), s.live → t.block = some b → mayTakePage t s = true →
    let b' : Block := { b with pages := b.pages ++ [(nextPc s, freePage (nextPc s) s)] }
    let u := post (pageWrites t b') (updTile t (fun x => { x with stage := .compressing, block := some b' })
      { s with plc := { s.plc with lastPc := nextPc s } })
    (∀ c : Fin 64, s.plc.tiles.find? (fun t => t.cluster == c.val && t.stage == .compressing) = some t → b.pages.length < b.need →
      writesOut t s = false → ∀ n, exec (.proofPageRequest c n) s = .next (finish s u)) ∧
    (s.plc.tiles.find? (·.stage == .stopped) = some t → exec .compressorResume s = .next (finish s u))) ∧
  (∀ (k : Fin 1024) (t : Tile) (b : Block) (s : State), s.live →
    s.plc.tiles.find? (fun t => t.kneader == some k.val && t.stage == .written) = some t → t.block = some b → writesOut t s = false →
    b.ctr.level = 0 →
    exec (.tileComplete [k]) s = .next (finish s (settleTiles (updTile t (fun x => { x with
      stage := .completed, words := if x.area.isSome then x.words else [] }) s)))) ∧
  (∀ (t : Tile) (s : State), s.live → 25 < freePages s → (s.plc.tiles.filter fun t => timedWait t s).getLast? = some t → t.stage = .queued →
    exec .waitWatchdogExpire s = .next (finish s (raise F.PLC_EVT_WDOG (updTile t (fun t => { t with stage := .waiting }) s)))) ∧
  (∀ (next : Bool) (f : Fin 16) (l : Loaf) (forms : List (List Byte)) (s : State), s.live → s.loaves[if next then 1 else 0]? = some l →
    l.winFront < readyRow l s → windowRoom l l.winFront s = true → rebuildDue s = false → fillerFor l.ord l.winFront false s = some f.val →
    unpackRow (streamMode s) (rowTiles l.ord l.winFront s) 0 [] = .ok forms →
    let t := writeRow l.ord l.half l.winFront (forms.map wordsOf) (post (blockReads f.val false (rowTiles l.ord l.winFront s)) s)
    let segs := (List.range 256).flatMap fun dy => (List.range 8).flatMap fun sub => segAccess 1 l.ord l.half (256 * l.winFront + dy) sub t
    exec (.windowFillRow f next) s = .next (finish s (setHold f.val none (updLoaf l.ord (fun x => { x with winFront := l.winFront + 1 })
      (post segs (t.setFld (winFrontFld l.half) (l.winFront + 1))))))) ∧
  (∀ (f : Fin 16) (l : Loaf) (x : Nat × Nat × Nat) (forms : List (List Byte)) (s : State), s.live →
    s.prf.rebuilds.find? (fun x => rebuildStep s x != .wait) = some x → rebuildStep s x = .serve → loafOf x.1 s = some l →
    fillerFor x.1 (x.2.1 / 256) true s = some f.val → unpackRow (streamMode s) (rowTiles x.1 (x.2.1 / 256) s) 0 [] = .ok forms →
    let t := post (blockReads f.val true (rowTiles x.1 (x.2.1 / 256) s)) s
    let u := writeSeg x.1 l.half x.2.1 x.2.2 (subRow (forms.map wordsOf) x.2.1 x.2.2)
      { t with prf := { t.prf with rebuilds := removeFirst (· == x) t.prf.rebuilds } }
    exec (.segmentRebuild f) s = .next (finish s (setHold f.val none (post (segAccess 1 x.1 l.half x.2.1 x.2.2 u) u))))

/-- R177 to R179: a window segment reads back as it was written, and passes its check, whatever stood there before. -/
def Obligations.SegmentsReadBackAsWritten : Prop :=
  ∀ (ord half y sub : Nat) (d : List Nat) (s : State), sub < 8 → d.length = 1024 → (∀ x ∈ d, x < 4096) →
    readSeg ord half y sub (writeSeg ord half y sub d s) = (d, true)

/-! The slicer. -/

/-- R232: the shares of the live beams of a pass group add up to the dose to be split, and no two of them differ by more than one. -/
def Obligations.SharesAddUpToTheDose : Prop :=
  ∀ t n x y : Nat, 0 < n →
    ((List.range n).map (splitShare t n x y)).sum = t ∧
    ∀ i j, i < n → j < n → splitShare t n x y i ≤ splitShare t n x y j + 1

/-- R228, R229: with 8, 16 or 32 active lanes, each beam index j of a lane names a beam of the configuration that belongs to that lane, and
the index of that beam on its lane is j. -/
def Obligations.BeamOrderIsOneToOne : Prop :=
  ∀ nl lam j : Nat, nl = 8 ∨ nl = 16 ∨ nl = 32 → lam < nl → j < 16384 →
    let b := beamOf nl lam j
    b.1 < 16 * nl ∧ b.2 < 1024 ∧ laneOfBeam nl b.1 b.2 = lam ∧ beamJ nl b.1 b.2 = j

/-- R225 to R262, R276, R278, R279, R281, R284, R295: a due build makes the next slice; a waiting slice starts in its lead window; one that
cannot, and that no cancel covers, is journaled BLANKED and flagged; at its launch time what is left of a slice has been sent, its launch is
noted and its crossing awaited; one without a crossing by the sample instant that WINDOW_NS gives is displaced. -/
def Obligations.SlicesAreBuiltAndLaunched : Prop :=
  (∀ (r : Run) (l : Loaf) (s : State), s.live → s.lch.run = some r → s.loaves.head? = some l → buildDue r s = true →
    s.slc.next < r.last →
    exec .sliceBuild s = .next (finish s (blockedEnd (buildSlice r l s)))) ∧
  (∀ (k : Fin 32) (r : Run) (x : Slice) (s : State), s.live → s.lch.run = some r → waitingOn k.val s = some x → mayStart s = true →
    physOf k.val s ≠ 0xF → tooClose x s = false → x.l ≤ s.quarter + 160000 →
    s.quarter + sendQuarters (k.val / 8) x k.val s + 24000 ≤ x.l →
    exec (.laneSliceStart k) s = .next (finish s (sendSlice r x k.val s))) ∧
  (∀ (k : Fin 32) (r : Run) (x : Slice) (s : State), s.live → s.lch.run = some r → waitingOn k.val s = some x → pairStandby s = false →
    (∀ c, s.lch.cancel = some c → x.n < c.first) → x.l < s.quarter + sendQuarters (k.val / 8) x k.val s + 24000 →
    exec (.notReady k) s = .next (finish s (slowRequest (raise F.TB_EVT_NOT_READY
      (recordRange (rangeRec kBlanked 1 r x.n x.n (2 ^ k.val)) (updSlice x.n (·.setLane k.val .blanked) s)))))) ∧
  (∀ (r : Run) (x : Slice) (l : List Slice) (s : State), s.live → s.lch.run = some r → s.lch.slices = x :: l → x.l ≤ s.quarter →
    (∀ c, s.lch.cancel = some c → x.n < c.first) → x.overspeed = false → (x.lanes.any fun e => e.2 == .sent) = true → x.tc = none →
    let t := (flushSlice x.n s).setFld F.TB_LAUNCH_STATUS_LAUNCHED x.n
    exec .sliceLaunch s = .next (finish s (disposeTo (x.n + 1) { t with lch := { t.lch with
      slices := l, run := some { r with reached := some (x.n, x.l), prevL := some x.l },
      crossings := t.lch.crossings ++ [{ n := x.n, l := x.l, pos := x.pos, displaced := false }] } }))) ∧
  (∀ (c : Crossing) (s : State), s.live → s.lch.crossings.find? (fun c => !c.displaced) = some c →
    let q := c.l + 4 * s.act F.TB_LAUNCH_CTL_WINDOW_NS
    ((∃ p t, s.lch.word = some (p, t) ∧ q ≤ t) ∨ q + s.fld F.TB_POS_LAT_LAT_Q + 200 ≤ s.quarter →
      exec .crossingTimeout s = .next (finish s (beginCancel (raise F.TB_EVT_DISPLACED { s with lch := { s.lch with
        crossings := updateFirst (·.n == c.n) (fun c => { c with displaced := true }) s.lch.crossings } })))) ∧
    ((∀ p t, s.lch.word = some (p, t) → t < q) → s.quarter < q + s.fld F.TB_POS_LAT_LAT_Q + 200 →
      exec .crossingTimeout s = .next (finish s s)))

/-- R274, R304, R305, R307, R350, R513: a frame whose VALID or parity is wrong changes nothing; a sound one of the channel that is not
primary is noted; the loss of the primary channel takes the axis's reference and faults it; TIME goes on a physical lane that carries an active
lane, LANE_ID on one that transmits, with the active lane that it carries, or CARRY = 0 and none (log 81); a setpoint frame gives the planned
state of every axis. -/
def Obligations.PositionsAndLaneBlocks : Prop :=
  (∀ (a : Fin 4) (e : Bool) (f : BitVec 40) (q : Nat) (s : State), s.live →
    (frameValid f = false → exec (.positionWord a e f q) s = .next (finish s s)) ∧
    (frameValid f = true → e ≠ s.bit (F.MOT_AX_CTL_PRIMARY a.val) →
      let raw := some (sext 36 (f.toNat / 4 % 2 ^ 36))
      exec (.positionWord a e f q) s = .next (finish s (s.updAxis a.val fun x => { x with
        enc := if e then raw else x.enc, ifm := if e then x.ifm else raw })))) ∧
  (∀ (a : Fin 4) (s : State), s.live → s.bit (F.MOT_AX_FAULT_POS_LOST a.val) = false → s.mot.home = none → s.mot.arm = none →
    s.core = .idle ∨ s.core = .job →
    exec (.posLost a) s = .next (finish s (raise F.MOT_EVT_FAULT (stopMoves (· == a.val) (raise (F.MOT_AX_FAULT_POS_LOST a.val)
      (s.updAxis a.val fun x => { x with alive := false, homed := false })))))) ∧
  (∀ (g : Fin 4) (k : Fin 9) (s : State), s.live →
    ((carriedOn g.val k.val s).isSome = true →
      exec (.timeWordDue ⟨g, k⟩) s = .next (finish s (sendCtl g.val k.val (timePayload (s.quarter + s.fld (F.TB_TW_DLY_DLY_Q g.val))) s))) ∧
    (∀ m, carriedOn g.val k.val s = some m → transmits g.val k.val s = true →
      exec (.laneIdDue ⟨g, k⟩) s = .next (finish s (sendCtl g.val k.val (laneIdPayload g.val k.val (8 * g.val + m) true) s))) ∧
    (carriedOn g.val k.val s = none → transmits g.val k.val s = true → k.val < 8 →
      exec (.laneIdDue ⟨g, k⟩) s = .next (finish s (sendCtl g.val k.val (laneIdPayload g.val k.val (8 * g.val + k.val) false) s))) ∧
    (transmits g.val k.val s = false → exec (.laneIdDue ⟨g, k⟩) s = .next (finish s s))) ∧
  (∀ s : State, s.live → sendsFrames s = true →
    let k := frameTick s - 1
    let w := setpointWords k s
    exec .setpointFrameSend s = .next (finish s (emit (.setpoint k w)
      ((((s.setReg (A.MOT_AX_PLAN 0) (nth 0 w 0)).setReg (A.MOT_AX_PLAN 1) (nth 0 w 2)).setReg (A.MOT_AX_PLAN 2) (nth 0 w 4)).setReg
        (A.MOT_AX_PLAN 3) (nth 0 w 6)))))

/-- R331 to R335, R337, R338: a planner step in RUN or HOLD plans up to the new committed end, and no step plans before it; a slow request
ends; at the end of the resume approach the scan runs on from rest. -/
def Obligations.PlannerSteps : Prop :=
  (∀ (r : Run) (l : Loaf) (s : State), s.live → s.lch.run = some r → s.loaves.head? = some l → pairStandby s = false →
    s.mot.scan.state = .run ∨ s.mot.scan.state = .hold →
    exec .plannerStep s = .next (finish s (blockedEnd (ownerStep l s))) ∧
    (s.mot.scan.e < tickNs (s.ns / 10000) + 1000 * (s.fld F.MOT_CTL_HORIZON_US : Rat) →
      (ownerStep l s).mot.scan.e = tickNs (s.ns / 10000) + 1000 * (s.fld F.MOT_CTL_HORIZON_US : Rat))) ∧
  (∀ s : State, s.live → exec .slowHoldExpire s = .next (finish s
    ({ s with lch := { s.lch with slow := none } }.setFld F.TB_LAUNCH_STATUS_SLOW_REQ 0))) ∧
  (∀ (m : Mv) (s : State), s.live → (s.mot.moves.find? fun m => m.kind == .resume && !m.stopping) = some m →
    let t := endMove m s
    let h := 1000 * (s.fld F.MOT_CTL_HORIZON_US : Rat)
    let f : Phase := { t0 := tickNs (s.ns / 10000), dur := h, p0 := (t.axis 1).rest, v0 := 0, a0 := 0, j := 0 }
    let sc := { s.mot.scan with state := .run, prof := [f], e := tickNs (s.ns / 10000) + h, stopping := false, stopFrom := none,
                                  bind := 6 }
    exec .resumeApproachDone s = .next (finish s { t with mot := { t.mot with scan := sc } }))

/-- R313, R319, R320, R324, R337: a limit edge awaits its captured word; the first stable level after reset is taken as it is; a stable
level that asserts a limit outside homing is a fault; a homing that takes 120 s is aborted; a settled MOVE is flagged; a stopped MOVE rests
where it ended. -/
def Obligations.LimitsAndEndsOfMoves : Prop :=
  (∀ (a : Fin 4) (pos on : Bool) (s : State), s.live → ((s.axis a.val).limit pos).raw ≠ on →
    exec (.limitEdge a pos on) s = .next (finish s (s.updAxis a.val fun x => x.updLimit pos fun l =>
      { l with raw := on, latch := none, await := some s.quarter }))) ∧
  (∀ (a : Fin 4) (pos : Bool) (s : State), s.live → ((s.axis a.val).limit pos).settled = false →
    exec (.limitDebounce a pos) s = .next (finish s (s.updAxis a.val fun x => x.updLimit pos fun l =>
      { l with deb := l.raw, settled := true }))) ∧
  (∀ (a : Fin 4) (s : State), s.live → s.mot.home = none →
    let l := (s.axis a.val).limP
    l.settled = true → l.raw = true → l.deb = false → l.moves = [] →
    exec (.limitDebounce a true) s = .next (finish s (gainFault a.val (F.MOT_AX_FAULT_LIMIT_P a.val)
      (s.updAxis a.val fun x => { x with limP := { x.limP with deb := true, moves := [s.tb.ticks] } })))) ∧
  (∀ (h : Homing) (s : State), s.live → s.mot.home = some h → h.aborting = false → h.step = 2 →
    exec .homingTimeout s = .next (finish s (abortHome s))) ∧
  (∀ (m : Mv) (s : State), s.live → s.mot.moves.find? (settled s) = some m → m.kind = .plain →
    exec .moveSettled s = .next (finish s (raise F.MOT_EVT_MOVE_DONE (endMove m s)))) ∧
  (∀ (m : Mv) (s : State), s.live → s.mot.moves = [m] → m.stopping = true → m.kind = .plain → s.mot.scan.stopping = false →
    exec .stopEnd s = .next (finish s (endMove m s)))

/-! Clock. -/

/-- R265 to R273, R374, R375: a Sync of the slave port from its master is measured against the last Delay_Req: with a whole number of quarter ns
for the mean path delay and the offset the servo takes them; Announce chooses the best of all masters heard; a Delay_Req leaves with its egress
stamp kept, none without a MAC address; HOLDOVER clears LOCKED; the transparent clock forwards a frame with at most one VLAN tag with the
residence time; block lock is followed. -/
def Obligations.ClockMessages : Prop :=
  (∀ (m : SyncMsg) (a : AnnounceMsg) (req : Nat) (s : State), s.live → servesPtp m.domain m.udp s = true →
    m.port.val = s.fld F.TB_PTP_STATUS_PORT → s.fld F.TB_PTP_STATUS_STATE ≠ 0 → bestMaster s = some (m.port.val, a) →
    a.identity = m.identity → s.tb.reqStamp = some req →
    exec (.sync m) s = .next (finish s (measureSync m req s)) ∧
    (∀ o d : Int,
      let t2 : Rat := (m.ingress : Rat) - (s.fld (F.TB_TS_TRIM_RX_Q m.port.val) : Rat)
      (d : Rat) = ((t2 - req) + (4 * m.received - 4 * m.origin) - m.correction / 16384 - m.respCorrection / 16384) / 2 →
      (o : Rat) = t2 - 4 * m.origin - d - m.correction / 16384 →
      exec (.sync m) s = .next (finish s (takeSync o d s)))) ∧
  (∀ (k : Fin 2) (m : AnnounceMsg) (s : State), s.live → servesPtp m.domain m.udp s = true →
    exec (.announce k m) s = .next (finish s (chooseMaster (bestMaster s) { s with tb := { s.tb with
      masters := s.tb.masters.filter (fun x => !(x.1 == k.val && x.2.identity == m.identity)) ++ [(k.val, m)] } }))) ∧
  (∀ s : State, s.live → s.bit F.TB_CTL_PTP_EN = true →
    let p := s.fld F.TB_PTP_STATUS_PORT
    (s.fld F.TB_PTP_STATUS_STATE ≠ 0 → exec .delayReqSend s = .next (finish s (if ethHasMac p s then emit (.delayReq p)
      { s with tb := { s.tb with reqStamp := some ((s.quarter : Int) + s.fld (F.TB_TS_TRIM_TX_Q p)).toNat } } else s))) ∧
    (s.fld F.TB_PTP_STATUS_STATE = 1 ∨ s.fld F.TB_PTP_STATUS_STATE = 2 → exec .holdover s = .next (finish s
      (let t := (s.setFld F.TB_PTP_STATUS_STATE 3).setFld F.TB_PTP_STATUS_LOCKED 0
       checkElig (raise F.TB_EVT_HOLDOVER { t with tb := { t.tb with goodSyncs := 0 } }))))) ∧
  (∀ (k : Fin 2) (f : EthFrame) (i e : Nat) (s : State), s.live →
    (f.fcsOk = false → exec (.transparentClockForward k f i e) s = .next (finish s (s.bump (F.LNK_ETH_STATUS_FCS_ERR k.val)))) ∧
    (f.fcsOk = true → s.bit F.TB_CTL_TC_EN = true →
      let stay : Int := ((e : Int) + s.fld (F.TB_TS_TRIM_TX_Q (1 - k.val))) - ((i : Int) - s.fld (F.TB_TS_TRIM_RX_Q k.val))
      exec (.transparentClockForward k f i e) s = .next (finish s (if f.bytes.length ≤ 1522 ∧ vlanTags 2 (f.bytes.drop 12) ≤ 1 then
        emit (.ethForward (1 - k.val) (if f.event then f.correction + stay * 2 ^ 14 else f.correction)
          (if f.event && f.udp then 0 else f.checksum) f.bytes) s else s)))) ∧
  (∀ (k : Fin 2) (s : State), s.live → s.lnk.eth = 0 →
    exec (.timingPortBlockLock k true) s = .next (finish s { s with lnk := { s.lnk with eth := 2 ^ k.val } }) ∧
    exec (.timingPortBlockLock k false) s = .next (finish s s))

/-! Test access port. -/

/-- R520 to R522: EXTEST, CLAMP, HIGHZ, EXTEST_PULSE and EXTEST_TRAIN hold the device in reset as RESET_N does; SAMPLE/PRELOAD, IDCODE,
BYPASS and Test-Logic-Reset, which selects IDCODE, only select their instruction. -/
def Obligations.TestInstructionsHoldOrSelect : Prop :=
  ∀ s : State,
    (∀ c i, (c = .extest ∧ i = .extest ∨ c = .jtagClamp ∧ i = .clamp ∨ c = .highz ∧ i = .highz ∨ c = .extestPulse ∧ i = .extestPulse ∨
        c = .extestTrain ∧ i = .extestTrain) →
      (s.live → ∃ t, exec c s = .next t ∧ t.tap = i ∧ heldInReset t = true ∧ t.core = .boot ∧ t.cmd = State.reset.cmd ∧
        t.nvm.flash = (tearFlash s).nvm.flash ∧ t.pins.resetN = s.pins.resetN ∧ t.pins.safeBlank = .undriven ∧ t.pins.ownN = .undriven) ∧
      (heldInReset s = true → exec c s = .next (finish s { s with tap := i }))) ∧
    exec .samplePreload s = .next (finish s { s with tap := .sample }) ∧ exec .idcode s = .next (finish s { s with tap := .idcode }) ∧
    exec .bypass s = .next (finish s { s with tap := .bypass }) ∧ exec .testLogicReset s = .next (finish s { s with tap := .idcode })

/-! The block as a whole. -/

/-- A step carries out the command at the front of the queue with the queue's rest. -/
def Obligations.StepRunsTheFrontCommand : Prop :=
  ∀ (c : Instr) (r : List Instr) (s : State), s.pending = c :: r → step s = exec c { s with pending := r }

/-- A command that answers a next state leaves the queue as it was given it, and counts one epoch. -/
def Obligations.CommandsKeepTheQueue : Prop :=
  ∀ (c : Instr) (s t : State), exec c s = .next t → t.pending = s.pending ∧ t.epoch = s.epoch + 1

/-- No command that can be sent stops the run (R184, R188: a transaction that does not exist is not well-formed). -/
def Obligations.CommandsAnswerANextState : Prop :=
  ∀ (c : Instr) (s : State), c.wellFormed = true → ∃ t, exec c s = .next t

/-- R480, R522: while the device is held in reset, no command acts but those of RESET_N, power, the boot, the pins and the test access
port. -/
def Obligations.HeldInResetNothingActs : Prop :=
  ∀ (c : Instr) (s : State), heldInReset s = true → c.wellFormed = true → ¬WatchesPins c → exec c s = .next (finish s s)

/-- R264 to R267, R34: on an empty queue a tick of 2.5 ns passes (log 1: the model's choice): T advances by INC, and by a step that waits,
and the tick is counted; a device held in reset does not tick. -/
def Obligations.TheClockTicksOnAnEmptyQueue : Prop :=
  ∀ s : State, s.pending = [] →
    (heldInReset s = true → step s = .next (finish s s)) ∧
    (s.live → s.tb.step = 0 → s.cal.waiting = [] → s.cmd.held = [] →
      step s = .next (finish s { s with tb := { s.tb with
        t := BitVec.ofInt 96 ((s.tb.t.toNat : Int) + s.fld F.TB_INC_INC), ticks := s.tb.ticks + 1, inc := s.fld F.TB_INC_INC } }))

/-- R422, R452, R480, R487: after every step the output pins stand as the rules drive them: SAFE_BLANK, OWN_N and CAM_TRIG are undriven in
reset and until the boot drives them, SAFE_BLANK is asserted in SAFE and RECOVERY, OWN_N follows the token, CAM_TRIG the capture. -/
def Obligations.PinsFollowAfterEveryStep : Prop := ∀ s t : State, step s = .next t → t.pinsFollow

/-- R480, R482, R487: while SAFE_BLANK is deasserted after a step, the device is out of reset and in IDLE, JOB, ARMED or EXPOSING. -/
def Obligations.OpenBeamOnlyInWorkingStates : Prop :=
  ∀ s t : State, step s = .next t → t.pins.safeBlank = .deasserted →
    t.live ∧ (t.core = .idle ∨ t.core = .job ∨ t.core = .armed ∨ t.core = .exposing)

/-- R13, R41, R264, R480, R487, R501: right after reset every register reads its reset value, T is 0, CORE_STATE is BOOT, no lock is held,
no event waits, the queue is empty, the pins are undriven, and the stores stand in their canonical form. -/
def Obligations.ResetState : Prop :=
  (∀ a, State.reset.getReg a = resetWord a) ∧ State.reset.tb.t = 0 ∧ State.reset.core = .boot ∧ State.reset.cmd.exp = none ∧
    State.reset.cmd.cal = none ∧ (∀ p, (State.reset.cmd.port p).events = []) ∧ State.reset.pending = [] ∧ State.reset.pinsFollow ∧
    State.reset.pins.safeBlank = .undriven ∧ Memory.wf State.reset
end

