-- ==== Sys2Proof/Laws/Bits.lean ====
section
/-!
SUPPORT. The laws of fields within a word (R6): a field read after a write, and the fields a write leaves alone.
-/
namespace Sys2Proof.Machine

theorem bitsOf_testBit (n hi lo i : Nat) : (bitsOf n hi lo).testBit i = (decide (i < hi + 1 - lo) && n.testBit (lo + i)) := by
  rw [bitsOf, Nat.testBit_mod_two_pow, Nat.testBit_div_two_pow, Nat.add_comm i lo]

/-- The number with a field replaced, bit by bit. -/
theorem replace_testBit (n lo w v i : Nat) :
    (n - n / 2 ^ lo % 2 ^ w * 2 ^ lo + v % 2 ^ w * 2 ^ lo).testBit i =
      if lo ≤ i ∧ i < lo + w then v.testBit (i - lo) else n.testBit i := by
  have h1 : n = 2 ^ lo * (2 ^ w * (n / 2 ^ lo / 2 ^ w) + n / 2 ^ lo % 2 ^ w) + n % 2 ^ lo := by
    rw [Nat.div_add_mod, Nat.div_add_mod]
  have e : n - n / 2 ^ lo % 2 ^ w * 2 ^ lo + v % 2 ^ w * 2 ^ lo =
      2 ^ lo * (2 ^ w * (n / 2 ^ lo / 2 ^ w) + v % 2 ^ w) + n % 2 ^ lo := by
    have h2 : n = 2 ^ lo * (2 ^ w * (n / 2 ^ lo / 2 ^ w)) + n / 2 ^ lo % 2 ^ w * 2 ^ lo + n % 2 ^ lo := by
      conv => lhs; rw [h1]
      rw [Nat.mul_add]; simp only [Nat.mul_comm]
    rw [Nat.mul_add]
    have : 2 ^ lo * (v % 2 ^ w) = v % 2 ^ w * 2 ^ lo := Nat.mul_comm _ _
    omega
  rw [e, Nat.testBit_two_pow_mul_add _ (Nat.mod_lt _ (Nat.two_pow_pos lo)), Nat.testBit_mod_two_pow]
  by_cases hi : i < lo
  · have : ¬ lo ≤ i := by omega
    simp [hi, this]
  · have hl : lo ≤ i := by omega
    rw [if_neg hi, Nat.testBit_two_pow_mul_add _ (Nat.mod_lt _ (Nat.two_pow_pos w)), Nat.testBit_mod_two_pow]
    by_cases hw : i - lo < w
    · have : i < lo + w := by omega
      simp [hw, hl, this]
    · have h3 : ¬ i < lo + w := by omega
      rw [if_neg hw, if_neg (by omega), Nat.testBit_div_two_pow, Nat.testBit_div_two_pow]
      congr 1; omega

theorem setBits_testBit (w : Word) (hi lo v i : Nat) (h : lo ≤ hi) :
    (setBits w hi lo v).toNat.testBit i =
      (decide (i < 36) && if lo ≤ i ∧ i ≤ hi then v.testBit (i - lo) else w.toNat.testBit i) := by
  have e := replace_testBit w.toNat lo (hi + 1 - lo) v i
  have hc : (lo ≤ i ∧ i < lo + (hi + 1 - lo)) ↔ (lo ≤ i ∧ i ≤ hi) := by omega
  rw [setBits, BitVec.toNat_ofNat, Nat.testBit_mod_two_pow]
  simp only [bitsOf]
  rw [e]; simp only [hc]

/-- A field reads as it was written. -/
theorem wbits_setBits_same (w : Word) (hi lo v : Nat) (h : lo ≤ hi) (h36 : hi < 36) :
    wbits (setBits w hi lo v) hi lo = v % 2 ^ (hi + 1 - lo) := by
  refine Nat.eq_of_testBit_eq fun i => ?_
  rw [wbits, bitsOf_testBit, setBits_testBit _ _ _ _ _ h, Nat.testBit_mod_two_pow]
  by_cases hi' : i < hi + 1 - lo
  · have h1 : lo + i < 36 := by omega
    have h2 : lo ≤ lo + i ∧ lo + i ≤ hi := by omega
    simp [hi', h1, h2]
  · simp [hi']

/-- A write leaves the fields beside it alone. -/
theorem wbits_setBits_other (w : Word) {hi lo v hi' lo' : Nat} (h : lo ≤ hi) (d : hi < lo' ∨ hi' < lo) :
    wbits (setBits w hi lo v) hi' lo' = wbits w hi' lo' := by
  refine Nat.eq_of_testBit_eq fun i => ?_
  rw [wbits, wbits, bitsOf_testBit, bitsOf_testBit, setBits_testBit _ _ _ _ _ h]
  by_cases hi' : i < hi' + 1 - lo'
  · have hn : ¬(lo ≤ lo' + i ∧ lo' + i ≤ hi) := by omega
    by_cases h36 : lo' + i < 36
    · simp [hi', hn, h36]
    · have : w.toNat.testBit (lo' + i) = false :=
        Nat.testBit_lt_two_pow (Nat.lt_of_lt_of_le w.isLt (Nat.pow_le_pow_right (by omega) (by omega)))
      simp [this, hn]
  · simp [hi']

end Sys2Proof.Machine
end

