-- ==== Sys2Proof/Laws/Blocks.lean ====
section
/-!
SUPPORT. A proof block coded at LEVEL 0 unpacks to the byte form that it was made from (R155, R158, R171).
-/
namespace Sys2Proof.Machine

theorem bits_of_byte_natOfBits (b : Byte) : BitVec.ofNat 8 (natOfBits ((List.range 8).map b.getLsbD)) = b := by
  revert b; decide

theorem bits_of_eight (a b c d e f g h : Bool) :
    (List.range 8).map (BitVec.ofNat 8 (natOfBits [a, b, c, d, e, f, g, h])).getLsbD = [a, b, c, d, e, f, g, h] := by
  revert a b c d e f g h; decide

/-- Whole bytes of bits come back as they were. -/
theorem bitsOfBytes_bytesOfBits (k : Nat) : ∀ (fuel : Nat) (l : List Bool), l.length = 8 * k → k < fuel →
    bitsOfBytes (bytesOfBits fuel l) = l ∧ (bytesOfBits fuel l).length = k := by
  induction k with
  | zero =>
    intro fuel l hl hf
    obtain ⟨n, rfl⟩ : ∃ n, fuel = n + 1 := ⟨fuel - 1, by omega⟩
    obtain rfl : l = [] := List.length_eq_zero_iff.mp (by omega)
    exact ⟨rfl, rfl⟩
  | succ k ih =>
    intro fuel l hl hf
    obtain ⟨n, rfl⟩ : ∃ n, fuel = n + 1 := ⟨fuel - 1, by omega⟩
    match l, hl with
    | a :: b :: c :: d :: e' :: f :: g :: h :: r, hl =>
      have hr : r.length = 8 * k := by simp at hl; omega
      obtain ⟨h1, h2⟩ := ih n r hr (by omega)
      have e : bytesOfBits (n + 1) (a :: b :: c :: d :: e' :: f :: g :: h :: r) =
        BitVec.ofNat 8 (natOfBits [a, b, c, d, e', f, g, h]) :: bytesOfBits n r := rfl
      rw [e]
      refine ⟨?_, by simp [h2]⟩
      rw [bitsOfBytes, List.flatMap_cons, bits_of_eight]
      exact congrArg (fun t => a :: b :: c :: d :: e' :: f :: g :: h :: t) h1
    | [], hl => simp at hl
    | [_], hl => simp at hl; omega
    | [_, _], hl => simp at hl; omega
    | [_, _, _], hl => simp at hl; omega
    | [_, _, _, _], hl => simp at hl; omega
    | [_, _, _, _, _], hl => simp at hl; omega
    | [_, _, _, _, _, _], hl => simp at hl; omega
    | [_, _, _, _, _, _, _], hl => simp at hl; omega

theorem bitsOfBytes_length (b : List Byte) : (bitsOfBytes b).length = 8 * b.length := by
  induction b with
  | nil => rfl
  | cons x r ih => rw [bitsOfBytes, List.flatMap_cons, List.length_append, List.length_map]; simp only [bitsOfBytes] at ih; simp [ih]; omega

/-- Taking the bits that stand first. -/
theorem Inf.take_append (x r : List Bool) (u n : Nat) (o : List Byte) :
    Inf.take { bits := x ++ r, used := u, out := o, n := n } x.length =
      .ok (natOfBits x, { bits := r, used := u + x.length, out := o, n := n }) := by
  unfold Inf.take; simp

/-- A stored block's bytes are copied. -/
theorem Inf.stored_bytes (b : List Byte) : ∀ (r : List Bool) (u n : Nat) (o : List Byte),
    Inf.stored b.length { bits := bitsOfBytes b ++ r, used := u, out := o, n := n } =
      ({ bits := r, used := u + 8 * b.length, out := b.reverse ++ o, n := n + b.length }, none) := by
  induction b with
  | nil => intro r u n o; rfl
  | cons x t ih =>
    intro r u n o
    have e : bitsOfBytes (x :: t) ++ r = (List.range 8).map x.getLsbD ++ (bitsOfBytes t ++ r) := by
      rw [bitsOfBytes, List.flatMap_cons, List.append_assoc]; rfl
    have k := Inf.take_append ((List.range 8).map x.getLsbD) (bitsOfBytes t ++ r) u n o
    rw [List.length_map, List.length_range] at k
    rw [List.length_cons, Inf.stored, e, k]
    simp only [bits_of_byte_natOfBits]
    rw [ih]
    simp [List.append_assoc]; omega

/-- The bits of a stored block that begins at a byte. -/
theorem Inf.blocks_stored (b : List Byte) (fin : Bool) (r : List Bool) (u n fuel : Nat) (o : List Byte) (hu : u % 8 = 0)
    (hb : natOfBits (bitsLsb 16 b.length) + natOfBits (bitsLsb 16 (65535 - b.length)) = 65535)
    (hl : natOfBits (bitsLsb 16 b.length) = b.length) :
    Inf.blocks (fuel + 1) { bits := storedBlock fin 0 b ++ r, used := u, out := o, n := n } =
      (let s : Inf := { bits := r, used := u + 40 + 8 * b.length, out := b.reverse ++ o, n := n + b.length }
       if fin then (s, none) else Inf.blocks fuel s) := by
  have t1 := Inf.take_append [fin] ([false, false] ++ (List.replicate 5 false ++ (bitsLsb 16 b.length ++
    (bitsLsb 16 (65535 - b.length) ++ (bitsOfBytes b ++ r))))) u n o
  have t2 := Inf.take_append [false, false] (List.replicate 5 false ++ (bitsLsb 16 b.length ++
    (bitsLsb 16 (65535 - b.length) ++ (bitsOfBytes b ++ r)))) (u + 1) n o
  have t3 := Inf.take_append (List.replicate 5 false) (bitsLsb 16 b.length ++
    (bitsLsb 16 (65535 - b.length) ++ (bitsOfBytes b ++ r))) (u + 3) n o
  have t4 := Inf.take_append (bitsLsb 16 b.length) (bitsLsb 16 (65535 - b.length) ++ (bitsOfBytes b ++ r)) (u + 8) n o
  have t5 := Inf.take_append (bitsLsb 16 (65535 - b.length)) (bitsOfBytes b ++ r) (u + 24) n o
  have st := Inf.stored_bytes b r (u + 40) n o
  have l16 : ∀ v, (bitsLsb 16 v).length = 16 := fun v => by simp [bitsLsb]
  rw [l16] at t4 t5
  simp only [List.length_cons, List.length_nil, Nat.zero_add, List.length_replicate] at t1 t2 t3
  have e : storedBlock fin 0 b ++ r = [fin] ++ ([false, false] ++ (List.replicate 5 false ++ (bitsLsb 16 b.length ++
    (bitsLsb 16 (65535 - b.length) ++ (bitsOfBytes b ++ r))))) := by simp [storedBlock]
  have hp : (8 - (u + 1 + 2) % 8) % 8 = 5 := by omega
  have hf : natOfBits [fin] = if fin then 1 else 0 := by cases fin <;> rfl
  have hz : natOfBits [false, false] = 0 := rfl
  rw [Inf.blocks, e, t1]
  simp only [t2, hz, if_true, hp]
  simp only [Nat.add_assoc] at t2 t3 t4 t5 st ⊢
  simp only [Nat.reduceAdd] at t2 t3 t4 t5 st ⊢
  rw [hl] at hb
  simp only [bind, Except.bind, t3, t4, t5, hl, hb, if_true, st, hf]
  cases fin <;> rfl

/-- A segment of one stored block. -/
def storedSeg (b : List Byte) : List Byte := bytesOfBits (8 * (5 + b.length) + 1) (storedBlock true 0 b)

/-- A segment of one stored block is decompressed to its bytes (R45). -/
theorem inflate_storedSeg (b : List Byte)
    (hb : natOfBits (bitsLsb 16 b.length) + natOfBits (bitsLsb 16 (65535 - b.length)) = 65535)
    (hl : natOfBits (bitsLsb 16 b.length) = b.length) :
    inflate [] (storedSeg b) = { out := b, used := 8 * (5 + b.length), err := none } ∧ (storedSeg b).length = 5 + b.length := by
  have ln : (storedBlock true 0 b).length = 8 * (5 + b.length) := by simp [storedBlock, bitsLsb, bitsOfBytes_length]; omega
  obtain ⟨h1, h2⟩ := bitsOfBytes_bytesOfBits (5 + b.length) (8 * (5 + b.length) + 1) _ ln (by omega)
  refine ⟨?_, h2⟩
  have b1 := Inf.blocks_stored b true [] 0 0 (8 * (5 + b.length)) [] rfl hb hl
  rw [List.append_nil] at b1
  unfold inflate storedSeg
  simp only [h1, List.reverse_nil]
  rw [ln, b1]
  simp only [if_true, Nat.zero_add, List.append_nil, InfRes.mk.injEq]
  exact ⟨by rw [List.take_of_length_le (by rw [List.length_reverse]), List.reverse_reverse], by omega, trivial⟩

/-- R155, R158: at LEVEL 0 a byte form is coded in two stored blocks, from which it comes back. -/
theorem inflate_stored (f : List Byte) (hf : f.length = 99072) :
    inflate [] (compressBytes 0 [] f).1 = { out := f, used := 8 * 99082, err := none } ∧ (compressBytes 0 [] f).1.length = 99082 := by
  have l0 : (f.take 65535).length = 65535 := by rw [List.length_take, hf]; decide
  have l1 : (f.drop 65535).length = 33537 := by rw [List.length_drop, hf]
  have sl : ∀ fin (b : List Byte), (storedBlock fin 0 b).length = 40 + 8 * b.length := by
    intro fin b; simp [storedBlock, bitsLsb, bitsOfBytes_length]; omega
  have same : ∀ fin p (b : List Byte), p % 8 = 0 → storedBlock fin p b = storedBlock fin 0 b := by
    intro fin p b hp; unfold storedBlock; rw [show (8 - (p + 3) % 8) % 8 = (8 - (0 + 3) % 8) % 8 by omega]
  have e : compressBytes 0 [] f = (bytesOfBits ((storedBlock false 0 (f.take 65535) ++ storedBlock true 0 (f.drop 65535)).length + 1)
      (storedBlock false 0 (f.take 65535) ++ storedBlock true 0 (f.drop 65535)), 3) := by
    unfold compressBytes spanBlock
    simp only [if_true]
    rw [same true _ _ (by rw [sl, l0])]
  have ln : (storedBlock false 0 (f.take 65535) ++ storedBlock true 0 (f.drop 65535)).length = 8 * 99082 := by
    rw [List.length_append, sl, sl, l0, l1]
  obtain ⟨h1, h2⟩ := bitsOfBytes_bytesOfBits 99082 (8 * 99082 + 1) _ ln (by omega)
  rw [ln] at e
  rw [e]
  refine ⟨?_, h2⟩
  have b0 := Inf.blocks_stored (f.take 65535) false (storedBlock true 0 (f.drop 65535)) 0 0 (8 * 99082) [] rfl
    (by rw [l0]; decide) (by rw [l0]; decide)
  have b1 := Inf.blocks_stored (f.drop 65535) true [] (0 + 40 + 8 * (f.take 65535).length) (0 + (f.take 65535).length) (8 * 99082 - 1)
    ((f.take 65535).reverse ++ []) (by rw [l0]) (by rw [l1]; decide) (by rw [l1]; decide)
  have g : 8 * 99082 - 1 + 1 = 8 * 99082 := rfl
  rw [g, List.append_nil] at b1
  unfold inflate
  simp only [h1, List.reverse_nil]
  rw [ln, b0]
  simp only [if_neg Bool.false_ne_true, b1, if_true]
  have o : (f.drop 65535).reverse ++ ((f.take 65535).reverse ++ []) = f.reverse := by
    rw [List.append_nil, ← List.reverse_append, List.take_append_drop]
  rw [o, l0, l1]
  have k : (f.reverse.take 99072).reverse = f := by
    rw [List.take_of_length_le (by rw [List.length_reverse, hf]), List.reverse_reverse]
  simp [k]

/-- The container of a block coded at LEVEL 0 outside stream mode. -/
def storedCtr (row ord col : Nat) (crc : BitVec 32) : Container :=
  { magic := 0xA7
    level := 0
    stream := false
    hist := false
    col := col
    origLen := 99072
    row := row
    ord := ord
    storedMap := 3
    compLen := 99082
    crc := crc }

/-- The block of a byte form coded at LEVEL 0 outside stream mode. -/
def storedOf (f : List Byte) (row ord col : Nat) (pages : List (Nat × Nat)) : Block :=
  { ctr := storedCtr row ord col (crc32c f), data := (compressBytes 0 [] f).1, pages := pages, memBad := false }

/-- The words of a container give its fields back (R152). -/
theorem Container.ofWords_stored (row ord col : Nat) (crc : BitVec 32) (hr : row < 65536) (ho : ord < 65536) (hc : col < 32) :
    Container.ofWords (storedCtr row ord col crc).words = storedCtr row ord col crc := by
  have h := crc.isLt
  have e0 : (BitVec.ofNat 36 (167 * 2 ^ 28 + 0 * 2 ^ 24 + 0 + 0 + col * 2 ^ 17 + 99072)).toNat = 167 * 2 ^ 28 + col * 2 ^ 17 + 99072 := by
    rw [BitVec.toNat_ofNat]; omega
  have e1 : (BitVec.ofNat 36 (row * 2 ^ 20 + ord * 2 ^ 4)).toNat = row * 2 ^ 20 + ord * 2 ^ 4 := by rw [BitVec.toNat_ofNat]; omega
  have e3 : (BitVec.ofNat 36 crc.toNat).toNat = crc.toNat := by rw [BitVec.toNat_ofNat]; omega
  simp only [Container.words, Container.ofWords, storedCtr, nth, wbits, bitsOf, List.getElem?_cons_zero, List.getElem?_cons_succ, Option.getD_some,
    Bool.false_eq_true, if_false, e0, e1, e3, Container.mk.injEq]
  refine ⟨by omega, by omega, ?_, ?_, by omega, by omega, by omega, by omega, by decide, by decide, ?_⟩
  · rw [beq_eq_false_iff_ne]; omega
  · rw [beq_eq_false_iff_ne]; omega
  · refine BitVec.eq_of_toNat_eq ?_
    rw [BitVec.toNat_ofNat]; omega

/-- R171: a block made at LEVEL 0 passes every check of the filler and gives its byte form. -/
theorem unpackBlock_stored (f prev : List Byte) (pages : List (Nat × Nat)) (row ord col : Nat) (hf : f.length = 99072)
    (hr : row < 65536) (ho : ord < 65536) (hc : col < 32) :
    unpackBlock (storedOf f row ord col pages) ord row col false prev = .ok f := by
  obtain ⟨h1, h2⟩ := inflate_stored f hf
  unfold storedOf
  generalize (compressBytes 0 [] f).1 = d at h1 h2
  have h3 : d.take 99082 = d := List.take_of_length_le (Nat.le_of_eq h2)
  unfold unpackBlock
  simp only [Container.ofWords_stored row ord col _ hr ho hc]
  simp only [storedCtr, Bool.false_eq_true, if_false, h3, h1]
  simp [hf]

end Sys2Proof.Machine
end

