-- ==== Sys2Proof/Laws/Stores.lean ====
section
/-!
SUPPORT. The laws of the sparse stores: a read after a write, and the canonical form that every write keeps.
-/
namespace Sys2Proof.Machine

variable {α : Type}

@[simp] theorem amGet_nil (d : Nat → α) (k : Nat) : amGet d [] k = d k := rfl

theorem amGet_erase_same (d : Nat → α) (m : List (Nat × α)) (k : Nat) : amGet d (amErase k m) k = d k := by
  induction m with
  | nil => rfl
  | cons e r ih =>
    obtain ⟨a, v⟩ := e
    by_cases h : a = k
    · subst h; simpa [amErase] using ih
    · simpa [amErase, h, amGet] using ih

theorem amGet_erase_ne (d : Nat → α) (m : List (Nat × α)) {k j : Nat} (h : j ≠ k) : amGet d (amErase k m) j = amGet d m j := by
  induction m with
  | nil => rfl
  | cons e r ih =>
    obtain ⟨a, v⟩ := e
    by_cases ha : a = k
    · subst ha; simpa [amErase, amGet, Ne.symm h] using ih
    · by_cases hj : a = j
      · subst hj; simp [amErase, ha, amGet]
      · simpa [amErase, ha, amGet, hj] using ih

theorem amGet_insert_same (d : Nat → α) (m : List (Nat × α)) (k : Nat) (v : α) : amGet d (amInsert k v m) k = v := by
  induction m with
  | nil => simp [amInsert, amGet]
  | cons e r ih =>
    obtain ⟨a, w⟩ := e
    by_cases h : k < a
    · simp [amInsert, h, amGet]
    · by_cases h2 : k = a
      · subst h2; simp [amInsert, amGet]
      · simpa [amInsert, h, h2, amGet, Ne.symm h2] using ih

theorem amGet_insert_ne (d : Nat → α) (m : List (Nat × α)) {k j : Nat} (v : α) (h : j ≠ k) :
    amGet d (amInsert k v m) j = amGet d m j := by
  induction m with
  | nil => simp [amInsert, amGet, Ne.symm h]
  | cons e r ih =>
    obtain ⟨a, w⟩ := e
    by_cases h1 : k < a
    · simp [amInsert, h1, amGet, Ne.symm h]
    · by_cases h2 : k = a
      · subst h2; simp [amInsert, amGet, Ne.symm h]
      · by_cases h3 : a = j
        · subst h3; simp [amInsert, h1, h2, amGet]
        · simpa [amInsert, h1, h2, amGet, h3] using ih

theorem mem_insert {k : Nat} {v : α} {m : List (Nat × α)} {x : Nat × α} (h : x ∈ amInsert k v m) : x = (k, v) ∨ x ∈ m := by
  induction m with
  | nil => simpa [amInsert] using h
  | cons e r ih =>
    obtain ⟨a, w⟩ := e
    by_cases h1 : k < a
    · simpa [amInsert, h1] using h
    · by_cases h2 : k = a
      · subst h2
        simp [amInsert] at h
        rcases h with h | h
        · exact .inl h
        · exact .inr (by simp [h])
      · simp [amInsert, h1, h2] at h
        rcases h with h | h
        · exact .inr (by simp [h])
        · rcases ih h with h | h
          · exact .inl h
          · exact .inr (by simp [h])

variable [DecidableEq α]

/-- A read after a write to the same key gives the value written. -/
@[simp] theorem amGet_put_same (d : Nat → α) (m : List (Nat × α)) (k : Nat) (v : α) : amGet d (amPut d m k v) k = v := by
  by_cases h : v = d k
  · simp [amPut, h, amGet_erase_same]
  · simp [amPut, h, amGet_insert_same]

/-- A write leaves every other key alone. -/
theorem amGet_put_ne (d : Nat → α) (m : List (Nat × α)) {k j : Nat} (v : α) (h : j ≠ k) :
    amGet d (amPut d m k v) j = amGet d m j := by
  by_cases hv : v = d k
  · simp [amPut, hv, amGet_erase_ne d m h]
  · simp [amPut, hv, amGet_insert_ne d m v h]

theorem amWf_filter (d : Nat → α) (p : Nat × α → Bool) {m : List (Nat × α)} (h : amWf d m = true) : amWf d (m.filter p) = true := by
  induction m with
  | nil => rfl
  | cons e r ih =>
    obtain ⟨a, v⟩ := e
    simp only [amWf, Bool.and_eq_true, decide_eq_true_eq, List.all_eq_true] at h
    by_cases hp : p (a, v) = true
    · simp only [List.filter_cons_of_pos hp, amWf, Bool.and_eq_true, decide_eq_true_eq, List.all_eq_true]
      exact ⟨⟨h.1.1, fun x hx => h.1.2 x (List.mem_of_mem_filter hx)⟩, ih h.2⟩
    · simpa [List.filter_cons, hp] using ih h.2

theorem amWf_insert (d : Nat → α) {k : Nat} {v : α} {m : List (Nat × α)} (hv : v ≠ d k) (h : amWf d m = true) :
    amWf d (amInsert k v m) = true := by
  induction m with
  | nil => simp [amInsert, amWf, hv]
  | cons e r ih =>
    obtain ⟨a, w⟩ := e
    have h0 := h
    simp only [amWf, Bool.and_eq_true, decide_eq_true_eq, List.all_eq_true] at h
    by_cases h1 : k < a
    · simp only [amInsert, h1, if_true, amWf, Bool.and_eq_true, decide_eq_true_eq, List.all_eq_true]
      refine ⟨⟨hv, fun x hx => ?_⟩, h⟩
      rcases List.mem_cons.1 hx with rfl | hx
      · exact h1
      · exact Nat.lt_trans h1 (h.1.2 x hx)
    · by_cases h2 : k = a
      · subst h2
        simp only [amInsert, Nat.lt_irrefl, if_false, if_true, amWf, Bool.and_eq_true, decide_eq_true_eq, List.all_eq_true]
        exact ⟨⟨hv, h.1.2⟩, h.2⟩
      · simp only [amInsert, h1, h2, if_false, amWf, Bool.and_eq_true, decide_eq_true_eq, List.all_eq_true]
        refine ⟨⟨h.1.1, fun x hx => ?_⟩, ih h.2⟩
        rcases mem_insert hx with rfl | hx
        · omega
        · exact h.1.2 x hx

/-- Every write keeps the canonical form. -/
theorem amPut_wf (d : Nat → α) {m : List (Nat × α)} (k : Nat) (v : α) (h : amWf d m = true) : amWf d (amPut d m k v) = true := by
  by_cases hv : v = d k
  · simpa [amPut, hv, amErase] using amWf_filter d _ h
  · simpa [amPut, hv] using amWf_insert d hv h

/-- Writing successive keys keeps the canonical form. -/
theorem amPutList_wf (d : Nat → α) (l : List α) {m : List (Nat × α)} (k : Nat) (h : amWf d m = true) :
    amWf d (amPutList d m k l) = true := by
  induction l generalizing m k with
  | nil => exact h
  | cons v r ih => exact ih (k + 1) (amPut_wf d k v h)

end Sys2Proof.Machine
end

