-- ==== Sys2Proof/Laws/Flags.lean ====
section
/-!
SUPPORT. The laws of registers, fields, counters and flags: a read after a write and what a write leaves alone.
-/
namespace Sys2Proof.Machine

@[simp] theorem getReg_setReg (s : State) (a : Nat) (w : Word) : (s.setReg a w).getReg a = w := by simp [State.setReg, State.getReg]

theorem getReg_setReg_ne (s : State) {a b : Nat} (w : Word) (h : b ≠ a) : (s.setReg a w).getReg b = s.getReg b := by
  simp [State.setReg, State.getReg, amGet_put_ne _ _ _ h]

theorem getReg_setFld_ne (s : State) {f : Fld} {a : Nat} (v : Nat) (h : a ≠ f.addr) : (s.setFld f v).getReg a = s.getReg a :=
  getReg_setReg_ne s _ h

/-- A field reads as it was written, cut to its width. -/
theorem fld_setFld (s : State) (f : Fld) (v : Nat) (h : f.lo ≤ f.hi) (h36 : f.hi < 36) : (s.setFld f v).fld f = v % 2 ^ f.width := by
  simp [State.fld, State.setFld, wbits_setBits_same _ _ _ _ h h36, Fld.width]

/-- A write leaves every field alone that does not overlap it. -/
theorem fld_setFld_other (s : State) {f g : Fld} (v : Nat) (h : f.lo ≤ f.hi) (d : g.addr ≠ f.addr ∨ f.hi < g.lo ∨ g.hi < f.lo) :
    (s.setFld f v).fld g = s.fld g := by
  rcases d with d | d
  · simp [State.fld, getReg_setFld_ne s v d]
  · by_cases ha : g.addr = f.addr
    · simp [State.fld, State.setFld, ha, wbits_setBits_other _ h d]
    · simp [State.fld, getReg_setFld_ne s v ha]

/-- A saturating counter after `n` more occurrences. -/
theorem fld_bumpBy (s : State) (f : Fld) (n : Nat) (h : f.lo ≤ f.hi) (h36 : f.hi < 36) :
    (s.bumpBy f n).fld f = min (s.fld f + n) (2 ^ f.width - 1) := by
  have hp : 0 < 2 ^ f.width := Nat.two_pow_pos _
  rw [State.bumpBy, fld_setFld _ _ _ h h36, satU, Nat.mod_eq_of_lt]
  omega

theorem setReg_wf {s : State} (a : Nat) (w : Word) (h : amWf resetWord s.regs = true) : amWf resetWord (s.setReg a w).regs = true :=
  amPut_wf _ _ _ h

theorem setFld_wf {s : State} (f : Fld) (v : Nat) (h : amWf resetWord s.regs = true) : amWf resetWord (s.setFld f v).regs = true :=
  setReg_wf _ _ h

theorem mark_wf {s : State} (f : Fld) (h : amWf resetWord s.regs = true) : amWf resetWord (s.mark f).regs = true := by
  unfold State.mark
  split
  · exact setFld_wf _ _ (setFld_wf _ _ h)
  · exact setFld_wf _ _ h

/-- What an occurrence of a flag does: the flag and its counter in the registers, a record in the queues of the ports. -/
theorem raise_spec (f : Fld) (s : State) :
    raise f s = { s.mark f with cmd := s.cmd.post { addr := f.addr, bit := f.lo, occ := 1, first := s.ns, epoch := s.epoch } s.lnk.pair.up } := by
  unfold raise State.recOf State.ns State.mark
  dsimp only
  split <;> rfl

theorem raise_wf {s : State} (f : Fld) (h : amWf resetWord s.regs = true) : amWf resetWord (raise f s).regs = true := mark_wf f h

end Sys2Proof.Machine
end

