-- ==== Sys2Proof/Laws/Quiet.lean ====
section
/-!
SUPPORT. What the shared operations do where there is nothing for them to do: they leave the state as it is.
-/
namespace Sys2Proof.Machine

theorem endLoads_none_left {s : State} (st : Option Nat) (h : s.loads = []) : endLoads st s = s := by
  have e : ({ s with loads := [] } : State) = s := (congrArg (fun l => ({ s with loads := l } : State)) h).symm
  unfold endLoads; rw [h]; cases st <;> exact e

theorem failArm_no_arm {s : State} (st : Nat) (b : Bool) (h : s.mot.arm = none) : failArm st b s = s := by unfold failArm; rw [h]

theorem armBroken_no_arm {s : State} (h : s.mot.arm = none) : armBroken s = s := by unfold armBroken; rw [h]; rfl

theorem answerAll_no_flight {s : State} (p : Port) (op st : Nat) (w : List Word) (h : flightsOp p op s = []) :
    answerAll p op st w s = s := by unfold answerAll; rw [h]; rfl

theorem dropStart_no_start {s : State} (h1 : s.mem.startHold = none) (h2 : s.pair.startWait = none) (h3 : s.pair.armWait = none) :
    dropStart s = s := by
  have e : ({ s with mem := { s.mem with startHold := none },
                     pair := { s.pair with startWait := none, armWait := none } } : State) =
      { s with mem := { s.mem with startHold := s.mem.startHold },
               pair := { s.pair with startWait := s.pair.startWait, armWait := s.pair.armWait } } := by rw [h1, h2, h3]
  exact e

theorem dropClose_not_closing {s : State} (h : ∀ j, s.job = some j → j.closing = false) : dropClose s = s := by
  have e : s.job.map (fun j => { j with closing := false }) = s.job := by
    cases hj : s.job with
    | none => rfl
    | some j =>
      have : ({ j with closing := false } : Job) = j := (congrArg (fun b => ({ j with closing := b } : Job)) (h j hj)).symm
      exact congrArg some this
  unfold dropClose; rw [e]

theorem dropJoin_no_join {s : State} (h : s.pair.join = none) : dropJoin s = s := by unfold dropJoin; rw [h]

theorem dropHandover_no_handing {s : State} (h : s.pair.handing = none) : dropHandover s = s := by
  have e : ({ s with pair := { s.pair with handing := none } } : State) = s :=
    (congrArg (fun x => ({ s with pair := { s.pair with handing := x } } : State)) h).symm
  unfold dropHandover; rw [h]; exact e

theorem abortHome_no_home {s : State} (h : s.mot.home = none) : abortHome s = s := by unfold abortHome; rw [h]

theorem abortHomeOf_no_home {s : State} (a : Nat) (h : s.mot.home = none) : abortHomeOf a s = s := by unfold abortHomeOf; rw [h]

theorem stopAllMotion_no_home {s : State} (h : s.mot.home = none) : stopAllMotion s = stopMoves (fun _ => true) s := by
  unfold stopAllMotion; rw [abortHome_no_home h]

theorem failStart_no_start {s : State} (h1 : s.mem.startHold = none) (h2 : s.pair.startWait = none) : failStart s = s := by
  have e : ({ s with mem := { s.mem with startHold := none }, pair := { s.pair with startWait := none } } : State) =
      { s with mem := { s.mem with startHold := s.mem.startHold }, pair := { s.pair with startWait := s.pair.startWait } } := by
    rw [h1, h2]
  unfold failStart; rw [h1, h2]; exact e

theorem startCalWaits_none_waiting {s : State} (h : s.cal.waiting = []) : startCalWaits s = s := by
  unfold startCalWaits; rw [h]
  exact (congrArg (fun w => ({ s with cal := { s.cal with waiting := w } } : State)) h).symm

theorem startFenced_none_held {s : State} (h : s.cmd.held = []) : startFenced s = s := by unfold startFenced fenceDue; rw [h]; rfl

theorem stopRxOff_none {s : State} (st : Nat) (h : s.cal.rxoff = none) : stopRxOff st s = s := by unfold stopRxOff; rw [h]

theorem endCalWaits_none_waiting {s : State} (h : s.cal.waiting = []) : endCalWaits s = s := by
  have e : ({ s with cal := { s.cal with waiting := [] } } : State) = s :=
    (congrArg (fun w => ({ s with cal := { s.cal with waiting := w } } : State)) h).symm
  unfold endCalWaits; rw [h]; exact e

theorem lockedWaits_none_waiting {s : State} (h : s.cal.waiting = []) : lockedWaits s = s := by unfold lockedWaits; rw [h]; rfl

theorem endNvmWaits_no_job {s : State} (h : s.nvm.jobs = []) : endNvmWaits s = s := by
  have e : ({ s with nvm := { s.nvm with jobs := [] } } : State) = s :=
    (congrArg (fun w => ({ s with nvm := { s.nvm with jobs := w } } : State)) h).symm
  unfold endNvmWaits; rw [h]; exact e

theorem jobCloseEnd_not_closing {s : State} (h : closing s = false) : jobCloseEnd s = s := by unfold jobCloseEnd; rw [h]; rfl

theorem wakeMemory_awake {s : State} (h : s.mem.sr = .awake) : wakeMemory s = s := by unfold wakeMemory; rw [h]

end Sys2Proof.Machine
end

