-- ==== Sys2Proof/Laws/Requests.lean ====
section
/-!
SUPPORT. What every request shares: one that starts runs its body with the command in flight, and a reply ends it.
-/
namespace Sys2Proof.Machine

/-- A request that starts runs its body on the state in which it is in flight. -/
theorem takeReq_starts {body : Req → State → State} {r : Req} {s : State} (h : Starts r s) : takeReq body r s = body r (s.taken r) := by
  obtain ⟨h1, h0, h2, h3, h4, h5, h6⟩ := h
  have hw : (r.fence && !(flightsOf r.port s).isEmpty) = false := by rcases h5 with h | h <;> simp [h]
  have h4' : ¬ flightLimit r.port ≤ (flightsOf r.port s).length := by omega
  have h6' : firstFailure r { s with cmd := { s.cmd with flight := s.cmd.flight ++ [r.flight] } } = none := h6
  simp only [takeReq, h1, h0, h2, h3, h4', hw, Bool.not_true, Bool.or_self, Bool.false_eq_true, if_false, start, h6']
  rfl

theorem removeFirst_append {α : Type} (p : α → Bool) (l : List α) (x : α) (h : l.any p = false) (hx : p x = true) :
    removeFirst p (l ++ [x]) = l := by
  induction l with
  | nil => simp [removeFirst, hx]
  | cons y r ih =>
    simp only [List.any_cons, Bool.or_eq_false_iff] at h
    simp [removeFirst, h.1, ih h.2]

/-- The reply of a command just taken ends it. -/
theorem reply_taken {r : Req} {s : State} (st : Nat) (w : List Word) (h : inFlight r.port r.tag s = false) :
    r.reply st w (s.taken r) = sendReply r.port r.tag r.op st w s := by
  have hx : (fun f : Flight => f.port == r.port && f.tag == r.tag) r.flight = true := by simp [Req.flight]
  have hf : (s.cmd.flight ++ [r.flight]).find? (fun f : Flight => f.port == r.port && f.tag == r.tag) = some r.flight := by
    have h' : s.cmd.flight.find? (fun f : Flight => f.port == r.port && f.tag == r.tag) = none := by
      rw [List.find?_eq_none]; intro x hx2; have := (List.any_eq_false.1 h) x hx2; simpa using this
    rw [List.find?_append, h']; simp [Req.flight]
  have hr : removeFirst (fun f : Flight => f.port == r.port && f.tag == r.tag) (s.cmd.flight ++ [r.flight]) = s.cmd.flight :=
    removeFirst_append _ _ _ h hx
  simp [Req.reply, answer, State.taken, hf, hr]
  rfl

/-- The reply of a command that stands last in flight ends it. -/
theorem reply_last {r : Req} {t : State} {l : List Flight} (st : Nat) (w : List Word) (hf : t.cmd.flight = l ++ [r.flight])
    (h : l.any (fun f => f.port == r.port && f.tag == r.tag) = false) :
    r.reply st w t = sendReply r.port r.tag r.op st w { t with cmd := { t.cmd with flight := l } } := by
  have hr : removeFirst (fun f : Flight => f.port == r.port && f.tag == r.tag) (l ++ [r.flight]) = l :=
    removeFirst_append _ _ _ h (by simp [Req.flight])
  have h' : l.find? (fun f : Flight => f.port == r.port && f.tag == r.tag) = none := by
    rw [List.find?_eq_none]; intro x hx2; have := (List.any_eq_false.1 h) x hx2; simpa using this
  have hf2 : (l ++ [r.flight]).find? (fun f : Flight => f.port == r.port && f.tag == r.tag) = some r.flight := by
    rw [List.find?_append, h']; simp [Req.flight]
  simp only [Req.reply, answer, hf, hf2, hr]
  rfl

/-! A command in flight changes nothing but the list of commands in flight. -/

@[simp] theorem taken_pending (s : State) (r : Req) : (s.taken r).pending = s.pending := (rfl)
@[simp] theorem taken_out (s : State) (r : Req) : (s.taken r).out = s.out := (rfl)
@[simp] theorem taken_fresh (s : State) (r : Req) : (s.taken r).fresh = s.fresh := (rfl)
@[simp] theorem taken_epoch (s : State) (r : Req) : (s.taken r).epoch = s.epoch := (rfl)
@[simp] theorem taken_regs (s : State) (r : Req) : (s.taken r).regs = s.regs := (rfl)
@[simp] theorem taken_active (s : State) (r : Req) : (s.taken r).active = s.active := (rfl)
@[simp] theorem taken_core (s : State) (r : Req) : (s.taken r).core = s.core := (rfl)
@[simp] theorem taken_job (s : State) (r : Req) : (s.taken r).job = s.job := (rfl)
@[simp] theorem taken_tb (s : State) (r : Req) : (s.taken r).tb = s.tb := (rfl)
@[simp] theorem taken_loads (s : State) (r : Req) : (s.taken r).loads = s.loads := (rfl)
@[simp] theorem taken_loaves (s : State) (r : Req) : (s.taken r).loaves = s.loaves := (rfl)
@[simp] theorem taken_rows (s : State) (r : Req) : (s.taken r).rows = s.rows := (rfl)
@[simp] theorem taken_plc (s : State) (r : Req) : (s.taken r).plc = s.plc := (rfl)
@[simp] theorem taken_prf (s : State) (r : Req) : (s.taken r).prf = s.prf := (rfl)
@[simp] theorem taken_hbm (s : State) (r : Req) : (s.taken r).hbm = s.hbm := (rfl)
@[simp] theorem taken_mem (s : State) (r : Req) : (s.taken r).mem = s.mem := (rfl)
@[simp] theorem taken_slc (s : State) (r : Req) : (s.taken r).slc = s.slc := (rfl)
@[simp] theorem taken_lch (s : State) (r : Req) : (s.taken r).lch = s.lch := (rfl)
@[simp] theorem taken_jnl (s : State) (r : Req) : (s.taken r).jnl = s.jnl := (rfl)
@[simp] theorem taken_mot (s : State) (r : Req) : (s.taken r).mot = s.mot := (rfl)
@[simp] theorem taken_lnk (s : State) (r : Req) : (s.taken r).lnk = s.lnk := (rfl)
@[simp] theorem taken_cal (s : State) (r : Req) : (s.taken r).cal = s.cal := (rfl)
@[simp] theorem taken_nvm (s : State) (r : Req) : (s.taken r).nvm = s.nvm := (rfl)
@[simp] theorem taken_pair (s : State) (r : Req) : (s.taken r).pair = s.pair := (rfl)
@[simp] theorem taken_pwr (s : State) (r : Req) : (s.taken r).pwr = s.pwr := (rfl)
@[simp] theorem taken_tst (s : State) (r : Req) : (s.taken r).tst = s.tst := (rfl)
@[simp] theorem taken_tap (s : State) (r : Req) : (s.taken r).tap = s.tap := (rfl)
@[simp] theorem taken_boundary (s : State) (r : Req) : (s.taken r).boundary = s.boundary := (rfl)
@[simp] theorem taken_pins (s : State) (r : Req) : (s.taken r).pins = s.pins := (rfl)
@[simp] theorem taken_getReg (s : State) (r : Req) (a : Nat) : (s.taken r).getReg a = s.getReg a := (rfl)
@[simp] theorem taken_fld (s : State) (r : Req) (f : Fld) : (s.taken r).fld f = s.fld f := (rfl)
@[simp] theorem taken_bit (s : State) (r : Req) (f : Fld) : (s.taken r).bit f = s.bit f := (rfl)
@[simp] theorem taken_pc (s : State) (r : Req) (p : Nat) : (s.taken r).pc p = s.pc p := (rfl)
@[simp] theorem taken_axis (s : State) (r : Req) (a : Nat) : (s.taken r).axis a = s.axis a := (rfl)
@[simp] theorem taken_grp (s : State) (r : Req) (g : Nat) : (s.taken r).grp g = s.grp g := (rfl)
@[simp] theorem taken_act (s : State) (r : Req) (f : Fld) : (s.taken r).act f = s.act f := (rfl)
@[simp] theorem taken_ns (s : State) (r : Req) : (s.taken r).ns = s.ns := (rfl)
@[simp] theorem taken_flight (s : State) (r : Req) : (s.taken r).cmd.flight = s.cmd.flight ++ [r.flight] := (rfl)

/-! The parts of a request of a row. -/

@[simp] theorem mkReq_port (p : Port) (h : Hdr) (op : Nat) (w : List Word) : (mkReq p h op w).port = p := (rfl)
@[simp] theorem mkReq_tag (p : Port) (h : Hdr) (op : Nat) (w : List Word) : (mkReq p h op w).tag = h.tag := (rfl)
@[simp] theorem mkReq_op (p : Port) (h : Hdr) (op : Nat) (w : List Word) : (mkReq p h op w).op = op := (rfl)
@[simp] theorem mkReq_w (p : Port) (h : Hdr) (op : Nat) (w : List Word) : (mkReq p h op w).w = w := (rfl)

/-- The outcome of a command on a device that is not held in reset. -/
theorem done_live {s : State} (h : s.live) (t : State) : done s t = .next (finish s t) := by
  have h' : heldInReset s = false := h
  simp [done, donePin, h']

/-- The outcome of a command on a device held in reset. -/
theorem done_held {s : State} (h : heldInReset s = true) (t : State) : done s t = .next (finish s s) := by simp [done, donePin, h]

/-- The outcome of a request that starts. -/
theorem request_starts {body : Req → State → State} {r : Req} {s : State} (hl : s.live) (h : Starts r s) :
    done s (takeReq body r s) = .next (finish s (body r (s.taken r))) := by rw [done_live hl, takeReq_starts h]

end Sys2Proof.Machine
end

