-- ==== Sys2Proof/Laws/State.lean ====
section
/-!
SUPPORT. What each update of the state leaves alone, field by field.
-/
namespace Sys2Proof.Machine

@[simp] theorem emit_pending (o : Out) (s : State) : (emit o s).pending = s.pending := (rfl)
@[simp] theorem emit_fresh (o : Out) (s : State) : (emit o s).fresh = s.fresh := (rfl)
@[simp] theorem emit_epoch (o : Out) (s : State) : (emit o s).epoch = s.epoch := (rfl)
@[simp] theorem emit_regs (o : Out) (s : State) : (emit o s).regs = s.regs := (rfl)
@[simp] theorem emit_active (o : Out) (s : State) : (emit o s).active = s.active := (rfl)
@[simp] theorem emit_core (o : Out) (s : State) : (emit o s).core = s.core := (rfl)
@[simp] theorem emit_job (o : Out) (s : State) : (emit o s).job = s.job := (rfl)
@[simp] theorem emit_tb (o : Out) (s : State) : (emit o s).tb = s.tb := (rfl)
@[simp] theorem emit_cmd (o : Out) (s : State) : (emit o s).cmd = s.cmd := (rfl)
@[simp] theorem emit_loads (o : Out) (s : State) : (emit o s).loads = s.loads := (rfl)
@[simp] theorem emit_loaves (o : Out) (s : State) : (emit o s).loaves = s.loaves := (rfl)
@[simp] theorem emit_rows (o : Out) (s : State) : (emit o s).rows = s.rows := (rfl)
@[simp] theorem emit_plc (o : Out) (s : State) : (emit o s).plc = s.plc := (rfl)
@[simp] theorem emit_prf (o : Out) (s : State) : (emit o s).prf = s.prf := (rfl)
@[simp] theorem emit_hbm (o : Out) (s : State) : (emit o s).hbm = s.hbm := (rfl)
@[simp] theorem emit_mem (o : Out) (s : State) : (emit o s).mem = s.mem := (rfl)
@[simp] theorem emit_slc (o : Out) (s : State) : (emit o s).slc = s.slc := (rfl)
@[simp] theorem emit_lch (o : Out) (s : State) : (emit o s).lch = s.lch := (rfl)
@[simp] theorem emit_jnl (o : Out) (s : State) : (emit o s).jnl = s.jnl := (rfl)
@[simp] theorem emit_mot (o : Out) (s : State) : (emit o s).mot = s.mot := (rfl)
@[simp] theorem emit_lnk (o : Out) (s : State) : (emit o s).lnk = s.lnk := (rfl)
@[simp] theorem emit_cal (o : Out) (s : State) : (emit o s).cal = s.cal := (rfl)
@[simp] theorem emit_nvm (o : Out) (s : State) : (emit o s).nvm = s.nvm := (rfl)
@[simp] theorem emit_pair (o : Out) (s : State) : (emit o s).pair = s.pair := (rfl)
@[simp] theorem emit_pwr (o : Out) (s : State) : (emit o s).pwr = s.pwr := (rfl)
@[simp] theorem emit_tst (o : Out) (s : State) : (emit o s).tst = s.tst := (rfl)
@[simp] theorem emit_tap (o : Out) (s : State) : (emit o s).tap = s.tap := (rfl)
@[simp] theorem emit_boundary (o : Out) (s : State) : (emit o s).boundary = s.boundary := (rfl)
@[simp] theorem emit_pins (o : Out) (s : State) : (emit o s).pins = s.pins := (rfl)

@[simp] theorem setReg_pending (s : State) (a : Nat) (w : Word) : (s.setReg a w).pending = s.pending := (rfl)
@[simp] theorem setReg_out (s : State) (a : Nat) (w : Word) : (s.setReg a w).out = s.out := (rfl)
@[simp] theorem setReg_fresh (s : State) (a : Nat) (w : Word) : (s.setReg a w).fresh = s.fresh := (rfl)
@[simp] theorem setReg_epoch (s : State) (a : Nat) (w : Word) : (s.setReg a w).epoch = s.epoch := (rfl)
@[simp] theorem setReg_active (s : State) (a : Nat) (w : Word) : (s.setReg a w).active = s.active := (rfl)
@[simp] theorem setReg_core (s : State) (a : Nat) (w : Word) : (s.setReg a w).core = s.core := (rfl)
@[simp] theorem setReg_job (s : State) (a : Nat) (w : Word) : (s.setReg a w).job = s.job := (rfl)
@[simp] theorem setReg_tb (s : State) (a : Nat) (w : Word) : (s.setReg a w).tb = s.tb := (rfl)
@[simp] theorem setReg_cmd (s : State) (a : Nat) (w : Word) : (s.setReg a w).cmd = s.cmd := (rfl)
@[simp] theorem setReg_loads (s : State) (a : Nat) (w : Word) : (s.setReg a w).loads = s.loads := (rfl)
@[simp] theorem setReg_loaves (s : State) (a : Nat) (w : Word) : (s.setReg a w).loaves = s.loaves := (rfl)
@[simp] theorem setReg_rows (s : State) (a : Nat) (w : Word) : (s.setReg a w).rows = s.rows := (rfl)
@[simp] theorem setReg_plc (s : State) (a : Nat) (w : Word) : (s.setReg a w).plc = s.plc := (rfl)
@[simp] theorem setReg_prf (s : State) (a : Nat) (w : Word) : (s.setReg a w).prf = s.prf := (rfl)
@[simp] theorem setReg_hbm (s : State) (a : Nat) (w : Word) : (s.setReg a w).hbm = s.hbm := (rfl)
@[simp] theorem setReg_mem (s : State) (a : Nat) (w : Word) : (s.setReg a w).mem = s.mem := (rfl)
@[simp] theorem setReg_slc (s : State) (a : Nat) (w : Word) : (s.setReg a w).slc = s.slc := (rfl)
@[simp] theorem setReg_lch (s : State) (a : Nat) (w : Word) : (s.setReg a w).lch = s.lch := (rfl)
@[simp] theorem setReg_jnl (s : State) (a : Nat) (w : Word) : (s.setReg a w).jnl = s.jnl := (rfl)
@[simp] theorem setReg_mot (s : State) (a : Nat) (w : Word) : (s.setReg a w).mot = s.mot := (rfl)
@[simp] theorem setReg_lnk (s : State) (a : Nat) (w : Word) : (s.setReg a w).lnk = s.lnk := (rfl)
@[simp] theorem setReg_cal (s : State) (a : Nat) (w : Word) : (s.setReg a w).cal = s.cal := (rfl)
@[simp] theorem setReg_nvm (s : State) (a : Nat) (w : Word) : (s.setReg a w).nvm = s.nvm := (rfl)
@[simp] theorem setReg_pair (s : State) (a : Nat) (w : Word) : (s.setReg a w).pair = s.pair := (rfl)
@[simp] theorem setReg_pwr (s : State) (a : Nat) (w : Word) : (s.setReg a w).pwr = s.pwr := (rfl)
@[simp] theorem setReg_tst (s : State) (a : Nat) (w : Word) : (s.setReg a w).tst = s.tst := (rfl)
@[simp] theorem setReg_tap (s : State) (a : Nat) (w : Word) : (s.setReg a w).tap = s.tap := (rfl)
@[simp] theorem setReg_boundary (s : State) (a : Nat) (w : Word) : (s.setReg a w).boundary = s.boundary := (rfl)
@[simp] theorem setReg_pins (s : State) (a : Nat) (w : Word) : (s.setReg a w).pins = s.pins := (rfl)

@[simp] theorem setFld_pending (s : State) (f : Fld) (v : Nat) : (s.setFld f v).pending = s.pending := (rfl)
@[simp] theorem setFld_out (s : State) (f : Fld) (v : Nat) : (s.setFld f v).out = s.out := (rfl)
@[simp] theorem setFld_fresh (s : State) (f : Fld) (v : Nat) : (s.setFld f v).fresh = s.fresh := (rfl)
@[simp] theorem setFld_epoch (s : State) (f : Fld) (v : Nat) : (s.setFld f v).epoch = s.epoch := (rfl)
@[simp] theorem setFld_active (s : State) (f : Fld) (v : Nat) : (s.setFld f v).active = s.active := (rfl)
@[simp] theorem setFld_core (s : State) (f : Fld) (v : Nat) : (s.setFld f v).core = s.core := (rfl)
@[simp] theorem setFld_job (s : State) (f : Fld) (v : Nat) : (s.setFld f v).job = s.job := (rfl)
@[simp] theorem setFld_tb (s : State) (f : Fld) (v : Nat) : (s.setFld f v).tb = s.tb := (rfl)
@[simp] theorem setFld_cmd (s : State) (f : Fld) (v : Nat) : (s.setFld f v).cmd = s.cmd := (rfl)
@[simp] theorem setFld_loads (s : State) (f : Fld) (v : Nat) : (s.setFld f v).loads = s.loads := (rfl)
@[simp] theorem setFld_loaves (s : State) (f : Fld) (v : Nat) : (s.setFld f v).loaves = s.loaves := (rfl)
@[simp] theorem setFld_rows (s : State) (f : Fld) (v : Nat) : (s.setFld f v).rows = s.rows := (rfl)
@[simp] theorem setFld_plc (s : State) (f : Fld) (v : Nat) : (s.setFld f v).plc = s.plc := (rfl)
@[simp] theorem setFld_prf (s : State) (f : Fld) (v : Nat) : (s.setFld f v).prf = s.prf := (rfl)
@[simp] theorem setFld_hbm (s : State) (f : Fld) (v : Nat) : (s.setFld f v).hbm = s.hbm := (rfl)
@[simp] theorem setFld_mem (s : State) (f : Fld) (v : Nat) : (s.setFld f v).mem = s.mem := (rfl)
@[simp] theorem setFld_slc (s : State) (f : Fld) (v : Nat) : (s.setFld f v).slc = s.slc := (rfl)
@[simp] theorem setFld_lch (s : State) (f : Fld) (v : Nat) : (s.setFld f v).lch = s.lch := (rfl)
@[simp] theorem setFld_jnl (s : State) (f : Fld) (v : Nat) : (s.setFld f v).jnl = s.jnl := (rfl)
@[simp] theorem setFld_mot (s : State) (f : Fld) (v : Nat) : (s.setFld f v).mot = s.mot := (rfl)
@[simp] theorem setFld_lnk (s : State) (f : Fld) (v : Nat) : (s.setFld f v).lnk = s.lnk := (rfl)
@[simp] theorem setFld_cal (s : State) (f : Fld) (v : Nat) : (s.setFld f v).cal = s.cal := (rfl)
@[simp] theorem setFld_nvm (s : State) (f : Fld) (v : Nat) : (s.setFld f v).nvm = s.nvm := (rfl)
@[simp] theorem setFld_pair (s : State) (f : Fld) (v : Nat) : (s.setFld f v).pair = s.pair := (rfl)
@[simp] theorem setFld_pwr (s : State) (f : Fld) (v : Nat) : (s.setFld f v).pwr = s.pwr := (rfl)
@[simp] theorem setFld_tst (s : State) (f : Fld) (v : Nat) : (s.setFld f v).tst = s.tst := (rfl)
@[simp] theorem setFld_tap (s : State) (f : Fld) (v : Nat) : (s.setFld f v).tap = s.tap := (rfl)
@[simp] theorem setFld_boundary (s : State) (f : Fld) (v : Nat) : (s.setFld f v).boundary = s.boundary := (rfl)
@[simp] theorem setFld_pins (s : State) (f : Fld) (v : Nat) : (s.setFld f v).pins = s.pins := (rfl)

@[simp] theorem activate_pending (s : State) (a : Nat) : (s.activate a).pending = s.pending := (rfl)
@[simp] theorem activate_out (s : State) (a : Nat) : (s.activate a).out = s.out := (rfl)
@[simp] theorem activate_fresh (s : State) (a : Nat) : (s.activate a).fresh = s.fresh := (rfl)
@[simp] theorem activate_epoch (s : State) (a : Nat) : (s.activate a).epoch = s.epoch := (rfl)
@[simp] theorem activate_regs (s : State) (a : Nat) : (s.activate a).regs = s.regs := (rfl)
@[simp] theorem activate_core (s : State) (a : Nat) : (s.activate a).core = s.core := (rfl)
@[simp] theorem activate_job (s : State) (a : Nat) : (s.activate a).job = s.job := (rfl)
@[simp] theorem activate_tb (s : State) (a : Nat) : (s.activate a).tb = s.tb := (rfl)
@[simp] theorem activate_cmd (s : State) (a : Nat) : (s.activate a).cmd = s.cmd := (rfl)
@[simp] theorem activate_loads (s : State) (a : Nat) : (s.activate a).loads = s.loads := (rfl)
@[simp] theorem activate_loaves (s : State) (a : Nat) : (s.activate a).loaves = s.loaves := (rfl)
@[simp] theorem activate_rows (s : State) (a : Nat) : (s.activate a).rows = s.rows := (rfl)
@[simp] theorem activate_plc (s : State) (a : Nat) : (s.activate a).plc = s.plc := (rfl)
@[simp] theorem activate_prf (s : State) (a : Nat) : (s.activate a).prf = s.prf := (rfl)
@[simp] theorem activate_hbm (s : State) (a : Nat) : (s.activate a).hbm = s.hbm := (rfl)
@[simp] theorem activate_mem (s : State) (a : Nat) : (s.activate a).mem = s.mem := (rfl)
@[simp] theorem activate_slc (s : State) (a : Nat) : (s.activate a).slc = s.slc := (rfl)
@[simp] theorem activate_lch (s : State) (a : Nat) : (s.activate a).lch = s.lch := (rfl)
@[simp] theorem activate_jnl (s : State) (a : Nat) : (s.activate a).jnl = s.jnl := (rfl)
@[simp] theorem activate_mot (s : State) (a : Nat) : (s.activate a).mot = s.mot := (rfl)
@[simp] theorem activate_lnk (s : State) (a : Nat) : (s.activate a).lnk = s.lnk := (rfl)
@[simp] theorem activate_cal (s : State) (a : Nat) : (s.activate a).cal = s.cal := (rfl)
@[simp] theorem activate_nvm (s : State) (a : Nat) : (s.activate a).nvm = s.nvm := (rfl)
@[simp] theorem activate_pair (s : State) (a : Nat) : (s.activate a).pair = s.pair := (rfl)
@[simp] theorem activate_pwr (s : State) (a : Nat) : (s.activate a).pwr = s.pwr := (rfl)
@[simp] theorem activate_tst (s : State) (a : Nat) : (s.activate a).tst = s.tst := (rfl)
@[simp] theorem activate_tap (s : State) (a : Nat) : (s.activate a).tap = s.tap := (rfl)
@[simp] theorem activate_boundary (s : State) (a : Nat) : (s.activate a).boundary = s.boundary := (rfl)
@[simp] theorem activate_pins (s : State) (a : Nat) : (s.activate a).pins = s.pins := (rfl)

@[simp] theorem activateFld_pending (s : State) (f : Fld) : (s.activateFld f).pending = s.pending := (rfl)
@[simp] theorem activateFld_out (s : State) (f : Fld) : (s.activateFld f).out = s.out := (rfl)
@[simp] theorem activateFld_fresh (s : State) (f : Fld) : (s.activateFld f).fresh = s.fresh := (rfl)
@[simp] theorem activateFld_epoch (s : State) (f : Fld) : (s.activateFld f).epoch = s.epoch := (rfl)
@[simp] theorem activateFld_regs (s : State) (f : Fld) : (s.activateFld f).regs = s.regs := (rfl)
@[simp] theorem activateFld_core (s : State) (f : Fld) : (s.activateFld f).core = s.core := (rfl)
@[simp] theorem activateFld_job (s : State) (f : Fld) : (s.activateFld f).job = s.job := (rfl)
@[simp] theorem activateFld_tb (s : State) (f : Fld) : (s.activateFld f).tb = s.tb := (rfl)
@[simp] theorem activateFld_cmd (s : State) (f : Fld) : (s.activateFld f).cmd = s.cmd := (rfl)
@[simp] theorem activateFld_loads (s : State) (f : Fld) : (s.activateFld f).loads = s.loads := (rfl)
@[simp] theorem activateFld_loaves (s : State) (f : Fld) : (s.activateFld f).loaves = s.loaves := (rfl)
@[simp] theorem activateFld_rows (s : State) (f : Fld) : (s.activateFld f).rows = s.rows := (rfl)
@[simp] theorem activateFld_plc (s : State) (f : Fld) : (s.activateFld f).plc = s.plc := (rfl)
@[simp] theorem activateFld_prf (s : State) (f : Fld) : (s.activateFld f).prf = s.prf := (rfl)
@[simp] theorem activateFld_hbm (s : State) (f : Fld) : (s.activateFld f).hbm = s.hbm := (rfl)
@[simp] theorem activateFld_mem (s : State) (f : Fld) : (s.activateFld f).mem = s.mem := (rfl)
@[simp] theorem activateFld_slc (s : State) (f : Fld) : (s.activateFld f).slc = s.slc := (rfl)
@[simp] theorem activateFld_lch (s : State) (f : Fld) : (s.activateFld f).lch = s.lch := (rfl)
@[simp] theorem activateFld_jnl (s : State) (f : Fld) : (s.activateFld f).jnl = s.jnl := (rfl)
@[simp] theorem activateFld_mot (s : State) (f : Fld) : (s.activateFld f).mot = s.mot := (rfl)
@[simp] theorem activateFld_lnk (s : State) (f : Fld) : (s.activateFld f).lnk = s.lnk := (rfl)
@[simp] theorem activateFld_cal (s : State) (f : Fld) : (s.activateFld f).cal = s.cal := (rfl)
@[simp] theorem activateFld_nvm (s : State) (f : Fld) : (s.activateFld f).nvm = s.nvm := (rfl)
@[simp] theorem activateFld_pair (s : State) (f : Fld) : (s.activateFld f).pair = s.pair := (rfl)
@[simp] theorem activateFld_pwr (s : State) (f : Fld) : (s.activateFld f).pwr = s.pwr := (rfl)
@[simp] theorem activateFld_tst (s : State) (f : Fld) : (s.activateFld f).tst = s.tst := (rfl)
@[simp] theorem activateFld_tap (s : State) (f : Fld) : (s.activateFld f).tap = s.tap := (rfl)
@[simp] theorem activateFld_boundary (s : State) (f : Fld) : (s.activateFld f).boundary = s.boundary := (rfl)
@[simp] theorem activateFld_pins (s : State) (f : Fld) : (s.activateFld f).pins = s.pins := (rfl)

@[simp] theorem bumpBy_pending (s : State) (f : Fld) (n : Nat) : (s.bumpBy f n).pending = s.pending := (rfl)
@[simp] theorem bumpBy_out (s : State) (f : Fld) (n : Nat) : (s.bumpBy f n).out = s.out := (rfl)
@[simp] theorem bumpBy_fresh (s : State) (f : Fld) (n : Nat) : (s.bumpBy f n).fresh = s.fresh := (rfl)
@[simp] theorem bumpBy_epoch (s : State) (f : Fld) (n : Nat) : (s.bumpBy f n).epoch = s.epoch := (rfl)
@[simp] theorem bumpBy_active (s : State) (f : Fld) (n : Nat) : (s.bumpBy f n).active = s.active := (rfl)
@[simp] theorem bumpBy_core (s : State) (f : Fld) (n : Nat) : (s.bumpBy f n).core = s.core := (rfl)
@[simp] theorem bumpBy_job (s : State) (f : Fld) (n : Nat) : (s.bumpBy f n).job = s.job := (rfl)
@[simp] theorem bumpBy_tb (s : State) (f : Fld) (n : Nat) : (s.bumpBy f n).tb = s.tb := (rfl)
@[simp] theorem bumpBy_cmd (s : State) (f : Fld) (n : Nat) : (s.bumpBy f n).cmd = s.cmd := (rfl)
@[simp] theorem bumpBy_loads (s : State) (f : Fld) (n : Nat) : (s.bumpBy f n).loads = s.loads := (rfl)
@[simp] theorem bumpBy_loaves (s : State) (f : Fld) (n : Nat) : (s.bumpBy f n).loaves = s.loaves := (rfl)
@[simp] theorem bumpBy_rows (s : State) (f : Fld) (n : Nat) : (s.bumpBy f n).rows = s.rows := (rfl)
@[simp] theorem bumpBy_plc (s : State) (f : Fld) (n : Nat) : (s.bumpBy f n).plc = s.plc := (rfl)
@[simp] theorem bumpBy_prf (s : State) (f : Fld) (n : Nat) : (s.bumpBy f n).prf = s.prf := (rfl)
@[simp] theorem bumpBy_hbm (s : State) (f : Fld) (n : Nat) : (s.bumpBy f n).hbm = s.hbm := (rfl)
@[simp] theorem bumpBy_mem (s : State) (f : Fld) (n : Nat) : (s.bumpBy f n).mem = s.mem := (rfl)
@[simp] theorem bumpBy_slc (s : State) (f : Fld) (n : Nat) : (s.bumpBy f n).slc = s.slc := (rfl)
@[simp] theorem bumpBy_lch (s : State) (f : Fld) (n : Nat) : (s.bumpBy f n).lch = s.lch := (rfl)
@[simp] theorem bumpBy_jnl (s : State) (f : Fld) (n : Nat) : (s.bumpBy f n).jnl = s.jnl := (rfl)
@[simp] theorem bumpBy_mot (s : State) (f : Fld) (n : Nat) : (s.bumpBy f n).mot = s.mot := (rfl)
@[simp] theorem bumpBy_lnk (s : State) (f : Fld) (n : Nat) : (s.bumpBy f n).lnk = s.lnk := (rfl)
@[simp] theorem bumpBy_cal (s : State) (f : Fld) (n : Nat) : (s.bumpBy f n).cal = s.cal := (rfl)
@[simp] theorem bumpBy_nvm (s : State) (f : Fld) (n : Nat) : (s.bumpBy f n).nvm = s.nvm := (rfl)
@[simp] theorem bumpBy_pair (s : State) (f : Fld) (n : Nat) : (s.bumpBy f n).pair = s.pair := (rfl)
@[simp] theorem bumpBy_pwr (s : State) (f : Fld) (n : Nat) : (s.bumpBy f n).pwr = s.pwr := (rfl)
@[simp] theorem bumpBy_tst (s : State) (f : Fld) (n : Nat) : (s.bumpBy f n).tst = s.tst := (rfl)
@[simp] theorem bumpBy_tap (s : State) (f : Fld) (n : Nat) : (s.bumpBy f n).tap = s.tap := (rfl)
@[simp] theorem bumpBy_boundary (s : State) (f : Fld) (n : Nat) : (s.bumpBy f n).boundary = s.boundary := (rfl)
@[simp] theorem bumpBy_pins (s : State) (f : Fld) (n : Nat) : (s.bumpBy f n).pins = s.pins := (rfl)

@[simp] theorem bump_pending (s : State) (f : Fld) : (s.bump f).pending = s.pending := (rfl)
@[simp] theorem bump_out (s : State) (f : Fld) : (s.bump f).out = s.out := (rfl)
@[simp] theorem bump_fresh (s : State) (f : Fld) : (s.bump f).fresh = s.fresh := (rfl)
@[simp] theorem bump_epoch (s : State) (f : Fld) : (s.bump f).epoch = s.epoch := (rfl)
@[simp] theorem bump_active (s : State) (f : Fld) : (s.bump f).active = s.active := (rfl)
@[simp] theorem bump_core (s : State) (f : Fld) : (s.bump f).core = s.core := (rfl)
@[simp] theorem bump_job (s : State) (f : Fld) : (s.bump f).job = s.job := (rfl)
@[simp] theorem bump_tb (s : State) (f : Fld) : (s.bump f).tb = s.tb := (rfl)
@[simp] theorem bump_cmd (s : State) (f : Fld) : (s.bump f).cmd = s.cmd := (rfl)
@[simp] theorem bump_loads (s : State) (f : Fld) : (s.bump f).loads = s.loads := (rfl)
@[simp] theorem bump_loaves (s : State) (f : Fld) : (s.bump f).loaves = s.loaves := (rfl)
@[simp] theorem bump_rows (s : State) (f : Fld) : (s.bump f).rows = s.rows := (rfl)
@[simp] theorem bump_plc (s : State) (f : Fld) : (s.bump f).plc = s.plc := (rfl)
@[simp] theorem bump_prf (s : State) (f : Fld) : (s.bump f).prf = s.prf := (rfl)
@[simp] theorem bump_hbm (s : State) (f : Fld) : (s.bump f).hbm = s.hbm := (rfl)
@[simp] theorem bump_mem (s : State) (f : Fld) : (s.bump f).mem = s.mem := (rfl)
@[simp] theorem bump_slc (s : State) (f : Fld) : (s.bump f).slc = s.slc := (rfl)
@[simp] theorem bump_lch (s : State) (f : Fld) : (s.bump f).lch = s.lch := (rfl)
@[simp] theorem bump_jnl (s : State) (f : Fld) : (s.bump f).jnl = s.jnl := (rfl)
@[simp] theorem bump_mot (s : State) (f : Fld) : (s.bump f).mot = s.mot := (rfl)
@[simp] theorem bump_lnk (s : State) (f : Fld) : (s.bump f).lnk = s.lnk := (rfl)
@[simp] theorem bump_cal (s : State) (f : Fld) : (s.bump f).cal = s.cal := (rfl)
@[simp] theorem bump_nvm (s : State) (f : Fld) : (s.bump f).nvm = s.nvm := (rfl)
@[simp] theorem bump_pair (s : State) (f : Fld) : (s.bump f).pair = s.pair := (rfl)
@[simp] theorem bump_pwr (s : State) (f : Fld) : (s.bump f).pwr = s.pwr := (rfl)
@[simp] theorem bump_tst (s : State) (f : Fld) : (s.bump f).tst = s.tst := (rfl)
@[simp] theorem bump_tap (s : State) (f : Fld) : (s.bump f).tap = s.tap := (rfl)
@[simp] theorem bump_boundary (s : State) (f : Fld) : (s.bump f).boundary = s.boundary := (rfl)
@[simp] theorem bump_pins (s : State) (f : Fld) : (s.bump f).pins = s.pins := (rfl)

@[simp] theorem mark_pending (s : State) (f : Fld) : (s.mark f).pending = s.pending := by unfold State.mark; split <;> rfl
@[simp] theorem mark_out (s : State) (f : Fld) : (s.mark f).out = s.out := by unfold State.mark; split <;> rfl
@[simp] theorem mark_fresh (s : State) (f : Fld) : (s.mark f).fresh = s.fresh := by unfold State.mark; split <;> rfl
@[simp] theorem mark_epoch (s : State) (f : Fld) : (s.mark f).epoch = s.epoch := by unfold State.mark; split <;> rfl
@[simp] theorem mark_active (s : State) (f : Fld) : (s.mark f).active = s.active := by unfold State.mark; split <;> rfl
@[simp] theorem mark_core (s : State) (f : Fld) : (s.mark f).core = s.core := by unfold State.mark; split <;> rfl
@[simp] theorem mark_job (s : State) (f : Fld) : (s.mark f).job = s.job := by unfold State.mark; split <;> rfl
@[simp] theorem mark_tb (s : State) (f : Fld) : (s.mark f).tb = s.tb := by unfold State.mark; split <;> rfl
@[simp] theorem mark_cmd (s : State) (f : Fld) : (s.mark f).cmd = s.cmd := by unfold State.mark; split <;> rfl
@[simp] theorem mark_loads (s : State) (f : Fld) : (s.mark f).loads = s.loads := by unfold State.mark; split <;> rfl
@[simp] theorem mark_loaves (s : State) (f : Fld) : (s.mark f).loaves = s.loaves := by unfold State.mark; split <;> rfl
@[simp] theorem mark_rows (s : State) (f : Fld) : (s.mark f).rows = s.rows := by unfold State.mark; split <;> rfl
@[simp] theorem mark_plc (s : State) (f : Fld) : (s.mark f).plc = s.plc := by unfold State.mark; split <;> rfl
@[simp] theorem mark_prf (s : State) (f : Fld) : (s.mark f).prf = s.prf := by unfold State.mark; split <;> rfl
@[simp] theorem mark_hbm (s : State) (f : Fld) : (s.mark f).hbm = s.hbm := by unfold State.mark; split <;> rfl
@[simp] theorem mark_mem (s : State) (f : Fld) : (s.mark f).mem = s.mem := by unfold State.mark; split <;> rfl
@[simp] theorem mark_slc (s : State) (f : Fld) : (s.mark f).slc = s.slc := by unfold State.mark; split <;> rfl
@[simp] theorem mark_lch (s : State) (f : Fld) : (s.mark f).lch = s.lch := by unfold State.mark; split <;> rfl
@[simp] theorem mark_jnl (s : State) (f : Fld) : (s.mark f).jnl = s.jnl := by unfold State.mark; split <;> rfl
@[simp] theorem mark_mot (s : State) (f : Fld) : (s.mark f).mot = s.mot := by unfold State.mark; split <;> rfl
@[simp] theorem mark_lnk (s : State) (f : Fld) : (s.mark f).lnk = s.lnk := by unfold State.mark; split <;> rfl
@[simp] theorem mark_cal (s : State) (f : Fld) : (s.mark f).cal = s.cal := by unfold State.mark; split <;> rfl
@[simp] theorem mark_nvm (s : State) (f : Fld) : (s.mark f).nvm = s.nvm := by unfold State.mark; split <;> rfl
@[simp] theorem mark_pair (s : State) (f : Fld) : (s.mark f).pair = s.pair := by unfold State.mark; split <;> rfl
@[simp] theorem mark_pwr (s : State) (f : Fld) : (s.mark f).pwr = s.pwr := by unfold State.mark; split <;> rfl
@[simp] theorem mark_tst (s : State) (f : Fld) : (s.mark f).tst = s.tst := by unfold State.mark; split <;> rfl
@[simp] theorem mark_tap (s : State) (f : Fld) : (s.mark f).tap = s.tap := by unfold State.mark; split <;> rfl
@[simp] theorem mark_boundary (s : State) (f : Fld) : (s.mark f).boundary = s.boundary := by unfold State.mark; split <;> rfl
@[simp] theorem mark_pins (s : State) (f : Fld) : (s.mark f).pins = s.pins := by unfold State.mark; split <;> rfl

@[simp] theorem raise_pending (f : Fld) (s : State) : (raise f s).pending = s.pending := by simp [raise]
@[simp] theorem raise_out (f : Fld) (s : State) : (raise f s).out = s.out := by simp [raise]
@[simp] theorem raise_fresh (f : Fld) (s : State) : (raise f s).fresh = s.fresh := by simp [raise]
@[simp] theorem raise_epoch (f : Fld) (s : State) : (raise f s).epoch = s.epoch := by simp [raise]
@[simp] theorem raise_active (f : Fld) (s : State) : (raise f s).active = s.active := by simp [raise]
@[simp] theorem raise_core (f : Fld) (s : State) : (raise f s).core = s.core := by simp [raise]
@[simp] theorem raise_job (f : Fld) (s : State) : (raise f s).job = s.job := by simp [raise]
@[simp] theorem raise_tb (f : Fld) (s : State) : (raise f s).tb = s.tb := by simp [raise]
@[simp] theorem raise_loads (f : Fld) (s : State) : (raise f s).loads = s.loads := by simp [raise]
@[simp] theorem raise_loaves (f : Fld) (s : State) : (raise f s).loaves = s.loaves := by simp [raise]
@[simp] theorem raise_rows (f : Fld) (s : State) : (raise f s).rows = s.rows := by simp [raise]
@[simp] theorem raise_plc (f : Fld) (s : State) : (raise f s).plc = s.plc := by simp [raise]
@[simp] theorem raise_prf (f : Fld) (s : State) : (raise f s).prf = s.prf := by simp [raise]
@[simp] theorem raise_hbm (f : Fld) (s : State) : (raise f s).hbm = s.hbm := by simp [raise]
@[simp] theorem raise_mem (f : Fld) (s : State) : (raise f s).mem = s.mem := by simp [raise]
@[simp] theorem raise_slc (f : Fld) (s : State) : (raise f s).slc = s.slc := by simp [raise]
@[simp] theorem raise_lch (f : Fld) (s : State) : (raise f s).lch = s.lch := by simp [raise]
@[simp] theorem raise_jnl (f : Fld) (s : State) : (raise f s).jnl = s.jnl := by simp [raise]
@[simp] theorem raise_mot (f : Fld) (s : State) : (raise f s).mot = s.mot := by simp [raise]
@[simp] theorem raise_lnk (f : Fld) (s : State) : (raise f s).lnk = s.lnk := by simp [raise]
@[simp] theorem raise_cal (f : Fld) (s : State) : (raise f s).cal = s.cal := by simp [raise]
@[simp] theorem raise_nvm (f : Fld) (s : State) : (raise f s).nvm = s.nvm := by simp [raise]
@[simp] theorem raise_pair (f : Fld) (s : State) : (raise f s).pair = s.pair := by simp [raise]
@[simp] theorem raise_pwr (f : Fld) (s : State) : (raise f s).pwr = s.pwr := by simp [raise]
@[simp] theorem raise_tst (f : Fld) (s : State) : (raise f s).tst = s.tst := by simp [raise]
@[simp] theorem raise_tap (f : Fld) (s : State) : (raise f s).tap = s.tap := by simp [raise]
@[simp] theorem raise_boundary (f : Fld) (s : State) : (raise f s).boundary = s.boundary := by simp [raise]
@[simp] theorem raise_pins (f : Fld) (s : State) : (raise f s).pins = s.pins := by simp [raise]

@[simp] theorem raiseIf_pending (b : Bool) (f : Fld) (s : State) : (raiseIf b f s).pending = s.pending := by cases b <;> simp [raiseIf]
@[simp] theorem raiseIf_out (b : Bool) (f : Fld) (s : State) : (raiseIf b f s).out = s.out := by cases b <;> simp [raiseIf]
@[simp] theorem raiseIf_fresh (b : Bool) (f : Fld) (s : State) : (raiseIf b f s).fresh = s.fresh := by cases b <;> simp [raiseIf]
@[simp] theorem raiseIf_epoch (b : Bool) (f : Fld) (s : State) : (raiseIf b f s).epoch = s.epoch := by cases b <;> simp [raiseIf]
@[simp] theorem raiseIf_active (b : Bool) (f : Fld) (s : State) : (raiseIf b f s).active = s.active := by cases b <;> simp [raiseIf]
@[simp] theorem raiseIf_core (b : Bool) (f : Fld) (s : State) : (raiseIf b f s).core = s.core := by cases b <;> simp [raiseIf]
@[simp] theorem raiseIf_job (b : Bool) (f : Fld) (s : State) : (raiseIf b f s).job = s.job := by cases b <;> simp [raiseIf]
@[simp] theorem raiseIf_tb (b : Bool) (f : Fld) (s : State) : (raiseIf b f s).tb = s.tb := by cases b <;> simp [raiseIf]
@[simp] theorem raiseIf_loads (b : Bool) (f : Fld) (s : State) : (raiseIf b f s).loads = s.loads := by cases b <;> simp [raiseIf]
@[simp] theorem raiseIf_loaves (b : Bool) (f : Fld) (s : State) : (raiseIf b f s).loaves = s.loaves := by cases b <;> simp [raiseIf]
@[simp] theorem raiseIf_rows (b : Bool) (f : Fld) (s : State) : (raiseIf b f s).rows = s.rows := by cases b <;> simp [raiseIf]
@[simp] theorem raiseIf_plc (b : Bool) (f : Fld) (s : State) : (raiseIf b f s).plc = s.plc := by cases b <;> simp [raiseIf]
@[simp] theorem raiseIf_prf (b : Bool) (f : Fld) (s : State) : (raiseIf b f s).prf = s.prf := by cases b <;> simp [raiseIf]
@[simp] theorem raiseIf_hbm (b : Bool) (f : Fld) (s : State) : (raiseIf b f s).hbm = s.hbm := by cases b <;> simp [raiseIf]
@[simp] theorem raiseIf_mem (b : Bool) (f : Fld) (s : State) : (raiseIf b f s).mem = s.mem := by cases b <;> simp [raiseIf]
@[simp] theorem raiseIf_slc (b : Bool) (f : Fld) (s : State) : (raiseIf b f s).slc = s.slc := by cases b <;> simp [raiseIf]
@[simp] theorem raiseIf_lch (b : Bool) (f : Fld) (s : State) : (raiseIf b f s).lch = s.lch := by cases b <;> simp [raiseIf]
@[simp] theorem raiseIf_jnl (b : Bool) (f : Fld) (s : State) : (raiseIf b f s).jnl = s.jnl := by cases b <;> simp [raiseIf]
@[simp] theorem raiseIf_mot (b : Bool) (f : Fld) (s : State) : (raiseIf b f s).mot = s.mot := by cases b <;> simp [raiseIf]
@[simp] theorem raiseIf_lnk (b : Bool) (f : Fld) (s : State) : (raiseIf b f s).lnk = s.lnk := by cases b <;> simp [raiseIf]
@[simp] theorem raiseIf_cal (b : Bool) (f : Fld) (s : State) : (raiseIf b f s).cal = s.cal := by cases b <;> simp [raiseIf]
@[simp] theorem raiseIf_nvm (b : Bool) (f : Fld) (s : State) : (raiseIf b f s).nvm = s.nvm := by cases b <;> simp [raiseIf]
@[simp] theorem raiseIf_pair (b : Bool) (f : Fld) (s : State) : (raiseIf b f s).pair = s.pair := by cases b <;> simp [raiseIf]
@[simp] theorem raiseIf_pwr (b : Bool) (f : Fld) (s : State) : (raiseIf b f s).pwr = s.pwr := by cases b <;> simp [raiseIf]
@[simp] theorem raiseIf_tst (b : Bool) (f : Fld) (s : State) : (raiseIf b f s).tst = s.tst := by cases b <;> simp [raiseIf]
@[simp] theorem raiseIf_tap (b : Bool) (f : Fld) (s : State) : (raiseIf b f s).tap = s.tap := by cases b <;> simp [raiseIf]
@[simp] theorem raiseIf_boundary (b : Bool) (f : Fld) (s : State) : (raiseIf b f s).boundary = s.boundary := by cases b <;> simp [raiseIf]
@[simp] theorem raiseIf_pins (b : Bool) (f : Fld) (s : State) : (raiseIf b f s).pins = s.pins := by cases b <;> simp [raiseIf]

@[simp] theorem updAxis_pending (s : State) (a : Nat) (f : Axis → Axis) : (s.updAxis a f).pending = s.pending := (rfl)
@[simp] theorem updAxis_out (s : State) (a : Nat) (f : Axis → Axis) : (s.updAxis a f).out = s.out := (rfl)
@[simp] theorem updAxis_fresh (s : State) (a : Nat) (f : Axis → Axis) : (s.updAxis a f).fresh = s.fresh := (rfl)
@[simp] theorem updAxis_epoch (s : State) (a : Nat) (f : Axis → Axis) : (s.updAxis a f).epoch = s.epoch := (rfl)
@[simp] theorem updAxis_regs (s : State) (a : Nat) (f : Axis → Axis) : (s.updAxis a f).regs = s.regs := (rfl)
@[simp] theorem updAxis_active (s : State) (a : Nat) (f : Axis → Axis) : (s.updAxis a f).active = s.active := (rfl)
@[simp] theorem updAxis_core (s : State) (a : Nat) (f : Axis → Axis) : (s.updAxis a f).core = s.core := (rfl)
@[simp] theorem updAxis_job (s : State) (a : Nat) (f : Axis → Axis) : (s.updAxis a f).job = s.job := (rfl)
@[simp] theorem updAxis_tb (s : State) (a : Nat) (f : Axis → Axis) : (s.updAxis a f).tb = s.tb := (rfl)
@[simp] theorem updAxis_cmd (s : State) (a : Nat) (f : Axis → Axis) : (s.updAxis a f).cmd = s.cmd := (rfl)
@[simp] theorem updAxis_loads (s : State) (a : Nat) (f : Axis → Axis) : (s.updAxis a f).loads = s.loads := (rfl)
@[simp] theorem updAxis_loaves (s : State) (a : Nat) (f : Axis → Axis) : (s.updAxis a f).loaves = s.loaves := (rfl)
@[simp] theorem updAxis_rows (s : State) (a : Nat) (f : Axis → Axis) : (s.updAxis a f).rows = s.rows := (rfl)
@[simp] theorem updAxis_plc (s : State) (a : Nat) (f : Axis → Axis) : (s.updAxis a f).plc = s.plc := (rfl)
@[simp] theorem updAxis_prf (s : State) (a : Nat) (f : Axis → Axis) : (s.updAxis a f).prf = s.prf := (rfl)
@[simp] theorem updAxis_hbm (s : State) (a : Nat) (f : Axis → Axis) : (s.updAxis a f).hbm = s.hbm := (rfl)
@[simp] theorem updAxis_mem (s : State) (a : Nat) (f : Axis → Axis) : (s.updAxis a f).mem = s.mem := (rfl)
@[simp] theorem updAxis_slc (s : State) (a : Nat) (f : Axis → Axis) : (s.updAxis a f).slc = s.slc := (rfl)
@[simp] theorem updAxis_lch (s : State) (a : Nat) (f : Axis → Axis) : (s.updAxis a f).lch = s.lch := (rfl)
@[simp] theorem updAxis_jnl (s : State) (a : Nat) (f : Axis → Axis) : (s.updAxis a f).jnl = s.jnl := (rfl)
@[simp] theorem updAxis_lnk (s : State) (a : Nat) (f : Axis → Axis) : (s.updAxis a f).lnk = s.lnk := (rfl)
@[simp] theorem updAxis_cal (s : State) (a : Nat) (f : Axis → Axis) : (s.updAxis a f).cal = s.cal := (rfl)
@[simp] theorem updAxis_nvm (s : State) (a : Nat) (f : Axis → Axis) : (s.updAxis a f).nvm = s.nvm := (rfl)
@[simp] theorem updAxis_pair (s : State) (a : Nat) (f : Axis → Axis) : (s.updAxis a f).pair = s.pair := (rfl)
@[simp] theorem updAxis_pwr (s : State) (a : Nat) (f : Axis → Axis) : (s.updAxis a f).pwr = s.pwr := (rfl)
@[simp] theorem updAxis_tst (s : State) (a : Nat) (f : Axis → Axis) : (s.updAxis a f).tst = s.tst := (rfl)
@[simp] theorem updAxis_tap (s : State) (a : Nat) (f : Axis → Axis) : (s.updAxis a f).tap = s.tap := (rfl)
@[simp] theorem updAxis_boundary (s : State) (a : Nat) (f : Axis → Axis) : (s.updAxis a f).boundary = s.boundary := (rfl)
@[simp] theorem updAxis_pins (s : State) (a : Nat) (f : Axis → Axis) : (s.updAxis a f).pins = s.pins := (rfl)

@[simp] theorem updGrp_pending (s : State) (g : Nat) (f : Grp → Grp) : (s.updGrp g f).pending = s.pending := (rfl)
@[simp] theorem updGrp_out (s : State) (g : Nat) (f : Grp → Grp) : (s.updGrp g f).out = s.out := (rfl)
@[simp] theorem updGrp_fresh (s : State) (g : Nat) (f : Grp → Grp) : (s.updGrp g f).fresh = s.fresh := (rfl)
@[simp] theorem updGrp_epoch (s : State) (g : Nat) (f : Grp → Grp) : (s.updGrp g f).epoch = s.epoch := (rfl)
@[simp] theorem updGrp_regs (s : State) (g : Nat) (f : Grp → Grp) : (s.updGrp g f).regs = s.regs := (rfl)
@[simp] theorem updGrp_active (s : State) (g : Nat) (f : Grp → Grp) : (s.updGrp g f).active = s.active := (rfl)
@[simp] theorem updGrp_core (s : State) (g : Nat) (f : Grp → Grp) : (s.updGrp g f).core = s.core := (rfl)
@[simp] theorem updGrp_job (s : State) (g : Nat) (f : Grp → Grp) : (s.updGrp g f).job = s.job := (rfl)
@[simp] theorem updGrp_tb (s : State) (g : Nat) (f : Grp → Grp) : (s.updGrp g f).tb = s.tb := (rfl)
@[simp] theorem updGrp_cmd (s : State) (g : Nat) (f : Grp → Grp) : (s.updGrp g f).cmd = s.cmd := (rfl)
@[simp] theorem updGrp_loads (s : State) (g : Nat) (f : Grp → Grp) : (s.updGrp g f).loads = s.loads := (rfl)
@[simp] theorem updGrp_loaves (s : State) (g : Nat) (f : Grp → Grp) : (s.updGrp g f).loaves = s.loaves := (rfl)
@[simp] theorem updGrp_rows (s : State) (g : Nat) (f : Grp → Grp) : (s.updGrp g f).rows = s.rows := (rfl)
@[simp] theorem updGrp_plc (s : State) (g : Nat) (f : Grp → Grp) : (s.updGrp g f).plc = s.plc := (rfl)
@[simp] theorem updGrp_prf (s : State) (g : Nat) (f : Grp → Grp) : (s.updGrp g f).prf = s.prf := (rfl)
@[simp] theorem updGrp_hbm (s : State) (g : Nat) (f : Grp → Grp) : (s.updGrp g f).hbm = s.hbm := (rfl)
@[simp] theorem updGrp_mem (s : State) (g : Nat) (f : Grp → Grp) : (s.updGrp g f).mem = s.mem := (rfl)
@[simp] theorem updGrp_slc (s : State) (g : Nat) (f : Grp → Grp) : (s.updGrp g f).slc = s.slc := (rfl)
@[simp] theorem updGrp_lch (s : State) (g : Nat) (f : Grp → Grp) : (s.updGrp g f).lch = s.lch := (rfl)
@[simp] theorem updGrp_jnl (s : State) (g : Nat) (f : Grp → Grp) : (s.updGrp g f).jnl = s.jnl := (rfl)
@[simp] theorem updGrp_mot (s : State) (g : Nat) (f : Grp → Grp) : (s.updGrp g f).mot = s.mot := (rfl)
@[simp] theorem updGrp_cal (s : State) (g : Nat) (f : Grp → Grp) : (s.updGrp g f).cal = s.cal := (rfl)
@[simp] theorem updGrp_nvm (s : State) (g : Nat) (f : Grp → Grp) : (s.updGrp g f).nvm = s.nvm := (rfl)
@[simp] theorem updGrp_pair (s : State) (g : Nat) (f : Grp → Grp) : (s.updGrp g f).pair = s.pair := (rfl)
@[simp] theorem updGrp_pwr (s : State) (g : Nat) (f : Grp → Grp) : (s.updGrp g f).pwr = s.pwr := (rfl)
@[simp] theorem updGrp_tst (s : State) (g : Nat) (f : Grp → Grp) : (s.updGrp g f).tst = s.tst := (rfl)
@[simp] theorem updGrp_tap (s : State) (g : Nat) (f : Grp → Grp) : (s.updGrp g f).tap = s.tap := (rfl)
@[simp] theorem updGrp_boundary (s : State) (g : Nat) (f : Grp → Grp) : (s.updGrp g f).boundary = s.boundary := (rfl)
@[simp] theorem updGrp_pins (s : State) (g : Nat) (f : Grp → Grp) : (s.updGrp g f).pins = s.pins := (rfl)

@[simp] theorem updPc_pending (p : Nat) (f : Pc → Pc) (s : State) : (updPc p f s).pending = s.pending := (rfl)
@[simp] theorem updPc_out (p : Nat) (f : Pc → Pc) (s : State) : (updPc p f s).out = s.out := (rfl)
@[simp] theorem updPc_fresh (p : Nat) (f : Pc → Pc) (s : State) : (updPc p f s).fresh = s.fresh := (rfl)
@[simp] theorem updPc_epoch (p : Nat) (f : Pc → Pc) (s : State) : (updPc p f s).epoch = s.epoch := (rfl)
@[simp] theorem updPc_regs (p : Nat) (f : Pc → Pc) (s : State) : (updPc p f s).regs = s.regs := (rfl)
@[simp] theorem updPc_active (p : Nat) (f : Pc → Pc) (s : State) : (updPc p f s).active = s.active := (rfl)
@[simp] theorem updPc_core (p : Nat) (f : Pc → Pc) (s : State) : (updPc p f s).core = s.core := (rfl)
@[simp] theorem updPc_job (p : Nat) (f : Pc → Pc) (s : State) : (updPc p f s).job = s.job := (rfl)
@[simp] theorem updPc_tb (p : Nat) (f : Pc → Pc) (s : State) : (updPc p f s).tb = s.tb := (rfl)
@[simp] theorem updPc_cmd (p : Nat) (f : Pc → Pc) (s : State) : (updPc p f s).cmd = s.cmd := (rfl)
@[simp] theorem updPc_loads (p : Nat) (f : Pc → Pc) (s : State) : (updPc p f s).loads = s.loads := (rfl)
@[simp] theorem updPc_loaves (p : Nat) (f : Pc → Pc) (s : State) : (updPc p f s).loaves = s.loaves := (rfl)
@[simp] theorem updPc_rows (p : Nat) (f : Pc → Pc) (s : State) : (updPc p f s).rows = s.rows := (rfl)
@[simp] theorem updPc_plc (p : Nat) (f : Pc → Pc) (s : State) : (updPc p f s).plc = s.plc := (rfl)
@[simp] theorem updPc_prf (p : Nat) (f : Pc → Pc) (s : State) : (updPc p f s).prf = s.prf := (rfl)
@[simp] theorem updPc_hbm (p : Nat) (f : Pc → Pc) (s : State) : (updPc p f s).hbm = s.hbm := (rfl)
@[simp] theorem updPc_slc (p : Nat) (f : Pc → Pc) (s : State) : (updPc p f s).slc = s.slc := (rfl)
@[simp] theorem updPc_lch (p : Nat) (f : Pc → Pc) (s : State) : (updPc p f s).lch = s.lch := (rfl)
@[simp] theorem updPc_jnl (p : Nat) (f : Pc → Pc) (s : State) : (updPc p f s).jnl = s.jnl := (rfl)
@[simp] theorem updPc_mot (p : Nat) (f : Pc → Pc) (s : State) : (updPc p f s).mot = s.mot := (rfl)
@[simp] theorem updPc_lnk (p : Nat) (f : Pc → Pc) (s : State) : (updPc p f s).lnk = s.lnk := (rfl)
@[simp] theorem updPc_cal (p : Nat) (f : Pc → Pc) (s : State) : (updPc p f s).cal = s.cal := (rfl)
@[simp] theorem updPc_nvm (p : Nat) (f : Pc → Pc) (s : State) : (updPc p f s).nvm = s.nvm := (rfl)
@[simp] theorem updPc_pair (p : Nat) (f : Pc → Pc) (s : State) : (updPc p f s).pair = s.pair := (rfl)
@[simp] theorem updPc_pwr (p : Nat) (f : Pc → Pc) (s : State) : (updPc p f s).pwr = s.pwr := (rfl)
@[simp] theorem updPc_tst (p : Nat) (f : Pc → Pc) (s : State) : (updPc p f s).tst = s.tst := (rfl)
@[simp] theorem updPc_tap (p : Nat) (f : Pc → Pc) (s : State) : (updPc p f s).tap = s.tap := (rfl)
@[simp] theorem updPc_boundary (p : Nat) (f : Pc → Pc) (s : State) : (updPc p f s).boundary = s.boundary := (rfl)
@[simp] theorem updPc_pins (p : Nat) (f : Pc → Pc) (s : State) : (updPc p f s).pins = s.pins := (rfl)

@[simp] theorem updTile_pending (x : Tile) (f : Tile → Tile) (s : State) : (updTile x f s).pending = s.pending := (rfl)
@[simp] theorem updTile_out (x : Tile) (f : Tile → Tile) (s : State) : (updTile x f s).out = s.out := (rfl)
@[simp] theorem updTile_fresh (x : Tile) (f : Tile → Tile) (s : State) : (updTile x f s).fresh = s.fresh := (rfl)
@[simp] theorem updTile_epoch (x : Tile) (f : Tile → Tile) (s : State) : (updTile x f s).epoch = s.epoch := (rfl)
@[simp] theorem updTile_regs (x : Tile) (f : Tile → Tile) (s : State) : (updTile x f s).regs = s.regs := (rfl)
@[simp] theorem updTile_active (x : Tile) (f : Tile → Tile) (s : State) : (updTile x f s).active = s.active := (rfl)
@[simp] theorem updTile_core (x : Tile) (f : Tile → Tile) (s : State) : (updTile x f s).core = s.core := (rfl)
@[simp] theorem updTile_job (x : Tile) (f : Tile → Tile) (s : State) : (updTile x f s).job = s.job := (rfl)
@[simp] theorem updTile_tb (x : Tile) (f : Tile → Tile) (s : State) : (updTile x f s).tb = s.tb := (rfl)
@[simp] theorem updTile_cmd (x : Tile) (f : Tile → Tile) (s : State) : (updTile x f s).cmd = s.cmd := (rfl)
@[simp] theorem updTile_loads (x : Tile) (f : Tile → Tile) (s : State) : (updTile x f s).loads = s.loads := (rfl)
@[simp] theorem updTile_loaves (x : Tile) (f : Tile → Tile) (s : State) : (updTile x f s).loaves = s.loaves := (rfl)
@[simp] theorem updTile_rows (x : Tile) (f : Tile → Tile) (s : State) : (updTile x f s).rows = s.rows := (rfl)
@[simp] theorem updTile_prf (x : Tile) (f : Tile → Tile) (s : State) : (updTile x f s).prf = s.prf := (rfl)
@[simp] theorem updTile_hbm (x : Tile) (f : Tile → Tile) (s : State) : (updTile x f s).hbm = s.hbm := (rfl)
@[simp] theorem updTile_mem (x : Tile) (f : Tile → Tile) (s : State) : (updTile x f s).mem = s.mem := (rfl)
@[simp] theorem updTile_slc (x : Tile) (f : Tile → Tile) (s : State) : (updTile x f s).slc = s.slc := (rfl)
@[simp] theorem updTile_lch (x : Tile) (f : Tile → Tile) (s : State) : (updTile x f s).lch = s.lch := (rfl)
@[simp] theorem updTile_jnl (x : Tile) (f : Tile → Tile) (s : State) : (updTile x f s).jnl = s.jnl := (rfl)
@[simp] theorem updTile_mot (x : Tile) (f : Tile → Tile) (s : State) : (updTile x f s).mot = s.mot := (rfl)
@[simp] theorem updTile_lnk (x : Tile) (f : Tile → Tile) (s : State) : (updTile x f s).lnk = s.lnk := (rfl)
@[simp] theorem updTile_cal (x : Tile) (f : Tile → Tile) (s : State) : (updTile x f s).cal = s.cal := (rfl)
@[simp] theorem updTile_nvm (x : Tile) (f : Tile → Tile) (s : State) : (updTile x f s).nvm = s.nvm := (rfl)
@[simp] theorem updTile_pair (x : Tile) (f : Tile → Tile) (s : State) : (updTile x f s).pair = s.pair := (rfl)
@[simp] theorem updTile_pwr (x : Tile) (f : Tile → Tile) (s : State) : (updTile x f s).pwr = s.pwr := (rfl)
@[simp] theorem updTile_tst (x : Tile) (f : Tile → Tile) (s : State) : (updTile x f s).tst = s.tst := (rfl)
@[simp] theorem updTile_tap (x : Tile) (f : Tile → Tile) (s : State) : (updTile x f s).tap = s.tap := (rfl)
@[simp] theorem updTile_boundary (x : Tile) (f : Tile → Tile) (s : State) : (updTile x f s).boundary = s.boundary := (rfl)
@[simp] theorem updTile_pins (x : Tile) (f : Tile → Tile) (s : State) : (updTile x f s).pins = s.pins := (rfl)

@[simp] theorem updLoaf_pending (o : Nat) (f : Loaf → Loaf) (s : State) : (updLoaf o f s).pending = s.pending := (rfl)
@[simp] theorem updLoaf_out (o : Nat) (f : Loaf → Loaf) (s : State) : (updLoaf o f s).out = s.out := (rfl)
@[simp] theorem updLoaf_fresh (o : Nat) (f : Loaf → Loaf) (s : State) : (updLoaf o f s).fresh = s.fresh := (rfl)
@[simp] theorem updLoaf_epoch (o : Nat) (f : Loaf → Loaf) (s : State) : (updLoaf o f s).epoch = s.epoch := (rfl)
@[simp] theorem updLoaf_regs (o : Nat) (f : Loaf → Loaf) (s : State) : (updLoaf o f s).regs = s.regs := (rfl)
@[simp] theorem updLoaf_active (o : Nat) (f : Loaf → Loaf) (s : State) : (updLoaf o f s).active = s.active := (rfl)
@[simp] theorem updLoaf_core (o : Nat) (f : Loaf → Loaf) (s : State) : (updLoaf o f s).core = s.core := (rfl)
@[simp] theorem updLoaf_job (o : Nat) (f : Loaf → Loaf) (s : State) : (updLoaf o f s).job = s.job := (rfl)
@[simp] theorem updLoaf_tb (o : Nat) (f : Loaf → Loaf) (s : State) : (updLoaf o f s).tb = s.tb := (rfl)
@[simp] theorem updLoaf_cmd (o : Nat) (f : Loaf → Loaf) (s : State) : (updLoaf o f s).cmd = s.cmd := (rfl)
@[simp] theorem updLoaf_loads (o : Nat) (f : Loaf → Loaf) (s : State) : (updLoaf o f s).loads = s.loads := (rfl)
@[simp] theorem updLoaf_rows (o : Nat) (f : Loaf → Loaf) (s : State) : (updLoaf o f s).rows = s.rows := (rfl)
@[simp] theorem updLoaf_plc (o : Nat) (f : Loaf → Loaf) (s : State) : (updLoaf o f s).plc = s.plc := (rfl)
@[simp] theorem updLoaf_prf (o : Nat) (f : Loaf → Loaf) (s : State) : (updLoaf o f s).prf = s.prf := (rfl)
@[simp] theorem updLoaf_hbm (o : Nat) (f : Loaf → Loaf) (s : State) : (updLoaf o f s).hbm = s.hbm := (rfl)
@[simp] theorem updLoaf_mem (o : Nat) (f : Loaf → Loaf) (s : State) : (updLoaf o f s).mem = s.mem := (rfl)
@[simp] theorem updLoaf_slc (o : Nat) (f : Loaf → Loaf) (s : State) : (updLoaf o f s).slc = s.slc := (rfl)
@[simp] theorem updLoaf_lch (o : Nat) (f : Loaf → Loaf) (s : State) : (updLoaf o f s).lch = s.lch := (rfl)
@[simp] theorem updLoaf_jnl (o : Nat) (f : Loaf → Loaf) (s : State) : (updLoaf o f s).jnl = s.jnl := (rfl)
@[simp] theorem updLoaf_mot (o : Nat) (f : Loaf → Loaf) (s : State) : (updLoaf o f s).mot = s.mot := (rfl)
@[simp] theorem updLoaf_lnk (o : Nat) (f : Loaf → Loaf) (s : State) : (updLoaf o f s).lnk = s.lnk := (rfl)
@[simp] theorem updLoaf_cal (o : Nat) (f : Loaf → Loaf) (s : State) : (updLoaf o f s).cal = s.cal := (rfl)
@[simp] theorem updLoaf_nvm (o : Nat) (f : Loaf → Loaf) (s : State) : (updLoaf o f s).nvm = s.nvm := (rfl)
@[simp] theorem updLoaf_pair (o : Nat) (f : Loaf → Loaf) (s : State) : (updLoaf o f s).pair = s.pair := (rfl)
@[simp] theorem updLoaf_pwr (o : Nat) (f : Loaf → Loaf) (s : State) : (updLoaf o f s).pwr = s.pwr := (rfl)
@[simp] theorem updLoaf_tst (o : Nat) (f : Loaf → Loaf) (s : State) : (updLoaf o f s).tst = s.tst := (rfl)
@[simp] theorem updLoaf_tap (o : Nat) (f : Loaf → Loaf) (s : State) : (updLoaf o f s).tap = s.tap := (rfl)
@[simp] theorem updLoaf_boundary (o : Nat) (f : Loaf → Loaf) (s : State) : (updLoaf o f s).boundary = s.boundary := (rfl)
@[simp] theorem updLoaf_pins (o : Nat) (f : Loaf → Loaf) (s : State) : (updLoaf o f s).pins = s.pins := (rfl)

@[simp] theorem updSlice_pending (n : Nat) (f : Slice → Slice) (s : State) : (updSlice n f s).pending = s.pending := (rfl)
@[simp] theorem updSlice_out (n : Nat) (f : Slice → Slice) (s : State) : (updSlice n f s).out = s.out := (rfl)
@[simp] theorem updSlice_fresh (n : Nat) (f : Slice → Slice) (s : State) : (updSlice n f s).fresh = s.fresh := (rfl)
@[simp] theorem updSlice_epoch (n : Nat) (f : Slice → Slice) (s : State) : (updSlice n f s).epoch = s.epoch := (rfl)
@[simp] theorem updSlice_regs (n : Nat) (f : Slice → Slice) (s : State) : (updSlice n f s).regs = s.regs := (rfl)
@[simp] theorem updSlice_active (n : Nat) (f : Slice → Slice) (s : State) : (updSlice n f s).active = s.active := (rfl)
@[simp] theorem updSlice_core (n : Nat) (f : Slice → Slice) (s : State) : (updSlice n f s).core = s.core := (rfl)
@[simp] theorem updSlice_job (n : Nat) (f : Slice → Slice) (s : State) : (updSlice n f s).job = s.job := (rfl)
@[simp] theorem updSlice_tb (n : Nat) (f : Slice → Slice) (s : State) : (updSlice n f s).tb = s.tb := (rfl)
@[simp] theorem updSlice_cmd (n : Nat) (f : Slice → Slice) (s : State) : (updSlice n f s).cmd = s.cmd := (rfl)
@[simp] theorem updSlice_loads (n : Nat) (f : Slice → Slice) (s : State) : (updSlice n f s).loads = s.loads := (rfl)
@[simp] theorem updSlice_loaves (n : Nat) (f : Slice → Slice) (s : State) : (updSlice n f s).loaves = s.loaves := (rfl)
@[simp] theorem updSlice_rows (n : Nat) (f : Slice → Slice) (s : State) : (updSlice n f s).rows = s.rows := (rfl)
@[simp] theorem updSlice_plc (n : Nat) (f : Slice → Slice) (s : State) : (updSlice n f s).plc = s.plc := (rfl)
@[simp] theorem updSlice_prf (n : Nat) (f : Slice → Slice) (s : State) : (updSlice n f s).prf = s.prf := (rfl)
@[simp] theorem updSlice_hbm (n : Nat) (f : Slice → Slice) (s : State) : (updSlice n f s).hbm = s.hbm := (rfl)
@[simp] theorem updSlice_mem (n : Nat) (f : Slice → Slice) (s : State) : (updSlice n f s).mem = s.mem := (rfl)
@[simp] theorem updSlice_slc (n : Nat) (f : Slice → Slice) (s : State) : (updSlice n f s).slc = s.slc := (rfl)
@[simp] theorem updSlice_jnl (n : Nat) (f : Slice → Slice) (s : State) : (updSlice n f s).jnl = s.jnl := (rfl)
@[simp] theorem updSlice_mot (n : Nat) (f : Slice → Slice) (s : State) : (updSlice n f s).mot = s.mot := (rfl)
@[simp] theorem updSlice_lnk (n : Nat) (f : Slice → Slice) (s : State) : (updSlice n f s).lnk = s.lnk := (rfl)
@[simp] theorem updSlice_cal (n : Nat) (f : Slice → Slice) (s : State) : (updSlice n f s).cal = s.cal := (rfl)
@[simp] theorem updSlice_nvm (n : Nat) (f : Slice → Slice) (s : State) : (updSlice n f s).nvm = s.nvm := (rfl)
@[simp] theorem updSlice_pair (n : Nat) (f : Slice → Slice) (s : State) : (updSlice n f s).pair = s.pair := (rfl)
@[simp] theorem updSlice_pwr (n : Nat) (f : Slice → Slice) (s : State) : (updSlice n f s).pwr = s.pwr := (rfl)
@[simp] theorem updSlice_tst (n : Nat) (f : Slice → Slice) (s : State) : (updSlice n f s).tst = s.tst := (rfl)
@[simp] theorem updSlice_tap (n : Nat) (f : Slice → Slice) (s : State) : (updSlice n f s).tap = s.tap := (rfl)
@[simp] theorem updSlice_boundary (n : Nat) (f : Slice → Slice) (s : State) : (updSlice n f s).boundary = s.boundary := (rfl)
@[simp] theorem updSlice_pins (n : Nat) (f : Slice → Slice) (s : State) : (updSlice n f s).pins = s.pins := (rfl)

@[simp] theorem updRun_pending (f : Run → Run) (s : State) : (updRun f s).pending = s.pending := (rfl)
@[simp] theorem updRun_out (f : Run → Run) (s : State) : (updRun f s).out = s.out := (rfl)
@[simp] theorem updRun_fresh (f : Run → Run) (s : State) : (updRun f s).fresh = s.fresh := (rfl)
@[simp] theorem updRun_epoch (f : Run → Run) (s : State) : (updRun f s).epoch = s.epoch := (rfl)
@[simp] theorem updRun_regs (f : Run → Run) (s : State) : (updRun f s).regs = s.regs := (rfl)
@[simp] theorem updRun_active (f : Run → Run) (s : State) : (updRun f s).active = s.active := (rfl)
@[simp] theorem updRun_core (f : Run → Run) (s : State) : (updRun f s).core = s.core := (rfl)
@[simp] theorem updRun_job (f : Run → Run) (s : State) : (updRun f s).job = s.job := (rfl)
@[simp] theorem updRun_tb (f : Run → Run) (s : State) : (updRun f s).tb = s.tb := (rfl)
@[simp] theorem updRun_cmd (f : Run → Run) (s : State) : (updRun f s).cmd = s.cmd := (rfl)
@[simp] theorem updRun_loads (f : Run → Run) (s : State) : (updRun f s).loads = s.loads := (rfl)
@[simp] theorem updRun_loaves (f : Run → Run) (s : State) : (updRun f s).loaves = s.loaves := (rfl)
@[simp] theorem updRun_rows (f : Run → Run) (s : State) : (updRun f s).rows = s.rows := (rfl)
@[simp] theorem updRun_plc (f : Run → Run) (s : State) : (updRun f s).plc = s.plc := (rfl)
@[simp] theorem updRun_prf (f : Run → Run) (s : State) : (updRun f s).prf = s.prf := (rfl)
@[simp] theorem updRun_hbm (f : Run → Run) (s : State) : (updRun f s).hbm = s.hbm := (rfl)
@[simp] theorem updRun_mem (f : Run → Run) (s : State) : (updRun f s).mem = s.mem := (rfl)
@[simp] theorem updRun_slc (f : Run → Run) (s : State) : (updRun f s).slc = s.slc := (rfl)
@[simp] theorem updRun_jnl (f : Run → Run) (s : State) : (updRun f s).jnl = s.jnl := (rfl)
@[simp] theorem updRun_mot (f : Run → Run) (s : State) : (updRun f s).mot = s.mot := (rfl)
@[simp] theorem updRun_lnk (f : Run → Run) (s : State) : (updRun f s).lnk = s.lnk := (rfl)
@[simp] theorem updRun_cal (f : Run → Run) (s : State) : (updRun f s).cal = s.cal := (rfl)
@[simp] theorem updRun_nvm (f : Run → Run) (s : State) : (updRun f s).nvm = s.nvm := (rfl)
@[simp] theorem updRun_pair (f : Run → Run) (s : State) : (updRun f s).pair = s.pair := (rfl)
@[simp] theorem updRun_pwr (f : Run → Run) (s : State) : (updRun f s).pwr = s.pwr := (rfl)
@[simp] theorem updRun_tst (f : Run → Run) (s : State) : (updRun f s).tst = s.tst := (rfl)
@[simp] theorem updRun_tap (f : Run → Run) (s : State) : (updRun f s).tap = s.tap := (rfl)
@[simp] theorem updRun_boundary (f : Run → Run) (s : State) : (updRun f s).boundary = s.boundary := (rfl)
@[simp] theorem updRun_pins (f : Run → Run) (s : State) : (updRun f s).pins = s.pins := (rfl)

@[simp] theorem setScan_pending (x : ScanState) (s : State) : (setScan x s).pending = s.pending := (rfl)
@[simp] theorem setScan_out (x : ScanState) (s : State) : (setScan x s).out = s.out := (rfl)
@[simp] theorem setScan_fresh (x : ScanState) (s : State) : (setScan x s).fresh = s.fresh := (rfl)
@[simp] theorem setScan_epoch (x : ScanState) (s : State) : (setScan x s).epoch = s.epoch := (rfl)
@[simp] theorem setScan_regs (x : ScanState) (s : State) : (setScan x s).regs = s.regs := (rfl)
@[simp] theorem setScan_active (x : ScanState) (s : State) : (setScan x s).active = s.active := (rfl)
@[simp] theorem setScan_core (x : ScanState) (s : State) : (setScan x s).core = s.core := (rfl)
@[simp] theorem setScan_job (x : ScanState) (s : State) : (setScan x s).job = s.job := (rfl)
@[simp] theorem setScan_tb (x : ScanState) (s : State) : (setScan x s).tb = s.tb := (rfl)
@[simp] theorem setScan_cmd (x : ScanState) (s : State) : (setScan x s).cmd = s.cmd := (rfl)
@[simp] theorem setScan_loads (x : ScanState) (s : State) : (setScan x s).loads = s.loads := (rfl)
@[simp] theorem setScan_loaves (x : ScanState) (s : State) : (setScan x s).loaves = s.loaves := (rfl)
@[simp] theorem setScan_rows (x : ScanState) (s : State) : (setScan x s).rows = s.rows := (rfl)
@[simp] theorem setScan_plc (x : ScanState) (s : State) : (setScan x s).plc = s.plc := (rfl)
@[simp] theorem setScan_prf (x : ScanState) (s : State) : (setScan x s).prf = s.prf := (rfl)
@[simp] theorem setScan_hbm (x : ScanState) (s : State) : (setScan x s).hbm = s.hbm := (rfl)
@[simp] theorem setScan_mem (x : ScanState) (s : State) : (setScan x s).mem = s.mem := (rfl)
@[simp] theorem setScan_slc (x : ScanState) (s : State) : (setScan x s).slc = s.slc := (rfl)
@[simp] theorem setScan_lch (x : ScanState) (s : State) : (setScan x s).lch = s.lch := (rfl)
@[simp] theorem setScan_jnl (x : ScanState) (s : State) : (setScan x s).jnl = s.jnl := (rfl)
@[simp] theorem setScan_lnk (x : ScanState) (s : State) : (setScan x s).lnk = s.lnk := (rfl)
@[simp] theorem setScan_cal (x : ScanState) (s : State) : (setScan x s).cal = s.cal := (rfl)
@[simp] theorem setScan_nvm (x : ScanState) (s : State) : (setScan x s).nvm = s.nvm := (rfl)
@[simp] theorem setScan_pair (x : ScanState) (s : State) : (setScan x s).pair = s.pair := (rfl)
@[simp] theorem setScan_pwr (x : ScanState) (s : State) : (setScan x s).pwr = s.pwr := (rfl)
@[simp] theorem setScan_tst (x : ScanState) (s : State) : (setScan x s).tst = s.tst := (rfl)
@[simp] theorem setScan_tap (x : ScanState) (s : State) : (setScan x s).tap = s.tap := (rfl)
@[simp] theorem setScan_boundary (x : ScanState) (s : State) : (setScan x s).boundary = s.boundary := (rfl)
@[simp] theorem setScan_pins (x : ScanState) (s : State) : (setScan x s).pins = s.pins := (rfl)

@[simp] theorem setTrim_pending (s : State) (k i : Nat) (w : Word) : (s.setTrim k i w).pending = s.pending := (rfl)
@[simp] theorem setTrim_out (s : State) (k i : Nat) (w : Word) : (s.setTrim k i w).out = s.out := (rfl)
@[simp] theorem setTrim_fresh (s : State) (k i : Nat) (w : Word) : (s.setTrim k i w).fresh = s.fresh := (rfl)
@[simp] theorem setTrim_epoch (s : State) (k i : Nat) (w : Word) : (s.setTrim k i w).epoch = s.epoch := (rfl)
@[simp] theorem setTrim_regs (s : State) (k i : Nat) (w : Word) : (s.setTrim k i w).regs = s.regs := (rfl)
@[simp] theorem setTrim_active (s : State) (k i : Nat) (w : Word) : (s.setTrim k i w).active = s.active := (rfl)
@[simp] theorem setTrim_core (s : State) (k i : Nat) (w : Word) : (s.setTrim k i w).core = s.core := (rfl)
@[simp] theorem setTrim_job (s : State) (k i : Nat) (w : Word) : (s.setTrim k i w).job = s.job := (rfl)
@[simp] theorem setTrim_tb (s : State) (k i : Nat) (w : Word) : (s.setTrim k i w).tb = s.tb := (rfl)
@[simp] theorem setTrim_cmd (s : State) (k i : Nat) (w : Word) : (s.setTrim k i w).cmd = s.cmd := (rfl)
@[simp] theorem setTrim_loads (s : State) (k i : Nat) (w : Word) : (s.setTrim k i w).loads = s.loads := (rfl)
@[simp] theorem setTrim_loaves (s : State) (k i : Nat) (w : Word) : (s.setTrim k i w).loaves = s.loaves := (rfl)
@[simp] theorem setTrim_rows (s : State) (k i : Nat) (w : Word) : (s.setTrim k i w).rows = s.rows := (rfl)
@[simp] theorem setTrim_plc (s : State) (k i : Nat) (w : Word) : (s.setTrim k i w).plc = s.plc := (rfl)
@[simp] theorem setTrim_prf (s : State) (k i : Nat) (w : Word) : (s.setTrim k i w).prf = s.prf := (rfl)
@[simp] theorem setTrim_hbm (s : State) (k i : Nat) (w : Word) : (s.setTrim k i w).hbm = s.hbm := (rfl)
@[simp] theorem setTrim_mem (s : State) (k i : Nat) (w : Word) : (s.setTrim k i w).mem = s.mem := (rfl)
@[simp] theorem setTrim_slc (s : State) (k i : Nat) (w : Word) : (s.setTrim k i w).slc = s.slc := (rfl)
@[simp] theorem setTrim_lch (s : State) (k i : Nat) (w : Word) : (s.setTrim k i w).lch = s.lch := (rfl)
@[simp] theorem setTrim_jnl (s : State) (k i : Nat) (w : Word) : (s.setTrim k i w).jnl = s.jnl := (rfl)
@[simp] theorem setTrim_mot (s : State) (k i : Nat) (w : Word) : (s.setTrim k i w).mot = s.mot := (rfl)
@[simp] theorem setTrim_lnk (s : State) (k i : Nat) (w : Word) : (s.setTrim k i w).lnk = s.lnk := (rfl)
@[simp] theorem setTrim_nvm (s : State) (k i : Nat) (w : Word) : (s.setTrim k i w).nvm = s.nvm := (rfl)
@[simp] theorem setTrim_pair (s : State) (k i : Nat) (w : Word) : (s.setTrim k i w).pair = s.pair := (rfl)
@[simp] theorem setTrim_pwr (s : State) (k i : Nat) (w : Word) : (s.setTrim k i w).pwr = s.pwr := (rfl)
@[simp] theorem setTrim_tst (s : State) (k i : Nat) (w : Word) : (s.setTrim k i w).tst = s.tst := (rfl)
@[simp] theorem setTrim_tap (s : State) (k i : Nat) (w : Word) : (s.setTrim k i w).tap = s.tap := (rfl)
@[simp] theorem setTrim_boundary (s : State) (k i : Nat) (w : Word) : (s.setTrim k i w).boundary = s.boundary := (rfl)
@[simp] theorem setTrim_pins (s : State) (k i : Nat) (w : Word) : (s.setTrim k i w).pins = s.pins := (rfl)

end Sys2Proof.Machine
end

