-- ==== Sys2Proof/Laws/Slices.lean ====
section
/-!
SUPPORT. What a slice build does to the slicer: after it the next slice to be built is the one that follows. The journal, the messages to
the partner and the stop of a loaf leave the slicer as it is.
-/
namespace Sys2Proof.Machine

theorem checkElig_slc (s : State) : (checkElig s).slc = s.slc := by simp [checkElig]
theorem sendPeer_slc (op : Nat) (w : List Word) (s : State) : (sendPeer op w s).2.slc = s.slc := (rfl)
theorem sendJnl_slc (e : JEnt) (s : State) : (sendJnl e s).slc = s.slc := by
  unfold sendJnl; split <;> rfl
theorem wakeMemory_slc (s : State) : (wakeMemory s).slc = s.slc := by unfold wakeMemory; split <;> rfl
theorem post_slc (l : List TxnPost) (s : State) : (post l s).slc = s.slc := by
  unfold post; split
  · rfl
  · exact wakeMemory_slc s
theorem postTable_slc (t : Nat) (w : Bool) (s : State) : (postTable t w s).slc = s.slc := post_slc _ _
theorem storeEnt_slc (e : JEnt) (s : State) : (storeEnt e s).slc = s.slc := by unfold storeEnt; simp [postTable_slc]
theorem flushDropped_slc (s : State) : (flushDropped s).slc = s.slc := by
  unfold flushDropped; dsimp only; split <;> simp [storeEnt_slc]
theorem commitEnt_slc (e : JEnt) (s : State) : (commitEnt e s).slc = s.slc := by
  unfold commitEnt; dsimp only; rw [sendJnl_slc]; split <;> simp [storeEnt_slc, flushDropped_slc]
theorem commitAll_slc (l : List JEnt) (s : State) : (commitAll l s).slc = s.slc := by
  unfold commitAll
  induction l generalizing s with
  | nil => rfl
  | cons e l ih => rw [List.foldl_cons, ih, commitEnt_slc]
theorem recordRange_slc (r : JEnt) (s : State) : (recordRange r s).slc = s.slc := by
  unfold recordRange
  split
  · rw [sendJnl_slc]
  · split
    · dsimp only; split
      · rfl
      · rw [sendJnl_slc]
    · dsimp only; rw [sendJnl_slc, commitEnt_slc]
theorem ite_slc (c : Prop) [Decidable c] (a b : State) (x : Slc) (ha : a.slc = x) (hb : b.slc = x) : (if c then a else b).slc = x := by
  split <;> assumption
theorem recordDiff_slc (b : Bool) (lane ord pos : Nat) (s : State) : (recordDiff b lane ord pos s).slc = s.slc := by
  unfold recordDiff; split <;> simp only [setFld_slc]
theorem pairDiffer_slc (b : Bool) (lane ord pos : Nat) (s : State) : (pairDiffer b lane ord pos s).slc = s.slc := by
  unfold pairDiffer; split
  · rfl
  · rw [checkElig_slc, recordDiff_slc, raise_slc]
theorem meetSlices_slc (a b : PeerSlice) (s : State) : (meetSlices a b s).slc = s.slc := by
  unfold meetSlices; split
  · split <;> simp [pairDiffer_slc]
  · rfl
theorem tellSlice_slc (x : PeerSlice) (s : State) : (tellSlice x s).slc = s.slc := by
  unfold tellSlice; split
  · rfl
  · dsimp only; split <;> simp [meetSlices_slc, sendPeer_slc]
theorem closeAt_slc (r : JEnt) (s : State) : (closeAt r s).slc = s.slc := commitAll_slc _ _
theorem recordCancelled_slc (c : Nat) (r : Run) (n1 n2 : Nat) (s : State) : (recordCancelled c r n1 n2 s).slc = s.slc := by
  unfold recordCancelled; split
  · rfl
  · dsimp only; rw [recordRange_slc, closeAt_slc]
theorem commitUnreached_slc (c : Nat) (r : Run) (n1 n2 : Nat) (s : State) : (commitUnreached c r n1 n2 s).slc = s.slc := by
  unfold commitUnreached; split
  · rfl
  · dsimp only; rw [commitEnt_slc, closeAt_slc]
theorem closeDisplace_slc (n : Nat) (s : State) : (closeDisplace n s).slc = s.slc := by
  unfold closeDisplace; split
  · dsimp only; split
    · split
      · rw [updRun_slc, recordCancelled_slc]
      · rw [recordCancelled_slc]
    · rfl
  · rfl
theorem sendBlocks_slc (g k : Nat) (l : List (List Byte)) (s : State) :
    (l.foldl (fun s p => sendBlock g k false p s) s).slc = s.slc := by
  induction l generalizing s with
  | nil => rfl
  | cons p l ih => rw [List.foldl_cons, ih]; rfl
theorem emitSlice_slc (g k : Nat) (l : List (List Byte)) (s : State) : (emitSlice g k l s).slc = s.slc := by
  unfold emitSlice; split
  · rfl
  · exact sendBlocks_slc _ _ _ _
theorem flushLane_slc (g k : Nat) (s : State) : (flushLane g k s).slc = s.slc := by
  unfold flushLane; split
  · rw [emitSlice_slc]; rfl
  · rfl
theorem cutLane_slc (g k : Nat) (s : State) : (cutLane g k s).slc = s.slc := by
  unfold cutLane; split
  · unfold emitCut; dsimp only; split
    · rfl
    · rw [sendBlocks_slc]; rfl
  · rfl
theorem sendCtl_slc (g k : Nat) (p : List Byte) (s : State) : (sendCtl g k p s).slc = s.slc := by
  unfold sendCtl; dsimp only; split
  · exact flushLane_slc _ _ _
  · exact flushLane_slc _ _ _
theorem sendOnActive_slc (lam : Nat) (p : List Byte) (s : State) : (sendOnActive lam p s).slc = s.slc := by
  unfold sendOnActive; dsimp only; split
  · rfl
  · exact sendCtl_slc _ _ _ _
theorem sendCancel_slc (ord first : Nat) (s : State) : (sendCancel ord first s).slc = s.slc := by
  unfold sendCancel; split
  · rfl
  · rename_i h; clear h
    generalize List.range (jobLanes s) = l
    induction l generalizing s with
    | nil => rfl
    | cons a l ih => rw [List.foldl_cons, ih]; simp only [List.foldl_cons, List.foldl_nil, sendOnActive_slc, cutLane_slc]
theorem stopMoves_slc (p : Nat → Bool) (s : State) : (stopMoves p s).slc = s.slc := (rfl)
theorem stopScanAt_slc (t : Rat) (s : State) : (stopScanAt t s).slc = s.slc := ite_slc _ _ _ _ rfl rfl
theorem stopScan_slc (q : Nat) (s : State) : (stopScan q s).slc = s.slc := stopScanAt_slc _ _
theorem stopWith_slc (cause first : Nat) (s : State) : (stopWith cause first s).slc = s.slc := by
  have d (n : Nat) (t : State) : (dropSlices n t).slc = t.slc := rfl
  unfold stopWith
  split
  · rfl
  · split
    · rfl
    · dsimp only
      rw [setScan_slc]
      have e : ∀ t : State, t.slc = s.slc → (match t.mot.scan.state with
        | .approach => stopMoves (· == 1) t
        | .pause => { t with mot := { t.mot with scan := { t.mot.scan with stopping := true } } }
        | .none | .ready | .run | .hold | .leadout => stopScan (lFirstOf first s) t).slc = s.slc := by
        intro t h; split <;> simp only [stopMoves_slc, stopScan_slc, h]
      refine e _ ?_
      rw [d, updRun_slc]
      split
      · rw [raise_slc, setFld_slc, sendCancel_slc, closeDisplace_slc]
      · rw [commitUnreached_slc]; split
        · rw [recordCancelled_slc, raise_slc, setFld_slc, sendCancel_slc, closeDisplace_slc]
        · rw [raise_slc, setFld_slc, sendCancel_slc, closeDisplace_slc]

theorem askSlice_slc (l : Loaf) (n : Nat) (s : State) : (askSlice l n s).slc = s.slc := post_slc _ _

/-- R225, R276: after a build the slicer goes on with the slice that follows. -/
theorem buildSlice_next (r : Run) (l : Loaf) (s : State) : (buildSlice r l s).slc.next = s.slc.next + 1 := by
  have k : ∀ (c : Prop) [Decidable c] (a b : State) (n : Nat), a.slc.next = n → b.slc.next = n → (if c then a else b).slc.next = n := by
    intro c _ a b n ha hb; split <;> assumption
  unfold buildSlice
  dsimp only
  have t (x : PeerSlice) (u : State) (n : Nat) (h : u.slc.next = n) : (tellSlice x u).slc.next = n := by rw [tellSlice_slc]; exact h
  apply k
  · apply t; rw [setFld_slc, askSlice_slc]
  · apply k
    · rw [stopWith_slc, raise_slc]; apply k
      · rw [recordRange_slc]; apply t; rw [setFld_slc, askSlice_slc]
      · apply t; rw [setFld_slc, askSlice_slc]
    · rw [commitAll_slc]; apply k
      · rw [recordRange_slc]; apply t; rw [setFld_slc, askSlice_slc]
      · apply t; rw [setFld_slc, askSlice_slc]

end Sys2Proof.Machine
end

