-- ==== Sys2Proof/Tests/Slice0.lean ====
section
/-!
SUPPORT. Tests of the model: ill-formed commands, worked examples of the spec, and for every statement with hypotheses a state and
operands that meet them (a witness for each clause, in the order of the clauses).
-/
namespace Sys2Proof.Tests
set_option Elab.async false
open Sys2Proof Sys2Proof.Machine

/-! Ill-formed commands are refused. -/

theorem test_payload_of_4096_words_is_ill_formed : (Instr.nop .host ⟨0, 0⟩ (List.replicate 4096 0)).wellFormed = false := by decide +kernel
theorem test_payload_of_4095_words_is_well_formed : (Instr.nop .host ⟨0, 0⟩ (List.replicate 4095 0)).wellFormed = true := by decide +kernel
theorem test_aligned_write_is_not_non_aligned : (Instr.nonAlignedWrite 0x28 8).wellFormed = false := by decide
theorem test_write_in_a_block_is_not_out_of_block : (Instr.outOfBlockWrite 0x6FF8 0).wellFormed = false := by decide
theorem test_write_behind_a_block_is_out_of_block : (Instr.outOfBlockWrite 0x7000 0).wellFormed = true := by decide
theorem test_aligned_four_byte_read_is_no_malformed_read : (Instr.malformedRead 0x2C 4).wellFormed = false := by decide
theorem test_misaligned_register_write_is_ill_formed : (Instr.registerWrite .host 0x2C 0).wellFormed = false := by decide
theorem test_ring_without_words_is_ill_formed : (Instr.hostRequestTake []).wellFormed = false := by decide
theorem test_frame_without_bytes_is_ill_formed : (Instr.serviceFrame []).wellFormed = false := by decide
theorem test_transaction_past_the_end_is_ill_formed : (Instr.transactionAccept 0 0 0x2FFFFFE0 2 0 false).wellFormed = false := by decide
theorem test_transaction_at_the_end_is_well_formed : (Instr.transactionAccept 0 0 0x2FFFFFE0 1 0 false).wellFormed = true := by decide
theorem test_write_of_a_reading_port_is_ill_formed : (Instr.transactionAccept 0 0 0 1 0 true).wellFormed = false := by decide
theorem test_kneader_named_twice_is_ill_formed : (Instr.tileComplete [3, 3]).wellFormed = false := by decide
theorem test_frame_that_leaves_before_it_comes_is_ill_formed :
    (Instr.transparentClockForward 0 ⟨true, false, false, 0, 0, []⟩ 5 4).wellFormed = false := by decide
theorem test_rates_of_63_clusters_are_ill_formed : (Instr.avsPeriod (List.replicate 63 0) true).wellFormed = false := by decide +kernel

/-! States that the witnesses stand on. -/

/-- The device booted, in IDLE, with the HOST ring on. -/
def idle : State :=
  { State.reset with
    core := .idle, cmd := { Cmd.reset with uart := true }, pwr := { Pwr.reset with clOn := 64, driving := true },
    nvm := { flash := [], jobs := [], jnlErased := true }, pins := { State.reset.pins with resetN := false } }.setFld F.CMD_Q_CTL_EN 1

/-- The same with both locks held by HOST and SERVICE. -/
def locked : State :=
  { idle with cmd := { idle.cmd with exp := some { port := .host, ms := 20, deadline := 8000000 },
                                     cal := some { port := .service, ms := 2000, deadline := 800000000 } } }

/-- A job of 131,072 beams is open. -/
def inJob : State := { locked with core := .job, job := some { beams := 1, pitch := 64, id := 7, nextOrd := 1, closing := false } }

theorem live_of {s : State} (h : heldInReset s = false) : s.live := h
/-- A request that passes the checks of R380. -/
theorem starts_of {r : Req} {s : State} (h : portUp r.port s = true ∧ ringRoom r s = true ∧ inFlight r.port r.tag s = false ∧ s.core ≠ .boot ∧
    (flightsOf r.port s).length < flightLimit r.port ∧ (r.fence = false ∨ flightsOf r.port s = []) ∧
    firstFailure r (s.taken r) = none) : Starts r s := h

theorem idle_live : idle.live := (by decide +kernel : heldInReset idle = false)
theorem locked_live : locked.live := (by decide +kernel : heldInReset locked = false)
theorem inJob_live : inJob.live := (by decide +kernel : heldInReset inJob = false)

/-- The row of a register. -/
def rowOf (a : Nat) : RegRow := (regRow a).getD ⟨0, 0, 0, []⟩

/-- Does a command answer a next state with a property? -/
def nextHas (o : Host.Outcome State Fault Refusal) (p : State → Bool) : Bool :=
  match o with
  | .next t => p t
  | _ => false

/-! Worked examples of the spec. -/

/-- R410: the header and payload of the LOCK_ACQUIRE example, packed by R48. -/
theorem test_lock_acquire_group : packWords [0x200140040#36, 0x001F40000#36] = [0x40, 0x00, 0x14, 0x00, 0x02, 0x00, 0x40, 0x1F, 0x00] := by
  decide
/-- R410: the packet of the example acquires the exposure lock for 500 ms and is answered OK. -/
theorem test_lock_acquire_example : nextHas (exec (.lockAcquire .host ⟨5, 0⟩ [0x001F40000#36]) idle) (fun t =>
    t.cmd.exp == some ⟨.host, 500, 200000000⟩ && t.out.contains (.reply .host 5 0x20 0 [])) = true := by decide +kernel
/-- R56: the check value of the nine ASCII bytes. -/
theorem test_crc_of_nine_bytes : crc32c [0x31, 0x32, 0x33, 0x34, 0x35, 0x36, 0x37, 0x38, 0x39] = 0xE3069283#32 := by decide +kernel
/-- R20: −100 nm is −6,400 steps, 0xF_FFFF_E700. -/
theorem test_position_word : (BitVec.ofInt 36 (-6400)).toNat = 0xFFFFFE700 := by decide
/-- R41: GLB_ID reads the IDCODE. -/
theorem test_idcode : regValue A.GLB_ID State.reset = 0x01524A1C5#36 := by decide +kernel

/-! RepliesCarryPayloadAndRegisters. -/

theorem witness_nop : Starts (mkReq .service ⟨0x3FE, 1⟩ 0x01 [1, 2]) idle := starts_of (by decide +kernel)
theorem witness_reg_read : Starts (mkReq .host ⟨0, 0⟩ 0x02 [0xFFFF8]) idle ∧ (∀ i, i < 1 → captured .host (0x7FFF8 + 8 * i) idle = none) ∧
    wbits (0xFFFF8#36) 30 19 = 1 ∧ wbits (0xFFFF8#36) 18 0 = 0x7FFF8 := ⟨starts_of (by decide +kernel), by decide +kernel⟩

/-! RegisterWritesStoreTheirFields. -/

/-- A register with one plain field. -/
def scratch : RegRow := rowOf A.GLB_SCRATCH
theorem write_taken {p : Port} {a : Nat} {r : RegRow} {v : Word} {s : State} (h : regRow a = some r ∧ storesOnly a = true ∧
    writeRight p a s = none ∧ refusesWhole a v s = false ∧ ∀ f ∈ r.fields, f.acc = .rw ∨ f.acc = .sh →
      f.rng.ok (wbits v f.hi f.lo) = true ∧ valueOk a f v s = true)
    (k : ∀ w, relationOk a w s = true) : WriteTaken p a r v s :=
  ⟨h.1, h.2.1, h.2.2.1, h.2.2.2.1, h.2.2.2.2, fun w _ => k w⟩
theorem witness_register_write : WriteTaken .service A.GLB_SCRATCH scratch 0xFFFFFFFFF idle :=
  write_taken (by decide +kernel) fun _ => rfl
theorem witness_reg_write : Starts (mkReq .host ⟨1, 0⟩ 0x03 [0x80028, 5]) idle ∧ WriteTaken .host A.GLB_SCRATCH scratch 5 idle :=
  ⟨starts_of (by decide +kernel), write_taken (by decide +kernel) fun _ => rfl⟩
theorem witness_reg_modify : Starts (mkReq .host ⟨1, 0⟩ 0x04 [0x28, 1, 1]) idle ∧ captured .host A.GLB_SCRATCH idle = none ∧
    (∀ f ∈ scratch.fields, f.acc ≠ .w1c ∧ f.acc ≠ .wo) ∧ WriteTaken .host A.GLB_SCRATCH scratch
      ((regValue 0x28 (idle.taken (mkReq .host ⟨1, 0⟩ 0x04 [0x28, 1, 1])) &&& ~~~1) ||| 1) idle :=
  ⟨starts_of (by decide +kernel), by decide +kernel, by decide +kernel, write_taken (by decide +kernel) fun _ => rfl⟩

/-! OldestRecordsAndEntriesAreRead. -/

theorem witness_event_read : Starts (mkReq .service ⟨1, 0⟩ 0x70 [1]) idle ∧ wbits (1#36) 9 0 ≠ 0 := ⟨starts_of (by decide +kernel), by decide⟩
theorem witness_journal_read : Starts (mkReq .host ⟨1, 0⟩ 0x18 [0x3FF]) idle ∧ wbits (0x3FF#36) 17 17 = 0 :=
  ⟨starts_of (by decide +kernel), by decide⟩
theorem witness_journal_consume : Starts (mkReq .host ⟨1, 0⟩ 0x18 [0x20001]) locked ∧ wbits (0x20001#36) 17 17 = 1 ∧
    locked.nvm.jnlErased = true ∧ locked.mem.jnlBad = false := ⟨starts_of (by decide +kernel), by decide, by decide +kernel⟩
/-- The journal has failed in both copies. -/
def spoiled : State := { locked with mem := { locked.mem with jnlBad := true } }
theorem witness_journal_spoiled : Starts (mkReq .host ⟨1, 0⟩ 0x18 [0x20001]) spoiled ∧ spoiled.nvm.jnlErased = true ∧ spoiled.mem.jnlBad = true :=
  ⟨starts_of (by decide +kernel), by decide +kernel⟩

/-! Locks. -/

theorem witness_acquire_exposure : Starts (mkReq .host ⟨5, 0⟩ 0x20 [0x140000]) idle ∧ leaseOver 0 idle = false ∧
    leaseOver 1 idle = false ∧ holds .host 1 idle = false ∧ lockOf 0 idle = none ∧
    wbits (0x140000#36) 26 16 = 20 := ⟨starts_of (by decide +kernel), by decide +kernel⟩
theorem witness_acquire_calibration : Starts (mkReq .service ⟨5, 0⟩ 0x20 [0x7D00001]) idle ∧ calRight .service idle = true ∧
    lockOf 1 idle = none ∧ wbits (0x7D00001#36) 26 16 = 2000 ∧ wbits (0x7D00001#36) 0 0 = 1 :=
  ⟨starts_of (by decide +kernel), by decide +kernel⟩
theorem witness_release : Starts (mkReq .host ⟨5, 0⟩ 0x21 [0]) locked ∧ leaseOver 0 locked = false ∧
    leaseOver 1 locked = false ∧ holds .host 0 locked = true := ⟨starts_of (by decide +kernel), by decide +kernel⟩
theorem witness_release_not_held : Starts (mkReq .host ⟨5, 0⟩ 0x21 [1]) locked ∧ holds .host 1 locked = false :=
  ⟨starts_of (by decide +kernel), by decide +kernel⟩
theorem witness_renew : Starts (mkReq .host ⟨5, 0⟩ 0x22 [3]) locked ∧ wbits (3#36) 1 0 ≠ 0 := ⟨starts_of (by decide +kernel), by decide⟩
/-- Both leases have reached their deadlines. -/
def overdue : State := { locked with tb := { locked.tb with ticks := 800000000 } }
theorem overdue_live : overdue.live := (by decide +kernel : heldInReset overdue = false)
theorem witness_lease_not_over : locked.live ∧ leaseOver 0 locked = false ∧ leaseOver 1 locked = false := ⟨locked_live, by decide +kernel⟩
theorem witness_exposure_expires : leaseOver 0 overdue = true ∧ overdue.core ≠ .exposing ∧ overdue.loads = [] ∧
    overdue.mot.arm = none ∧ overdue.mot.home = none ∧ overdue.job = none ∧ overdue.mem.startHold = none ∧ overdue.pair.armWait = none ∧
    overdue.pair.startWait = none ∧ overdue.pair.join = none ∧ overdue.pair.handing = none ∧ overdue.cmd.flight = [] := by decide +kernel
theorem witness_calibration_expires : leaseOver 1 overdue = true ∧ overdue.cal.waiting = [] ∧ overdue.cal.capt = none ∧
    overdue.cal.rxoff = none ∧ overdue.nvm.jobs = [] := by decide +kernel

/-! RefusedRequestsChangeNothing. -/

theorem witness_refused : requestOf (.nop .host ⟨0, 2⟩ []) = some (mkReq .host ⟨0, 2⟩ 0x01 []) ∧ Arrives (mkReq .host ⟨0, 2⟩ 0x01 []) idle ∧
    firstFailure (mkReq .host ⟨0, 2⟩ 0x01 []) (idle.taken (mkReq .host ⟨0, 2⟩ 0x01 [])) = some 0x05 :=
  ⟨rfl, (by decide +kernel : _ ∧ _ ∧ _ ∧ (_ ∨ _)), by decide +kernel⟩
theorem witness_refused_in_boot : portUp .service { idle with core := .boot } = true ∧ State.live { idle with core := .boot } ∧
    inFlight .service 0 { idle with core := .boot } = false :=
  ⟨by decide +kernel, (by decide +kernel : heldInReset { idle with core := .boot } = false), by decide +kernel⟩
/-- A device with a command in flight. -/
def flying : State := { idle with cmd := { idle.cmd with flight := [⟨.host, 0, 0x12, []⟩] } }
theorem witness_duplicate_tag : portUp .host flying = true ∧ ringRoom (mkReq .host ⟨0, 0⟩ 0x12 []) flying = true ∧
    inFlight .host 0 flying = true := by decide +kernel
/-- The completion ring has one group. -/
def narrow : State := idle.setFld F.CMD_Q_CTL_CQ_LOG2 0
theorem witness_no_room : portUp .partner idle = false ∧ ringRoom (mkReq .host ⟨0, 0⟩ 0x01 [1, 2]) narrow = false := by decide +kernel
theorem witness_fn_of_another_port : Starts (mkReq .host ⟨5, 0⟩ 0x60 [setBits (0#36) 35 32 1, 0, 0, 0, 0, 0]) idle ∧
    fnFrom (mkReq .host ⟨5, 0⟩ 0x60 [setBits (0#36) 35 32 1, 0, 0, 0, 0, 0]) = false := ⟨starts_of (by decide +kernel), by decide +kernel⟩

/-! Jobs and loaves. -/

/-- Groups 0 to 3 up with every lane carried. -/
def linked : State :=
  { locked with lnk := { locked.lnk with groups := [0, 1, 2, 3].map fun g =>
      (g, { Grp.reset with up := true, clkOn := true, trained := 511, map := [0, 1, 2, 3, 4, 5, 6, 7], clkLock := true }) } }
theorem linked_live : linked.live := (by decide +kernel : heldInReset linked = false)
theorem witness_job_open : Starts (mkReq .host ⟨0, 0⟩ 0x10 [0x40040, 9]) linked ∧ wbits (0x40040#36) 19 18 = 1 ∧ wbits (0x40040#36) 17 0 = 64 ∧
    linked.nvm.jnlErased = true ∧ linked.cal.capt = none ∧ linked.tst.bist = false ∧ retiredCount linked ≤ 4 ∧
    (∀ g, g < lanesOf 1 / 8 → (linked.grp g).up = true) ∧ linked.pwr.clOn = 64 ∧ linked.pwr.enabling = false ∧ linked.mem.sr = .awake ∧
    linked.cmd.held = [] ∧ flightsOp .host 0x10 linked = [] := ⟨starts_of (by decide +kernel), by decide +kernel⟩
theorem witness_job_close : Starts (mkReq .host ⟨0, 0⟩ 0x11 []) inJob ∧ inJob.job = some ⟨1, 64, 7, 1, false⟩ ∧ inJob.lch.run = none ∧
    inJob.loads = [] ∧ inJob.mot.arm = none ∧ inJob.pair.armWait = none ∧ inJob.cmd.held = [] ∧ flightsOp .host 0x11 inJob = [] :=
  ⟨starts_of (by decide +kernel), by decide +kernel⟩
theorem witness_loaf_load : Starts (mkReq .host ⟨0, 0⟩ 0x12 [1, 0x1000, 0, 1]) inJob ∧ closing inJob = false ∧
    extents [0x1000, 0, 1] = [(0x1000, 1)] := ⟨starts_of (by decide +kernel), by decide +kernel⟩

/-- The bytes of a segment: its words and SEG_END with their CRC (R48, R55). -/
def segBytesOf (w : List Word) (c : Word) : List Byte := packWords w ++ packGroup 0x2C0010000 c
/-- The words of a loaf header of one row (R58). -/
def headerWords : List Word := [0x040040000, 0x010000005, 1, 0, 0, 0x080560000] ++ List.replicate 86 0
/-- The words of row 0 with 32 empty tiles (R54). -/
def rowWords : List Word := [0x200010000, 3, 0x240410000] ++ List.replicate 65 0 ++
  (List.range 32).flatMap fun c => [BitVec.ofNat 36 (0x280010000 + c), 0]
/-- A LOAF_LOAD that has exactly this segment left. -/
def loadOf (n : Nat) : Load := { tag := 0, exts := [], left := n, taken := 0, first := true, checkFail := false, fault := none, seg := none, drop := false }
/-- A loaf that is being loaded or held. -/
def loaf : Loaf := { ord := 0, id := 5, dir := false, rows := 1, ox := 0, oy := 0, factors := [], level := 0, half := 0, nextRow := 0, costs := [],
                     winFront := 0, discard := false, blocked := false }
theorem header_length : (segBytesOf headerWords 0x9034186A).length = 423 := by decide +kernel
theorem row_length : (segBytesOf rowWords 0x5070FC3D).length = 603 := by decide +kernel
theorem header_inflates : inflate [] (storedSeg (segBytesOf headerWords 0x9034186A)) = ⟨segBytesOf headerWords 0x9034186A, 8 * 428, none⟩ := by
  have h := (inflate_storedSeg (segBytesOf headerWords 0x9034186A) (by rw [header_length]; decide) (by rw [header_length]; decide)).1
  rwa [header_length] at h
theorem row_inflates : inflate [] (storedSeg (segBytesOf rowWords 0x5070FC3D)) = ⟨segBytesOf rowWords 0x5070FC3D, 8 * 608, none⟩ := by
  have h := (inflate_storedSeg (segBytesOf rowWords 0x5070FC3D) (by rw [row_length]; decide) (by rw [row_length]; decide)).1
  rwa [row_length] at h
/-- The CRC with each step worked out before the next. -/
def crcNow : List Byte → BitVec 32 → BitVec 32
  | [], c => c
  | b :: l, c => match (crcByte c b).toNat with
    | 0 => crcNow l 0
    | n + 1 => crcNow l (BitVec.ofNat 32 (n + 1))
theorem crcNow_eq (l : List Byte) (c : BitVec 32) : crcNow l c = l.foldl crcByte c := by
  induction l generalizing c with
  | nil => rfl
  | cons b l ih =>
    rw [crcNow, List.foldl_cons]
    split <;> rename_i h <;> rw [ih] <;> congr 1 <;> apply BitVec.eq_of_toNat_eq <;> rw [h]
    · rfl
    · rw [BitVec.toNat_ofNat, Nat.mod_eq_of_lt]; have := (crcByte c b).isLt; omega
theorem header_crc : crc32c (packWords headerWords) = 0x9034186A#32 := by rw [crc32c, ← crcNow_eq]; decide +kernel
theorem row_crc : crc32c (packWords rowWords) = 0x5070FC3D#32 := by rw [crc32c, ← crcNow_eq]; decide +kernel
/-- The end of a segment whose CRC is right. -/
theorem finish_ok (s : Stream) (n i x : Nat) (w : Word) (h : s.record i = .ok (0x0B, x, [w])) (e : i % 2 = 0)
    (c : wbits w 31 0 = (crc32c (s.bytes.take (9 * (i / 2)))).toNat) (l : s.ws.length ≤ i + 2) (f : s.fault = none) :
    s.finish (n + 1) i = .ok () := by
  have l' : ¬ i + 2 < s.ws.length := by omega
  simp [Stream.finish, h, e, c, l', f, nth, bind, Except.bind]
def headerStream : Stream := streamOf ⟨segBytesOf headerWords 0x9034186A, 8 * 428, none⟩
def rowStream : Stream := streamOf ⟨segBytesOf rowWords 0x5070FC3D, 8 * 608, none⟩
theorem header_end : headerStream.finish (headerStream.ws.length + 1) 92 = .ok () :=
  finish_ok _ _ _ 0 0x09034186A (by decide +kernel) rfl
    (by rw [(by decide +kernel : headerStream.bytes.take (9 * (92 / 2)) = packWords headerWords), header_crc]; decide +kernel)
    (by decide +kernel) (by decide +kernel)
theorem row_end : rowStream.finish (rowStream.ws.length + 1) 132 = .ok () :=
  finish_ok _ _ _ 0 0x05070FC3D (by decide +kernel) rfl
    (by rw [(by decide +kernel : rowStream.bytes.take (9 * (132 / 2)) = packWords rowWords), row_crc]; decide +kernel)
    (by decide +kernel) (by decide +kernel)
theorem header_ok (s : Stream) (a : s.expect 0 0x01 = .ok (0, [0x010000005, 1, 0, 0]))
    (b : s.expect 5 0x02 = .ok (0, List.replicate 86 0)) (e : s.finish (s.ws.length + 1) 92 = .ok ()) : ∃ hd, checkHeader s = .ok hd := by
  simp only [checkHeader, a, b, e, bind, Except.bind]
  exact ⟨_, rfl⟩
theorem witness_header : headerStream.isHeader = true ∧ (loadOf 428).first = true ∧ canOpen inJob = true ∧
    ∃ hd, checkHeader headerStream = .ok hd :=
  ⟨by decide +kernel, rfl, by decide +kernel, header_ok _ (by decide +kernel) (by decide +kernel) header_end⟩
/-- A loaf of one row is being loaded. -/
def loading : State := { inJob with loaves := [loaf], loads := [loadOf 608] }
theorem row_ok (s : Stream) (ts : List TileRec) (a : s.at 0 (.recSeq, 0) = .ok 0x200010000) (b : s.expect 0 0x08 = .ok (0, [3]))
    (c : s.expect 2 0x09 = .ok (0, List.replicate 65 0)) (d : s.tiles 32 0 68 = .ok (ts, 132))
    (f : s.at 132 (.recSeq, 132) = .ok 0x2C0010000) (e : s.finish (s.ws.length + 1) 132 = .ok ()) : ∃ r, checkRow s 0 = .ok r := by
  simp only [checkRow, a, b, c, d, e, f, bind, Except.bind]
  exact ⟨_, rfl⟩
theorem witness_row : rowStream.isHeader = false ∧ loadingLoaf loading = some loaf ∧ loaf.nextRow < loaf.rows ∧
    ∃ r, checkRow rowStream 0 = .ok r :=
  ⟨by decide +kernel, by decide +kernel, by decide +kernel,
    row_ok _ (List.replicate 32 { words := 0, figs := [], bad := none }) (by decide +kernel) (by decide +kernel) (by decide +kernel)
      (by decide +kernel) (by decide +kernel) row_end⟩
theorem witness_read_fault : loading.loads = [loadOf 608] ∧ (loadOf 608).fault = none := by decide +kernel
theorem loading_live : loading.live := (by decide +kernel : heldInReset loading = false)

/-- A loaf is held, and every axis is homed. -/
def held : State := { inJob with loaves := [loaf], mot := { inJob.mot with axes := [0, 1, 2, 3].map fun a => (a, { Axis.reset with homed := true }) } }
theorem held_live : held.live := (by decide +kernel : heldInReset held = false)
theorem witness_loaf_arm : Starts (mkReq .host ⟨0, 0⟩ 0x13 []) held ∧ held.cal.waiting = [] ∧ held.cal.capt = none ∧
    held.loaves.head? = some loaf ∧ retiredCount held ≤ 4 ∧ (∀ a, a < 2 → faulted a held = false ∧ (held.axis a).homed = true) ∧
    pairStandby held = false ∧ softOk 1 (loaf.oy.toInt - 1 * (held.fld F.MOT_RUN_RUNUP_PX : Int) * (jobPitch held : Int)) held = true ∧
    softOk 1 loaf.oy.toInt held = true ∧
    softOk 1 (slicePos loaf.oy.toInt 1 (jobPitch held) (lastSliceOf (jobBeams held) loaf.rows)) held = true ∧ fbTooFast held = false :=
  ⟨starts_of (by decide +kernel), by decide +kernel⟩
/-- The loaf is armed. -/
def armed : State := { held with core := .armed, mot := { held.mot with scan := { held.mot.scan with state := .ready } } }
theorem armed_live : armed.live := (by decide +kernel : heldInReset armed = false)
theorem witness_loaf_start : Starts (mkReq .host ⟨0, 0⟩ 0x14 []) armed ∧ armed.loaves.head? = some loaf ∧ retraining armed = false ∧
    pairStandby armed = false ∧ pairOwner armed = false := ⟨starts_of (by decide +kernel), by decide +kernel⟩
theorem witness_stop_armed : Starts (mkReq .host ⟨0, 0⟩ 0x15 []) armed ∧ armed.core = .armed ∧ armed.mem.startHold = none ∧
    armed.pair.startWait = none := ⟨starts_of (by decide +kernel), by decide +kernel⟩
/-- The loaf runs; nothing has been built. -/
def run : Run := { ord := 0, id := 5, last := 1271, disposed := 0, prevL := none, reached := none, stop := none, ended := false, quiet := false }
def exposing : State :=
  { armed with core := .exposing, lch := { armed.lch with run := some run },
               mot := { armed.mot with scan := { armed.mot.scan with state := .run, e := 400000 } },
               lnk := linked.lnk }
theorem exposing_live : exposing.live := (by decide +kernel : heldInReset exposing = false)
theorem witness_stop_exposing : Starts (mkReq .host ⟨0, 0⟩ 0x15 []) exposing ∧ exposing.core = .exposing ∧ pairStandby exposing = false :=
  ⟨starts_of (by decide +kernel), by decide +kernel⟩
theorem witness_abort_next : Starts (mkReq .host ⟨0, 0⟩ 0x16 [1]) { held with loaves := [loaf, { loaf with ord := 1 }] } ∧
    wbits (1#36) 0 0 = 1 ∧
    held.loads = [] := ⟨starts_of (by decide +kernel), by decide +kernel⟩
theorem witness_abort_held : Starts (mkReq .host ⟨0, 0⟩ 0x16 [0]) held ∧ held.loaves = [loaf] ∧ held.core = .job ∧ held.lch.run = none ∧
    held.mot.arm = none ∧ held.pair.armWait = none := ⟨starts_of (by decide +kernel), by decide +kernel⟩

/-! MotionCommandsBegin. -/

theorem witness_move : Starts (mkReq .host ⟨0, 0⟩ 0x30 [8, 0x7FFFFFFFF]) held ∧ held.pins.interlock = false ∧ bitsSet 4 8 = [3] ∧
    pairStandby held = false ∧ held.core ≠ .armed ∧ held.core ≠ .exposing ∧
    (faulted 3 held = false ∧ homing 3 held = false ∧ (held.axis 3).homed = true ∧ stopping 3 held = false) ∧
    (softOk 3 (0x7FFFFFFFF#36).toInt held = true ∧ beyondLimit (3, (0x7FFFFFFFF#36).toInt) held = false) ∧ held.mot.arm = none :=
  ⟨starts_of (by decide +kernel), by decide +kernel⟩
theorem witness_home : Starts (mkReq .host ⟨0, 0⟩ 0x31 [15]) inJob ∧ pairStandby inJob = false ∧ inJob.mot.home = none ∧ inJob.mot.arm = none ∧
    inJob.mot.moves = [] ∧ (∀ a ∈ bitsSet 4 15, faulted a inJob = false ∧ moving a inJob = false ∧ stopping a inJob = false) :=
  ⟨starts_of (by decide +kernel), by decide +kernel⟩
theorem witness_stop_axis : Starts (mkReq .host ⟨0, 0⟩ 0x32 [1]) idle ∧ bitsSet 4 (wbits (1#36) 3 0) ≠ [] ∧ pairStandby idle = false ∧
    idle.mot.home = none ∧ idle.mot.arm = none := ⟨starts_of (by decide +kernel), by decide +kernel⟩

/-! Calibration, camera and flash. -/

theorem witness_capture : (∀ k ∈ [0x01, 0x02, 0x03], Starts (mkReq .service ⟨3, 0⟩ 0x40 [setBits (0x100#36) 7 0 k]) locked ∧
    Starts (mkReq .service ⟨3, 0⟩ 0x40 [setBits (0x4000#36) 7 0 k]) locked) ∧ wbits (0x100#36) 15 8 = 1 ∧ wbits (0x4000#36) 15 8 = 64 ∧
    locked.pins.interlock = false ∧ locked.core = .idle ∧ locked.pwr.clOn = 64 ∧ (∀ k ∈ [0x01, 0x02, 0x03], captureHeld k locked = false) := by
  refine ⟨fun k hk => ?_, by decide +kernel⟩
  simp only [List.mem_cons, List.not_mem_nil, or_false] at hk
  obtain rfl | rfl | rfl := hk <;> exact ⟨starts_of (by decide +kernel), starts_of (by decide +kernel)⟩
theorem witness_rx_off : Starts (mkReq .service ⟨3, 0⟩ 0x40 [setBits (0#36) 7 0 0x11]) locked ∧ wbits (0#36) 15 8 = 0 ∧ locked.core = .idle ∧
    captureHeld 0x11 locked = false :=
  ⟨starts_of (by decide +kernel), by decide +kernel⟩
/-- The clock is locked. -/
def clocked : State := locked.setFld F.TB_PTP_STATUS_LOCKED 1
theorem witness_osc : Starts (mkReq .service ⟨3, 0⟩ 0x40 [setBits (0#36) 7 0 0x14]) clocked ∧ clocked.bit F.TB_PTP_STATUS_LOCKED = true :=
  ⟨starts_of (by decide +kernel), by decide +kernel⟩
/-- Every candidate is there. -/
def measured : State := { locked with cal := { locked.cal with candDark := some [], candFlat := some [(5, 9)], candBeams := some Beams.reset } }
theorem witness_cal_apply : Starts (mkReq .service ⟨3, 0⟩ 0x41 [1]) measured ∧ Starts (mkReq .service ⟨3, 0⟩ 0x41 [2]) measured ∧
    Starts (mkReq .service ⟨3, 0⟩ 0x41 [3]) measured ∧ measured.core ≠ .recovery ∧ wbits (3#36) 7 0 = 0x03 :=
  ⟨starts_of (by decide +kernel), starts_of (by decide +kernel), starts_of (by decide +kernel), by decide +kernel⟩

/-- Every table is loaded and the flash operates. -/
def stocked : State := { locked with nvm := { locked.nvm with flash := [(0, 1), (4096, 2)] } }
theorem witness_store : Starts (mkReq .service ⟨3, 0⟩ 0x42 [0x03]) locked ∧ Starts (mkReq .service ⟨3, 0⟩ 0x42 [0x15]) locked ∧
    locked.nvm.jobs = [] ∧ locked.core = .idle :=
  ⟨starts_of (by decide +kernel), starts_of (by decide +kernel), by decide +kernel⟩
/-- A TST READ runs. -/
def reading : State := { stocked with nvm := { stocked.nvm with jobs := [.tst 1 0] } }
theorem witness_store_waits : Starts (mkReq .service ⟨3, 0⟩ 0x42 [0x10]) reading ∧ reading.nvm.jobs = [.tst 1 0] :=
  ⟨starts_of (by decide +kernel), by decide +kernel⟩
theorem witness_compact : Starts (mkReq .service ⟨3, 0⟩ 0x42 [setBits (0#36) 7 0 0xFE]) locked := starts_of (by decide +kernel)
theorem witness_load : Starts (mkReq .service ⟨3, 0⟩ 0x43 [0x10]) locked := starts_of (by decide +kernel)

theorem witness_flash_commands : stocked.live ∧ stocked.nvm.jobs = [] ∧ flashBusy stocked = false ∧ stocked.fld F.TST_FLASH_ADDR_ADDR = 0 ∧
    bootedSlot 0xFFF000 stocked = false :=
  ⟨live_of (by decide +kernel), by decide +kernel⟩
theorem witness_flash_ends : reading.live ∧ reading.nvm.jobs = [.tst 1 0] ∧
    State.live { stocked with nvm := { stocked.nvm with jobs := [.tst 3 4096] } } ∧
    State.live { stocked with nvm := { stocked.nvm with jobs := [.store .host 3 0x10 (some (4096, [1, 2], 7))] } } :=
  ⟨live_of (by decide +kernel), by decide +kernel, live_of (by decide +kernel), live_of (by decide +kernel)⟩

/-- A frame is open. -/
def filming : State := { idle with cal := { idle.cal with frame := some ⟨7, 0, false, false⟩ } }
theorem witness_frame_start : idle.live ∧ idle.cal.dropped = false ∧ idle.cal.frame = none ∧ idle.cal.capt = none := ⟨idle_live, by decide +kernel⟩
theorem witness_frame_end : filming.live ∧ filming.cal.frame = some ⟨7, 0, false, false⟩ ∧
    (let w := (frameSize filming).1
     let kept := ((camLines [⟨true, true, true, 5⟩, ⟨false, true, true, 9⟩, ⟨true, true, true, 16383⟩, ⟨true, true, false, 0⟩,
       ⟨true, false, false, 0⟩] filming).take (frameSize filming).2).map (·.take w)
     ((List.range kept.length).zip kept).flatMap (fun r => ((List.range r.2.length).zip r.2).map fun c => (c.1, r.1, c.2.toNat)) ≠ []) :=
  ⟨live_of (by decide +kernel), by decide +kernel⟩

/-- A capture of two DARK frames. -/
def capt : Capt := { port := .host, tag := 5, kind := 0x01, want := 2, tried := 0, good := 0, first := none, seq := 0, sums := [], spots := [],
                     raised := true, await := true, slice := 0, shots := 0, disc := false, lastQ := none }
def capturing (c : Capt) : State := { locked with cal := { locked.cal with capt := some c } }
/-- CAM_TRIG is high. -/
def triggered : State := { capturing capt with cal := { (capturing capt).cal with trig := true } }
theorem witness_trigger_fall : triggered.live ∧ triggered.cal.trig = true ∧ triggered.cal.capt = some capt ∧ capt.raised = true ∧
    capt.await = true := ⟨live_of (by decide +kernel), by decide +kernel⟩
theorem witness_no_frame : (capturing { capt with tried := 6 }).live ∧ (capturing { capt with tried := 6 }).cal.trig = false ∧
    (6 + 1 < 4 * 2) ∧ capt.good < capt.want := ⟨live_of (by decide +kernel), by decide +kernel⟩
theorem witness_capture_busy : captureHeld 0x01 (capturing capt) = true ∧
    Starts (mkReq .service ⟨3, 0⟩ 0x40 [setBits (0x100#36) 7 0 0x01]) (capturing capt) :=
  ⟨by decide +kernel, starts_of (by decide +kernel)⟩
/-- RX_OFF measures receiver 10, the last one. -/
def offsetting : State := { locked with cal := { locked.cal with rxoff := some (.host, 5, 10) } }
theorem witness_receiver : offsetting.live ∧ offsetting.cal.rxoff = some (.host, 5, 10) :=
  ⟨live_of (by decide +kernel), by decide +kernel⟩

/-! Links and memory. -/

theorem witness_link_train : Starts (mkReq .service ⟨3, 0⟩ 0x50 [8]) idle ∧ wbits (8#36) 3 0 = 8 ∧ wbits (8#36) 4 4 = 0 ∧ idle.lnk.loop = none :=
  ⟨starts_of (by decide +kernel), by decide +kernel⟩
theorem witness_loopback : Starts (mkReq .service ⟨3, 0⟩ 0x51 [0x106]) idle ∧ wbits (0x106#36) 23 8 ≠ 0 ∧ wbits (0x106#36) 1 0 = 2 ∧
    wbits (0x106#36) 5 2 = 1 ∧ trainingMask idle = 0 := ⟨starts_of (by decide +kernel), by decide +kernel⟩
/-- A loopback of the pair link alone. -/
def looping : State := { idle with lnk := { idle.lnk with loop := some ⟨.service, 3, 1, 0, true, false, none⟩ } }
theorem witness_loopback_end : looping.live ∧ looping.lnk.loop = some ⟨.service, 3, 1, 0, true, false, none⟩ :=
  ⟨live_of (by decide +kernel), by decide +kernel⟩
theorem test_spare_lane : assignLanes 0x80 = [0, 1, 2, 3, 4, 5, 6, 8] ∧ assignLanes 0x101 = [0xF, 1, 2, 3, 4, 5, 6, 7] := by decide

/-- The boot has enabled every cluster. -/
def bootingWith (n : Nat) : State := { idle with core := .boot, pwr := { idle.pwr with booting := true }, lnk := { idle.lnk with drivers := n } }
theorem witness_driver : (bootingWith 0).live ∧ (bootingWith 11).live ∧ (bootingWith 11).pwr.clOn = 64 ∧ (bootingWith 11).pwr.enabling = false :=
  ⟨live_of (by decide +kernel), live_of (by decide +kernel), by decide +kernel⟩
/-- A group in a phase of its training. -/
def inPhase (g n : Nat) : State := idle.updGrp g fun x => { x with phase := n }
theorem witness_phases : (∀ n ∈ [1, 2, 4, 5], heldInReset (inPhase 3 n) = false ∧ ((inPhase 3 n).grp 3).phase = n) ∧
    ((inPhase 3 5).grp 3).failed ||| (0#9).toNat = 0 := by decide +kernel

theorem witness_transaction : txnOk 6 0x2FFFFFE0 1 false = true ∧ idle.mem.sr = .awake ∧ (idle.pc 63).retired = false ∧
    entryFree (idle.pc 63) 6 (idle.fld F.MEM_CTL_RT_RESERVE) = true ∧ txnOk 0 0x30000000 1 false = false := by decide +kernel
/-- The page buffer's write is posted on port 6 of pseudo-channel 63. -/
def posted : State := { idle with mem := { idle.mem with posts := [⟨63, 6, 0, 1, true, false, .other⟩] } }
theorem witness_posted : posted.mem.posts.find? (fun x => x.gives 63 6 0 1 true) = some ⟨63, 6, 0, 1, true, false, .other⟩ := by decide +kernel
/-- Pseudo-channel 63 has read a burst for the slicer, with one more waiting. -/
def txn : Txn := { id := 0, port := 0, addr := 0, bursts := 1, left := 0, deadline := 0, write := false, slot := 0, repeats := 1, again := false, use := .other }
def serving : State := updPc 63 (fun c => { c with txns := [txn, { txn with id := 1, left := 1 }], holder := some 0 }) idle
theorem serving_live : serving.live := live_of (by decide +kernel)
theorem witness_transaction_end : (serving.pc 63).held = some txn ∧ txn.left = 0 ∧ serving.ns ≤ txn.deadline ∧
    ((updPc 63 (fun c => { c with txns := removeFirst (·.id == txn.id) c.txns, holder := none }) serving).pc 63).idle = false := by
  decide +kernel
theorem witness_slots : busRuns 63 serving = true ∧ (serving.pc 63).training = false ∧ refreshNow serving (serving.pc 63) = false ∧
    (serving.pc 63).idle = false := by decide +kernel
/-- A refresh runs on pseudo-channel 63. -/
def refreshing : State := updPc 63 (fun c => { c with refreshing := true, postponed := 5 }) serving
theorem witness_refresh : refreshing.live ∧ refreshing.mem.sr = .awake ∧ (refreshing.pc 63).refreshing = true ∧ (refreshing.pc 63).idle = false ∧
    (refreshing.pc 63).training = false ∧ (refreshing.pc 63).retired = false ∧ (refreshing.pc 63).refAt ≤ 2 * refreshing.ns ∧
    2 * idle.ns < ((updPc 63 (fun c => { c with refAt := 1 }) idle).pc 63).refAt :=
  ⟨live_of (by decide +kernel), by decide +kernel⟩
theorem witness_errors : (serving.pc 63).held = some txn ∧ txn.write = false ∧ txn.repeats < 2 := by decide +kernel

def dozing : State := idle.setFld F.MEM_CTL_SR_EN 1
theorem witness_sleep : dozing.live ∧ dozing.bit F.MEM_CTL_SR_EN = true ∧ dozing.core = .idle ∧
    (∀ p, p < 64 → (dozing.pc p).txns = [] ∧ (dozing.pc p).training = false) ∧ dozing.mem.posts = [] ∧ dozing.mem.sr = .awake ∧ flightsOp .host 0x10 dozing = [] :=
  ⟨live_of (by decide +kernel), by decide +kernel⟩
def waking : State := { dozing with mem := { dozing.mem with sr := .leaving } }
theorem witness_wake : waking.live ∧ waking.mem.sr = .leaving ∧ waking.pwr.clOn = 64 ∧ flightsOp .host 0x10 waking = [] := ⟨live_of (by decide +kernel), by decide +kernel⟩
theorem witness_retrain : Starts (mkReq .service ⟨3, 0⟩ 0x58 [0, 0x80000000]) idle ∧ idle.job = none ∧ idle.mem.sr = .awake ∧
    bitsSet 32 (wbits (0#36) 31 0) ++ (bitsSet 32 (wbits (0x80000000#36) 31 0)).map (· + 32) = [63] :=
  ⟨starts_of (by decide +kernel), by decide +kernel⟩
/-- Pseudo-channel 63 waits for its training. -/
def due : State := updPc 63 (fun c => { c with due := true }) idle
theorem witness_training_start : due.live ∧ retraining due = false ∧ due.mem.startHold = none ∧ due.mem.sr = .awake ∧ (due.pc 63).due = true ∧
    ∀ q, q < 63 → (due.pc q).due = false := ⟨live_of (by decide +kernel), by decide +kernel⟩
def training : State := updPc 63 (fun c => { c with training := true }) due
theorem witness_training_done : training.live ∧ (training.pc 63).training = true ∧ (∀ q, q < 63 → (training.pc q).training = false) ∧
    (training.pc 63).retired = false ∧ training.mem.startHold = none := ⟨live_of (by decide +kernel), by decide +kernel⟩
theorem witness_readout : ∀ i, i < 32 → ((0#9).toInt - (idle.pc (32 * 1 + i)).temp).natAbs ≤ idle.fld F.MEM_CTL_RETRAIN_DT := by
  decide +kernel

/-- The pair link is up on all lanes, and the pair is formed with this device as its owner. -/
def paired : State :=
  { linked with lnk := { linked.lnk with pair := { phase := 0, failed := 0, tx := 15, rx := 15, clkOn := true, rxClk := true, up := true } },
                pair := { linked.pair with st := 2, own := true } }
theorem paired_live : paired.live := live_of (by decide +kernel)
theorem witness_lanes : paired.lnk.pair.phase = 0 ∧ paired.lnk.pair.clkOn = true ∧ paired.lnk.pair.up = true ∧ paired.lnk.pair.rx ≠ 0 ∧
    (8#4 ≠ 0#4) ∧ paired.lnk.pair.tx ≠ 0 ∧ paired.lnk.pair.rx - (paired.lnk.pair.rx &&& 2 ^ 3) ≠ 0 := by decide +kernel

/-! Back-channel. -/

/-- A frame of a TYPE and payload. -/
def bcFrameOf (type : Byte) (b : List Byte) : List Byte :=
  let x := type :: b
  let c := (crc32c x).toNat
  x ++ [BitVec.ofNat 8 c, BitVec.ofNat 8 (c / 256), BitVec.ofNat 8 (c / 65536), BitVec.ofNat 8 (c / 16777216)]
theorem witness_frames : bcFrameOk 0x01 16 (bcFrameOf 1 (List.replicate 16 0)) = true ∧ bcFrameOk 0x02 13 (bcFrameOf 2 (List.replicate 13 7)) = true ∧
    bcFrameOk 0x03 2 (bcFrameOf 3 [8, 1]) = true ∧ bcFrameOk 0x04 7 (bcFrameOf 4 (List.replicate 7 0)) = true ∧
    bcFrameOk 0x03 2 [3, 8, 1, 0, 0, 0, 0] = false ∧ bcBytes [.k 27 7, .d 3, .bad, .k 29 7] = none ∧ (plateOf 3 idle).stale = false := by decide +kernel
theorem witness_discard : (∀ b ∈ [bcFrameOf 2 [8, 0, 0, 0, 0, 0, 0, 0, 0, 0, 0, 0, 2]], bcField b 2 2 ≠ 0xFFFF ∧ bcField b 0 1 ≤ 8 ∧
    (bcField b 12 1 = 0 ∨ bcField b 12 1 = 2)) ∧ idle.job = none ∧ (idle.grp 3).phase = 0 := by decide +kernel
/-- A forwarded clock was lost in the loaf. -/
def clockless (l : List Nat) : State := { exposing with lch := { exposing.lch with clkLoss := some ⟨3, l, 12⟩ } }
theorem witness_clock_loss : (clockless [8, 11]).live ∧ running (clockless [8, 11]) = true ∧ pairOwner (clockless [8, 11]) = false ∧
    (clockless []).live ∧ running (clockless []) = true := ⟨live_of (by decide +kernel), by decide +kernel, by decide +kernel,
      live_of (by decide +kernel), by decide +kernel⟩

/-! The redundant pair. -/

theorem witness_join : Starts (mkReq .host ⟨5, 0⟩ 0x60 [setBits (0#36) 35 32 0]) locked ∧ locked.loaves = [] ∧ locked.lnk.pair.up = false ∧
    locked.pair.kept = none := ⟨starts_of (by decide +kernel), by decide +kernel⟩
theorem witness_partner_join : Starts (mkReq .partner ⟨5, 0⟩ 0x60 [setBits (0#36) 35 32 0, 9]) paired ∧ paired.pair.join = none :=
  ⟨starts_of (by decide +kernel), by decide +kernel⟩
def joining : State := { locked with pair := { locked.pair with join := some (5, 7, 0) } }
theorem witness_join_timeout : joining.live ∧ joining.pair.join = some (5, 7, 0) := ⟨live_of (by decide +kernel), by decide +kernel⟩
theorem witness_leave : Starts (mkReq .host ⟨5, 0⟩ 0x60 [setBits (0#36) 35 32 7]) { locked with pair := { locked.pair with st := 3 } } ∧
    pairStandby { locked with pair := { locked.pair with st := 3 } } = false := ⟨starts_of (by decide +kernel), by decide +kernel⟩

/-- A BEAT that has just come. -/
def beatIn (core : Nat) : Beat :=
  { ready := 1, core := core, ord := 0, launched := 0, gm := 0, locked := true, expHeld := true, tick := 0 }
/-- The pair with this device as its standby, a BEAT just in and an armed loaf of the owner's. -/
def standby : State :=
  { armed with
    lnk := paired.lnk, job := inJob.job, pair := { paired.pair with own := false, beat := some (beatIn 3) },
    pins := { armed.pins with peerOwn := true } }.setFld F.TB_PTP_STATUS_LOCKED 1
theorem standby_live : standby.live := live_of (by decide +kernel)
/-- A pair that is not formed yet. -/
def single : State := { paired with pair := { paired.pair with st := 0 } }
/-- The words of the messages. -/
def msgWords : Nat → List Word
  | 1 => [0, 0, 0, 0, 3]
  | 2 => [9, 0, 0]
  | 3 => [1, 5, 2]
  | 4 => [0x1001F, 5, 6]
  | 5 => 7 :: List.replicate 8 0
  | _ => [0, 0, 0, 0]
theorem witness_messages_single : ∀ n ∈ [1, 2, 3, 4, 5, 6],
    Starts (mkReq .partner ⟨5, 0⟩ 0x60 (setBits (0#36) 35 32 n :: msgWords n)) single := by
  intro n hn
  simp only [List.mem_cons, List.not_mem_nil, or_false] at hn
  obtain rfl | rfl | rfl | rfl | rfl | rfl := hn <;> exact starts_of (by decide +kernel)
theorem witness_beat : Starts (mkReq .partner ⟨5, 0⟩ 0x60 (setBits (0#36) 35 32 1 :: msgWords 1)) paired ∧ paired.pair.armWait = none ∧
    paired.pair.startWait = none := ⟨starts_of (by decide +kernel), by decide +kernel⟩
theorem witness_traj : Starts (mkReq .partner ⟨5, 0⟩ 0x60 (setBits (0#36) 35 32 2 :: msgWords 2)) standby ∧ pairStandby standby = true :=
  ⟨starts_of (by decide +kernel), by decide +kernel⟩
theorem witness_mark : Starts (mkReq .partner ⟨5, 0⟩ 0x60 (setBits (0#36) 35 32 3 :: msgWords 3)) standby :=
  starts_of (by decide +kernel)
theorem witness_tile : Starts (mkReq .partner ⟨5, 0⟩ 0x60 (setBits (0#36) 35 32 4 :: msgWords 4)) standby ∧ standby.pair.beat.isSome = true ∧
    standby.pair.ownTiles = [] := ⟨starts_of (by decide +kernel), by decide +kernel⟩
theorem witness_slice : Starts (mkReq .partner ⟨5, 0⟩ 0x60 (setBits (0#36) 35 32 5 :: msgWords 5)) standby ∧ standby.pair.ownSlices = [] :=
  ⟨starts_of (by decide +kernel), by decide +kernel⟩
theorem witness_jnl : Starts (mkReq .partner ⟨5, 0⟩ 0x60 (setBits (0#36) 35 32 6 :: msgWords 6)) standby ∧ standby.pair.own = false ∧
    (JEnt.ofWords (msgWords 6)).isRange = false := ⟨starts_of (by decide +kernel), by decide +kernel⟩

/-- The owner of a pair that follows, in JOB. -/
def owner : State :=
  { paired with core := .job, job := inJob.job, pair := { paired.pair with beat := some (beatIn 2) } }.setFld F.TB_PTP_STATUS_LOCKED 1
theorem owner_live : owner.live := live_of (by decide +kernel)
theorem witness_handover : Starts (mkReq .host ⟨5, 0⟩ 0x60 [setBits (0#36) 35 32 8]) owner ∧ pairOwner owner = true ∧ owner.pair.handing = none ∧
    owner.core = .job ∧ followReady owner = true := ⟨starts_of (by decide +kernel), by decide +kernel⟩
theorem witness_takeover : Starts (mkReq .partner ⟨5, 0⟩ 0x61 [5, 0, 0, 0]) standby ∧ pairStandby standby = true ∧ standby.pair.taking = none ∧
    eligible standby = true ∧ wbits (5#36) 31 0 ≠ 0xFFFFFFFF := ⟨starts_of (by decide +kernel), by decide +kernel⟩
/-- The owner hands over. -/
def handing (x : Handing) (s : State) : State := { s with pair := { s.pair with handing := some x } }
def hand : Handing := { tag := 1, first := 5, lFirst := 0, cause := 2, ord := 0, ok := true, passed := false, host := none, inJob := false }
def handover : State := handing hand { exposing with lnk := paired.lnk, pair := owner.pair }
theorem witness_l_first : handover.live ∧ handover.pair.handing = some hand ∧ hand.lFirst ≤ handover.quarter ∧ handover.lch.run ≠ none :=
  ⟨live_of (by decide +kernel), by decide +kernel⟩
theorem witness_no_reply : (handing { hand with ok := false } owner).live ∧ (handing { hand with ok := false, host := some 5 } owner).live :=
  ⟨live_of (by decide +kernel), live_of (by decide +kernel)⟩
/-- The standby has agreed to take the token. -/
def takingUp (x : Taking) (s : State) : State := { s with pair := { s.pair with taking := some x } }
def take : Taking := { first := 5, lFirst := 9, cause := 2, ord := 0, seen := true, taken := false, unasked := false, inJob := true }
/-- The standby of an owner in JOB whose token is gone. -/
def heir : State := { standby with core := .job, pins := { standby.pins with peerOwn := false } }
theorem witness_gap : (takingUp take heir).live ∧ take.seen = true ∧ take.inJob = true ∧ heir.pins.peerOwn = false :=
  ⟨live_of (by decide +kernel), by decide +kernel⟩
theorem witness_take_timeout : (takingUp take standby).live ∧ (takingUp take standby).pins.peerOwn = true ∧
    pairStandby (takingUp take standby) = true ∧ (takingUp take standby).lch.run = none := ⟨live_of (by decide +kernel), by decide +kernel⟩
/-- The BEATs have stopped. -/
def silent (s : State) : State := { s with tb := { s.tb with ticks := 2 ^ 40 } }
theorem witness_lease_end : (silent standby).live ∧ pairStandby (silent standby) = true ∧ beatFresh (silent standby) = false ∧
    (silent standby).pair.taking = none ∧ (silent standby).pins.peerOwn = true ∧ (silent standby).lch.run = none ∧
    (silent heir).live ∧ pairStandby (silent heir) = true ∧ beatFresh (silent heir) = false ∧ (silent heir).pins.peerOwn = false :=
  ⟨live_of (by decide +kernel), by decide +kernel, by decide +kernel, by decide +kernel, by decide +kernel, by decide +kernel,
    live_of (by decide +kernel), by decide +kernel⟩
theorem witness_token_frame : (takingUp { take with taken := true } exposing).live := live_of (by decide +kernel)
theorem witness_start_hold : State.live { owner with pair := { owner.pair with startWait := some 5 } } ∧
    pairStandby { owner with pair := { owner.pair with startWait := some 5 } } = false := ⟨live_of (by decide +kernel), by decide +kernel⟩
theorem witness_beat_send : standby.lnk.pair.up = true ∧ armedOrd standby = some 0 := by decide +kernel

/-! Reset, boot and power. -/

/-- The journal holds an entry, with an erased half for its dump. -/
def logged : State := { idle with jnl := [lostEnt 3] }
theorem witness_resets : idle.pins.resetN = false ∧ idle.live ∧ idle.pwr.failing = false ∧ idle.pwr.dump = none ∧ idle.nvm.jnlErased = true ∧
    Starts (mkReq .service ⟨5, 0⟩ 0x7F [0]) idle ∧
    State.live { idle with nvm := { idle.nvm with jnlErased := false } } ∧ State.live { idle with pwr := { idle.pwr with dump := some .soft } } :=
  ⟨by decide +kernel, idle_live, by decide +kernel, by decide +kernel, by decide +kernel, starts_of (by decide +kernel),
    live_of (by decide +kernel), live_of (by decide +kernel)⟩
/-- The same with a marked half. -/
def marked : State := programFlash (jnlArea.half 1) (recordBytes 0x21 1 0 []) { logged with pwr := { logged.pwr with dump := some .soft } }
theorem witness_dump : marked.live ∧ marked.pwr.dump ≠ none ∧ marked.nvm.jnlErased = true ∧ dumpHalf marked.nvm.flash = some 1 ∧
    marked.fld F.TB_JNL_DROP_DROPPED = 0 ∧ marked.jnl ≠ [] := ⟨live_of (by decide +kernel), by decide +kernel⟩
theorem witness_boot : State.reset.core = .boot ∧ State.reset.pwr.driving = false ∧ State.reset.pins.interlock = false ∧
    State.reset.tap = .idcode := by decide +kernel
/-- The boot enables the last cluster. -/
def enabling : State := { idle with core := .boot, pwr := { idle.pwr with clOn := 63, enabling := true, booting := true } }
theorem witness_enable : enabling.live ∧ enabling.pwr.enabling = true ∧ flightsOp .host 0x10 enabling = [] :=
  ⟨live_of (by decide +kernel), by decide +kernel⟩
def unerased : State := { idle with nvm := { idle.nvm with jnlErased := false } }
theorem witness_mark_done : unerased.live ∧ unerased.nvm.jnlErased = false ∧ unerased.pwr.driving = true ∧ unerased.pwr.failing = false ∧
    unerased.pwr.dump = none := ⟨live_of (by decide +kernel), by decide +kernel⟩

theorem witness_safe : idle.core = .idle ∧ idle.mot.home = none ∧ idle.mot.arm = none ∧ idle.mem.startHold = none ∧
    idle.pair.startWait = none ∧ idle.cal.capt = none ∧ hasCause 1 idle = false ∧ hasCause 4 idle = false ∧
    senseOf idle 4 0 < (idle.fld F.PWR_AVS_CTL_VMIN_MV : Int) - 30 := by decide +kernel
/-- SAFE with causes. -/
def safeBy (c : Nat) : State := { idle with core := .safe, pwr := { idle.pwr with causes := c } }
theorem witness_safe_ends : (safeBy 1).live ∧ (hasCause 1 (safeBy 1) = true ∧ (safeBy 1).pwr.driving = true ∧
    (safeBy 1).cal.capt = none ∧ (safeBy 1).mot.home = none ∧ (safeBy 1).mot.arm = none) ∧ (safeBy 4).live ∧ hasCause 4 (safeBy 4) = true ∧
    ((safeBy 4).fld F.PWR_AVS_CTL_VMIN_MV : Int) ≤ senseOf (safeBy 4) 4 900 ∧ (safeBy 0).live ∧ (safeBy 0).pwr.causes = 0 ∧
    idle.pwr.failing = false := ⟨live_of (by decide +kernel), by decide +kernel, live_of (by decide +kernel), by decide +kernel,
      by decide +kernel, live_of (by decide +kernel), by decide +kernel⟩
theorem witness_temperature : (let t := idle.setFld F.PWR_TEMP_T3 (twos 9 (satS 9 ((senseOf idle 3 400).fdiv 16)))
    junction t < (t.fld F.PWR_THERM_WARN_C : Int) - 5 ∧ junction t < (t.fld F.PWR_THERM_TRIP_C : Int)) ∧ hasCause causeTherm idle = false := by
  decide +kernel
/-- Adaptive voltage is on. -/
def adaptive : State := idle.setFld F.PWR_AVS_CTL_EN 1
theorem witness_avs : adaptive.live ∧ adaptive.bit F.PWR_AVS_CTL_EN = true ∧ adaptive.pwr.avsHold = false ∧ coreOff adaptive = false ∧
    hasCause causeTherm adaptive = false ∧ adaptive.pwr.booting = false ∧
    avsNext (List.replicate 64 1000) adaptive ≠ adaptive.pwr.vset ∧ adaptive.fld F.PWR_AVS_CTL_VMIN_MV ≤ avsTop adaptive :=
  ⟨live_of (by decide +kernel), by decide +kernel⟩
theorem witness_status_word : (0#16).toNat &&& pmbFaults = 0 := by decide +kernel
def resting : State := idle.setFld F.PWR_IDLE_OFF_MS 5
theorem witness_idle_off : resting.live ∧ resting.core = .idle ∧ resting.fld F.PWR_IDLE_OFF_MS ≠ 0 ∧ 64 ≤ resting.pwr.clOn ∧
    resting.plc.tiles = [] ∧ resting.pwr.avsHold = false := ⟨live_of (by decide +kernel), by decide +kernel⟩

/-! Register accesses with rows of their own. -/

theorem witness_accesses : outsideBlocks 0x7000 = true ∧ outsideBlocks 0x3FFF8 = true ∧ outsideBlocks 0x40000 = false ∧ outsideBlocks 0x28 = false ∧
    captured .host 0x28 idle = none ∧ captured .host 0x7FFF8 idle = none ∧ slotBytes 0xFEDCBA987 = [0x87, 0xA9, 0xCB, 0xED, 0x0F, 0, 0, 0] := by decide +kernel
theorem witness_offline : WriteTaken .host (A.KNX_CL_CTL 63) (rowOf (A.KNX_CL_CTL 63)) 1 idle := write_taken (by decide +kernel) fun _ => rfl
theorem witness_tb_inc : WriteTaken .host A.TB_INC (rowOf A.TB_INC) 0x280000001 idle := write_taken (by decide +kernel) fun _ => rfl
theorem witness_flag_clear : WriteTaken .host A.TB_EVT (rowOf A.TB_EVT) 0xFFFFFFFFF idle ∧ flagsIn A.TB_EVT 0xFFFFFFFFF ≠ [] :=
  ⟨write_taken (by decide +kernel) fun _ => rfl, by decide +kernel⟩
theorem witness_trim_data : writeRight .service A.CAL_TRIM_DATA locked = none ∧ holds .host 1 locked = false ∧
    locked.fld F.CAL_TRIM_SEL_INDEX < trimCount (locked.fld F.CAL_TRIM_SEL_KIND) ∧
    ¬(locked.setFld F.CAL_TRIM_SEL_INDEX 4095).fld F.CAL_TRIM_SEL_INDEX < trimCount ((locked.setFld F.CAL_TRIM_SEL_INDEX 4095).fld F.CAL_TRIM_SEL_KIND) := by
  decide +kernel
theorem witness_counter_clear : isCounters (A.MOT_EVT + 8) = true ∧ recordValid (A.MOT_EVT + 8) = none ∧ A.MOT_EVT + 8 ≠ A.TB_EVT_CNT ∧ writeRight .host (A.MOT_EVT + 8) idle = none ∧
    actsWhenWritten (A.MOT_EVT + 8) = false ∧ 4 ≤ faultAxis (A.MOT_EVT + 8) ∧ refusesWhole (A.MOT_EVT + 8) (withTop true 0) idle = false ∧
    (∀ f ∈ (rowOf (A.MOT_EVT + 8)).fields, f.acc = .ro ∨ f.acc = .wo) ∧
    relationOk (A.MOT_EVT + 8) (idle.getReg (A.MOT_EVT + 8)) idle = true := by decide +kernel
theorem witness_clock_counters : writeRight .host A.TB_EVT_CNT idle = none ∧ flagsIn A.TB_JNL_STATUS 0xFFFFFFFFF ≠ [] := by decide +kernel
theorem witness_record_clear : recordValid A.PAIR_DIFF = some F.PAIR_DIFF_VALID ∧ F.PAIR_DIFF_VALID.lo = F.PAIR_DIFF_VALID.hi ∧
    writeRight .host A.PAIR_DIFF idle = none ∧ actsWhenWritten A.PAIR_DIFF = false ∧ refusesWhole A.PAIR_DIFF (withTop true 0) idle = false ∧
    (∀ f ∈ (rowOf A.PAIR_DIFF).fields, f.acc = .ro ∨ f.acc = .wo) ∧ relationOk A.PAIR_DIFF (idle.getReg A.PAIR_DIFF) idle = true := by
  decide +kernel
theorem witness_fault_row : regRow (A.MOT_AX_FAULT 3) = some (rowOf (A.MOT_AX_FAULT 3)) ∧ (0x8123456789#36).getLsbD 35 = false ∧
    (0xFFFFFFFFF#36).getLsbD 35 = true := by decide +kernel

/-- HOST holds the calibration lock. -/
def calHeld : State := { idle with cmd := { idle.cmd with cal := some { port := .host, ms := 20, deadline := 8000000 } } }.setFld F.CMD_GRANT_HOST_CAL 1
theorem witness_go : calHeld.live ∧ writeRight .host A.CAM_COMMIT calHeld = none ∧ writeRight .service A.CAM_COMMIT calHeld ≠ none :=
  ⟨live_of (by decide +kernel), by decide +kernel⟩
theorem witness_tb_step : writeRight .host A.TB_STEP idle = none ∧ idle.core = .idle ∧ writeRight .service A.TB_STEP locked ≠ none ∧
    writeRight .host A.TB_STEP armed = none ∧ armed.core = .armed := by decide +kernel
theorem witness_cluster_return : writeRight .host A.PLC_CL_OUT_HI idle = none ∧ writeRight .host A.PLC_CL_OUT_LO idle = none := by decide +kernel
def testing : State := { idle with tst := { bist := true } }
theorem witness_bist : testing.live ∧ testing.tst.bist = true ∧ writeRight .service A.TST_BIST idle = none ∧ idle.core = .idle ∧
    writeRight .service A.TST_BIST inJob = none ∧ inJob.core = .job := ⟨live_of (by decide +kernel), by decide +kernel⟩
def ringOff : State := idle.setFld F.CMD_Q_CTL_EN 0
theorem witness_ring : ringOff.live ∧ ringOff.bit F.CMD_Q_CTL_EN = false ∧ idle.bit F.CMD_Q_CTL_EN = true ∧
    regRow A.CMD_Q_CTL = some (rowOf A.CMD_Q_CTL) ∧ writeRight .host A.CMD_Q_CTL ringOff = none :=
  ⟨live_of (by decide +kernel), by decide +kernel⟩
theorem witness_ring_taken : AllTaken (rowOf A.CMD_Q_CTL) A.CMD_Q_CTL (withTop true 0x1CE) ringOff ∧
    AllTaken (rowOf A.CMD_Q_CTL) A.CMD_Q_CTL (withTop false 0x18C) idle :=
  ⟨(by decide +kernel : ∀ f ∈ (rowOf A.CMD_Q_CTL).fields, f.acc = .rw ∨ f.acc = .sh →
      f.rng.ok (wbits (withTop true 0x1CE) f.hi f.lo) = true ∧ valueOk A.CMD_Q_CTL f (withTop true 0x1CE) ringOff = true),
   (by decide +kernel : ∀ f ∈ (rowOf A.CMD_Q_CTL).fields, f.acc = .rw ∨ f.acc = .sh →
      f.rng.ok (wbits (withTop false 0x18C) f.hi f.lo) = true ∧ valueOk A.CMD_Q_CTL f (withTop false 0x18C) idle = true)⟩

/-! Ports and packets. -/

theorem witness_port_reset : holds .service 0 flying = false ∧ holds .service 1 flying = false ∧ flying.live ∧ flying.cmd.uart = true :=
  ⟨by decide +kernel, by decide +kernel, live_of (by decide +kernel), by decide +kernel⟩
/-- A NOP with one word waits in the ring. -/
def ringed : State := idle.setFld F.CMD_SQ_TAIL_PTR 1
/-- What the submission ring holds then. -/
def ringBytes : List Byte := packWords [0x010240040, 7]
theorem witness_ring_packet : ringed.live ∧ ringWords ringBytes (ringed.fld F.CMD_Q_CTL_SQ_LOG2) (ringed.fld F.CMD_SQ_HEAD_PTR) 1 = [0x010240040, 7] ∧
    requestOf (.nop .host ⟨9, 0⟩ [7]) = some (packetReq .host 0x010240040 [7]) ∧ portUp .host ringed = true ∧
    packetGroups (wbits (0x010240040#36) 17 6) ≤ ringWaiting ringed ∧ ringRoom (packetReq .host 0x010240040 [7]) ringed = true ∧
    (flightsOf .host ringed).length < 960 ∧ ringWaiting idle < 1 := ⟨live_of (by decide +kernel), by decide +kernel⟩
/-- R381, R382: a packet of two groups wraps from the end of a ring to its start (a ring of two groups). -/
theorem test_ring_wraps : ringWords (packWords [3, 4] ++ packWords [1, 2]) 1 1 2 = [1, 2, 3, 4] ∧ ringAddr 0x1000 1 3 = 0x1009 := by decide +kernel
theorem witness_service_frame : packWords [0x010240040, 7] = [0x40, 0x00, 0x24, 0x10, 0x70, 0, 0, 0, 0] ∧
    wordsOf [0x40, 0x00, 0x24, 0x10, 0x70, 0, 0, 0, 0] = [0x010240040, 7] ∧ 9 = 9 * packetGroups (wbits (0x010240040#36) 17 6) ∧
    0x7E ∉ packWords [0x010240040, 7] ++ leBytes 4 (crc32c (packWords [0x010240040, 7])).toNat ∧ idle.cmd.uart = true ∧ idle.cmd.rx = [] ∧
    State.reset.cmd.uart = false := by decide +kernel
/-- Three bytes of a frame have come. -/
def partway : State := { idle with cmd := { idle.cmd with rx := [0x7E, 0x40, 0x00] } }
theorem witness_byte_gap : partway.live ∧ partway.cmd.uart = true ∧ partway.cmd.rx = 0x7E :: [0x40, 0x00] ∧ 0x7E ∉ ([0x40, 0x00] : List Byte) :=
  ⟨live_of (by decide +kernel), by decide +kernel⟩

/-! Tiles and proof blocks. -/

/-- An empty tile in a stage. -/
def tileIn (x : Stage) : Tile :=
  { ord := 0, row := 0, col := 0, est := 1, figs := [], at0 := 0, len := 0, stage := x, attempts := 0, firstTry := none, cluster := 63, kneader := none, area := none,
    words := [], ksum := none, asum := none, ownRead := false, tailRead := false, recovered := false, hist := none, block := none,
    readable := false }
/-- The current loaf with its row read and these tiles. -/
def tiling (l : List Tile) : State := { held with loaves := [{ loaf with nextRow := 1 }], plc := { held.plc with tiles := l } }
theorem tiling_live (l : List Tile) : (tiling l).live := held_live
theorem witness_dispatch : nextDispatch (tiling [tileIn .waiting]) = some (tileIn .waiting) ∧
    (chooseCluster 1 none (tiling [tileIn .waiting])).isSome = true := by decide +kernel
theorem witness_kneader : (tiling [tileIn .queued]).plc.tiles.find? (fun t => t.stage == .queued && t.cluster == 63) = some (tileIn .queued) ∧
    ((List.range 16).map fun i => 16 * 63 + i).find? (fun k => kneaderFree k (tiling [tileIn .queued])) = some 1008 := by decide +kernel
/-- A tile at work on the last kneader. -/
def kneaded : Tile := { tileIn .taken with kneader := some 1023, area := some 1023, attempts := 1 }
theorem witness_expansion : kneaded.asum = none ∧ kneaded.ksum = none ∧
    (tiling [kneaded]).plc.tiles.find? (fun t => t.kneader == some 1023 && t.stage == .taken && t.ksum.isNone) = some kneaded ∧
    (tiling [kneaded]).plc.tiles.find? (fun t => t.cluster == 63 && t.stage == .taken && t.asum.isNone) = some kneaded ∧
    tileOf 0 0 0 (tiling [kneaded]) = some kneaded := by decide +kernel
theorem witness_offline_boundary : ∀ t ∈ (tiling [tileIn .waiting]).plc.tiles, t.cluster = 63 → t.inFlight = false := by decide +kernel

theorem witness_compression : (tiling [tileIn .passed]).plc.tiles.find? (fun t => t.cluster == 63 && canCompress t (tiling [tileIn .passed])) =
    some (tileIn .passed) ∧ compressorFree 63 (tiling [tileIn .passed]) = true := by decide +kernel
/-- A block of one byte. -/
def blockWith (pages : List (Nat × Nat)) : Block := { ctr := storedCtr 0 0 0 0, data := [0], pages := pages, memBad := false }
def packing (x : Stage) (pages : List (Nat × Nat)) : Tile := { tileIn x with kneader := some 1023, block := some (blockWith pages) }
theorem witness_page : (tiling [packing .compressing []]).plc.tiles.find? (fun t => t.cluster == 63 && t.stage == .compressing) =
    some (packing .compressing []) ∧ (blockWith []).pages.length < (blockWith []).need ∧
    writesOut (packing .compressing []) (tiling [packing .compressing []]) = false ∧
    mayTakePage (packing .compressing []) (tiling [packing .compressing []]) = true := by decide +kernel
theorem witness_resume : (tiling [packing .stopped []]).plc.tiles.find? (·.stage == .stopped) = some (packing .stopped []) ∧
    mayTakePage (packing .stopped []) (tiling [packing .stopped []]) = true := by decide +kernel
theorem witness_complete : (tiling [packing .written [(5, 0)]]).plc.tiles.find? (fun t => t.kneader == some 1023 && t.stage == .written) =
    some (packing .written [(5, 0)]) ∧ writesOut (packing .written [(5, 0)]) (tiling [packing .written [(5, 0)]]) = false ∧ (blockWith [(5, 0)]).ctr.level = 0 := by decide +kernel
theorem witness_wait_watchdog : 25 < freePages (tiling [tileIn .queued]) ∧
    ((tiling [tileIn .queued]).plc.tiles.filter fun t => timedWait t (tiling [tileIn .queued])).getLast? =
    some (tileIn .queued) := by decide +kernel

/-- The byte form of an empty tile. -/
def blank : List Byte := List.replicate 99072 0
/-- A committed tile of row 0. -/
def keptOf (f : List Byte) (c : Nat) : Tile := { tileIn .committed with col := c, readable := true, block := some (storedOf f 0 0 c []) }
def kept (c : Nat) : Tile := keptOf blank c
def row : List Tile := (List.range' 0 32).map kept
theorem keptOf_unpacks (c : Nat) (prev f : List Byte) (h : c < 32) (l : f.length = 99072) : unpackTile false (keptOf f c) c prev = .ok f := by
  have e := unpackBlock_stored f prev [] 0 0 c l (by decide) (by decide) h
  have b : (keptOf f c).block = some (storedOf f 0 0 c []) := rfl
  have o : (keptOf f c).ord = 0 := rfl
  have r : (keptOf f c).row = 0 := rfl
  rw [unpackTile, b, Option.elim_some, o, r, e]
  rfl
theorem kept_unpacks (c : Nat) (prev : List Byte) (h : c < 32) : unpackTile false (kept c) c prev = .ok blank :=
  keptOf_unpacks c prev blank h (by rw [blank, List.length_replicate])
theorem row_unpacks (n : Nat) : ∀ c prev, c + n ≤ 32 → unpackRow false ((List.range' c n).map kept) c prev = .ok (List.replicate n blank) := by
  induction n with
  | zero => intro c prev _; rfl
  | succ n ih =>
    intro c prev h
    rw [List.range'_succ, List.map_cons, unpackRow, kept_unpacks c prev (by omega), Except.bind, ih (c + 1) blank (by omega)]
    rfl
theorem witness_fill : (tiling row).loaves.head? = some { loaf with nextRow := 1 } ∧ 0 < readyRow { loaf with nextRow := 1 } (tiling row) ∧
    windowRoom { loaf with nextRow := 1 } 0 (tiling row) = true ∧ streamMode (tiling row) = false ∧ rebuildDue (tiling row) = false ∧
    fillerFor 0 0 false (tiling row) = some 0 := by decide +kernel
theorem row_is_row : rowTiles 0 0 (tiling row) = row := List.filter_eq_self.2 (by
  intro t h
  obtain ⟨c, _, rfl⟩ := List.mem_map.1 h
  rfl)
theorem witness_fill_unpacks : unpackRow (streamMode (tiling row)) (rowTiles 0 0 (tiling row)) 0 [] = .ok (List.replicate 32 blank) := by
  rw [row_is_row, witness_fill.2.2.2.1]; exact row_unpacks 32 0 [] (by decide)
/-- The last segment of the row waits to be rebuilt. -/
def rebuilding : State := { tiling row with prf := { (tiling row).prf with rebuilds := [(0, 255, 7)] } }
theorem find_single {α : Type} {p : α → Bool} {x : α} (h : p x = true) : [x].find? p = some x := by rw [List.find?_cons, h]
theorem rebuild_step : rebuildStep rebuilding (0, 255, 7) = .serve := by
  have h : rowTiles 0 (255 / 256) rebuilding = row := row_is_row
  have a : lastSegReader rebuilding 255 7 < readOf 0 rebuilding ↔ False := by decide +kernel
  have b : (row.any (·.stage == .bad)) = false := by decide +kernel
  have c : (row.all (·.ready)) = true := by decide +kernel
  have d : loafOf 0 rebuilding = some { loaf with nextRow := 1 } := by decide +kernel
  unfold rebuildStep
  simp only [d, h, a, b, c, Bool.false_eq_true, or_self, if_false, if_true]
theorem witness_rebuild : rebuilding.live ∧ (rebuilding.prf.rebuilds.find? fun x => rebuildStep rebuilding x != .wait) = some (0, 255, 7) ∧
    loafOf 0 rebuilding = some { loaf with nextRow := 1 } ∧ fillerFor 0 0 true rebuilding = some 0 :=
  ⟨held_live, find_single (by rw [rebuild_step]; rfl), by decide +kernel, by decide +kernel⟩
theorem witness_rebuild_unpacks : unpackRow (streamMode rebuilding) (rowTiles 0 (255 / 256) rebuilding) 0 [] = .ok (List.replicate 32 blank) :=
  witness_fill_unpacks
theorem witness_segment : (7 < 8) ∧ (List.replicate 1024 4095).length = 1024 ∧ ∀ x ∈ List.replicate 1024 4095, x < 4096 :=
  ⟨by decide, List.length_replicate, fun _ h => by rw [List.eq_of_mem_replicate h]; decide⟩

/-! The slicer. -/

theorem test_shares : ((List.range 3).map (splitShare 10 3 1 2)).sum = 10 := by decide +kernel
theorem witness_build : exposing.lch.run = some run ∧ exposing.loaves.head? = some loaf ∧ buildDue run exposing = true ∧
    exposing.slc.next < run.last := by decide +kernel
/-- Slice 3 waits on lane 7, due in 40 µs. -/
def slice : Slice := { n := 3, l := 160000, pos := 0, codes := [], lists := [], pcrc := [], kt := [], tedge := [], lanes := [(7, .waiting)],
                       overspeed := false, tc := none }
def sliced (x : Slice) (t : Nat) : State := { exposing with lch := { exposing.lch with slices := [x] }, tb := { exposing.tb with ticks := t } }
theorem witness_slice_start : waitingOn 7 (sliced slice 0) = some slice ∧ mayStart (sliced slice 0) = true ∧ physOf 7 (sliced slice 0) ≠ 0xF ∧
    tooClose slice (sliced slice 0) = false ∧ slice.l ≤ (sliced slice 0).quarter + 160000 ∧
    (sliced slice 0).quarter + sendQuarters 0 slice 7 (sliced slice 0) + 24000 ≤ slice.l := by decide +kernel
theorem witness_not_ready : waitingOn 7 (sliced { slice with l := 0 } 0) = some { slice with l := 0 } ∧
    pairStandby (sliced { slice with l := 0 } 0) = false ∧ (sliced { slice with l := 0 } 0).lch.cancel = none := by decide +kernel
def launching : Slice := { slice with l := 0, lanes := [(7, .sent)] }
theorem witness_launch : (sliced launching 0).lch.slices = [launching] ∧ launching.l ≤ (sliced launching 0).quarter ∧
    launching.overspeed = false ∧ (launching.lanes.any fun e => e.2 == .sent) = true ∧ launching.tc = none := by decide +kernel
def crossing : Crossing := { n := 3, l := 0, pos := 0, displaced := false }
def late : State := { exposing with lch := { exposing.lch with crossings := [crossing] }, tb := { exposing.tb with t := 1 <<< 80 } }
theorem witness_crossing : late.lch.crossings.find? (fun c => !c.displaced) = some crossing ∧
    crossing.l + 4 * late.act F.TB_LAUNCH_CTL_WINDOW_NS + late.fld F.TB_POS_LAT_LAT_Q + 200 ≤ late.quarter := by decide +kernel
/-- No word has come yet, and none that was sampled before the end of the window can be under way. -/
def early : State := { late with tb := { late.tb with t := 0 } }
theorem witness_no_crossing_yet : early.lch.word = none ∧
    early.quarter < crossing.l + 4 * early.act F.TB_LAUNCH_CTL_WINDOW_NS + early.fld F.TB_POS_LAT_LAT_Q + 200 := by decide +kernel
/-- A word sampled after the end of the window has come. -/
def passed : State := { early with lch := { early.lch with word := some (0, 1000000) } }
theorem witness_word_past_window : early.live ∧ passed.live ∧ crossing.l + 4 * passed.act F.TB_LAUNCH_CTL_WINDOW_NS ≤ 1000000 :=
  ⟨exposing_live, exposing_live, by decide +kernel⟩
theorem exposing_states_live : (∀ x t, (sliced x t).live) ∧ late.live := ⟨fun _ _ => exposing_live, exposing_live⟩

/-! Motion and clock. -/

/-- A frame with VALID set whose parity holds, and one with the parity wrong. -/
def goodFrame : BitVec 40 := 0x8000000000
def badFrame : BitVec 40 := 0x8000000001
theorem witness_positions : frameValid badFrame = false ∧ frameValid goodFrame = true ∧
    (!idle.bit (F.MOT_AX_CTL_PRIMARY 3)) ≠ idle.bit (F.MOT_AX_CTL_PRIMARY 3) := by decide +kernel
theorem witness_pos_lost : idle.bit (F.MOT_AX_FAULT_POS_LOST 3) = false ∧ idle.mot.home = none ∧ idle.mot.arm = none ∧ idle.core = .idle := by
  decide +kernel
/-- The spare lane of group 3 has passed its training; lane 7 carries nothing, and lane 6 transmits nothing. -/
def spared : State := linked.updGrp 3 fun x => { x with map := [0, 1, 2, 3, 4, 5, 0xF, 0xF], trained := 0x1BF }
theorem witness_lane_blocks : linked.live ∧ carriedOn 3 7 linked = some 7 ∧ transmits 3 7 linked = true ∧ spared.live ∧
    carriedOn 3 7 spared = none ∧ transmits 3 7 spared = true ∧ transmits 3 6 spared = false :=
  ⟨linked_live, by decide +kernel, by decide +kernel, linked_live, by decide +kernel⟩
theorem witness_setpoints : sendsFrames idle = true := by decide +kernel

theorem witness_planner : exposing.lch.run = some run ∧ exposing.loaves.head? = some loaf ∧ pairStandby exposing = false ∧
    exposing.mot.scan.state = .run := by decide +kernel
/-- The committed end lies in the past. -/
def behind : State := { exposing with mot := { exposing.mot with scan := { exposing.mot.scan with e := 0 } } }
theorem witness_planner_horizon : behind.live ∧ behind.mot.scan.state = .run ∧
    behind.mot.scan.e < tickNs (behind.ns / 10000) + 1000 * (behind.fld F.MOT_CTL_HORIZON_US : Rat) := by
  refine ⟨exposing_live, by decide +kernel, ?_⟩
  have h : behind.ns / 10000 = 0 ∧ behind.fld F.MOT_CTL_HORIZON_US = 100 := by decide +kernel
  rw [h.1, h.2]
  decide +kernel
/-- A move of axis 3 at its end. -/
def mv (k : MoveKind) (stopping : Bool) : Mv := { axes := [(3, 0, 64)], prof := [], kind := k, stopping := stopping }
def movingBy (m : Mv) : State := { idle with mot := { idle.mot with moves := [m] } }
theorem witness_resume_move : (movingBy (mv .resume false)).live ∧
    ((movingBy (mv .resume false)).mot.moves.find? fun m => m.kind == .resume && !m.stopping) = some (mv .resume false) :=
  ⟨idle_live, by decide +kernel⟩

theorem witness_limit_edge : ((idle.axis 3).limit true).raw ≠ true ∧ ((idle.axis 3).limit false).settled = false := by decide +kernel
def touched : State := idle.updAxis 3 fun x => { x with limP := { x.limP with settled := true, raw := true } }
theorem witness_limit_fault : touched.live ∧ touched.mot.home = none ∧ (touched.axis 3).limP.settled = true ∧ (touched.axis 3).limP.raw = true ∧
    (touched.axis 3).limP.deb = false ∧ (touched.axis 3).limP.moves = [] := ⟨idle_live, by decide +kernel⟩
def homingAt2 : State := { idle with mot := { idle.mot with home := some { axes := [3], named := [3], step := 2, aborting := false } } }
theorem witness_homing_timeout : homingAt2.live ∧ homingAt2.mot.home = some { axes := [3], named := [3], step := 2, aborting := false } :=
  ⟨idle_live, by decide +kernel⟩
/-- The move has settled. -/
def stood : State := (movingBy (mv .plain false)).updAxis 3 fun x => { x with settleRun := 1000000 }
theorem witness_settled : stood.live ∧ stood.mot.moves.find? (settled stood) = some (mv .plain false) := ⟨idle_live, by decide +kernel⟩
theorem witness_stop_end : (movingBy (mv .plain true)).mot.moves = [mv .plain true] ∧ (movingBy (mv .plain true)).mot.scan.stopping = false := by
  decide +kernel

/-- PTP runs on both transports, with the clock a slave of port 1. -/
def slave : State := ((((idle.setFld F.TB_CTL_PTP_EN 1).setFld F.TB_CTL_L2_EN 1).setFld F.TB_CTL_TC_EN 1).setFld F.TB_PTP_STATUS_PORT 1).setFld
  F.TB_PTP_STATUS_STATE 1
/-- Its master has been heard, and a Delay_Req has left. -/
def master : AnnounceMsg := { domain := 0, udp := false, prio1 := 1, clockClass := 6, accuracy := 0, variance := 0, prio2 := 0, identity := 9, steps := 0 }
def following : State := { slave with tb := { slave.tb with masters := [(1, master)], reqStamp := some 2000 } }
/-- A Sync that took 350 ns, of a master with the same time. -/
def syncMsg : SyncMsg := { port := 1, domain := 0, udp := false, identity := 9, ingress := 5400, origin := 1000, correction := 0, received := 850,
                           respCorrection := 0 }
theorem witness_master : bestMaster following = some (1, master) ∧ master.identity = syncMsg.identity ∧ following.tb.reqStamp = some 2000 ∧
    following.fld (F.TB_TS_TRIM_RX_Q 1) = 0 ∧ ((1400 : Int) : Rat) = (((5400 : Rat) - 2000) + (4 * 850 - 4 * 1000)) / 2 ∧
    ((0 : Int) : Rat) = (5400 : Rat) - 4 * 1000 - 1400 := by
  refine ⟨by decide +kernel, rfl, rfl, by decide +kernel, by norm_num, by norm_num⟩
theorem witness_vlan : vlanTags 2 [0x81, 0x00, 0, 5, 0x08, 0x00] = 1 ∧ vlanTags 2 [0x88, 0xA8, 0, 5, 0x81, 0x00, 0, 6] = 2 := by decide +kernel
theorem witness_sync : servesPtp 0 false slave = true ∧ (1 : Fin 2).val = slave.fld F.TB_PTP_STATUS_PORT ∧ slave.fld F.TB_PTP_STATUS_STATE ≠ 0 ∧
    slave.fld F.TB_PTP_STATUS_STATE ≠ 3 ∧ slave.bit F.TB_CTL_PTP_EN = true ∧ slave.bit F.TB_CTL_TC_EN = true := by decide +kernel
theorem witness_timing_port : idle.lnk.eth = 0 ∧ (List.replicate 1522 (0 : Byte)).length ≤ 1522 := by decide +kernel

/-! The block as a whole. -/

theorem witness_held : heldInReset State.reset = true ∧ (Instr.nop .host ⟨0, 0⟩ []).wellFormed = true := by decide +kernel
theorem witness_not_pins : ¬WatchesPins (.nop .host ⟨0, 0⟩ []) := by simp [WatchesPins]
theorem witness_tick : idle.pending = [] ∧ idle.tb.step = 0 ∧ idle.cal.waiting = [] ∧ idle.cmd.held = [] := by decide +kernel
theorem test_nop_runs : nextHas (step { idle with pending := [.nop .host ⟨5, 0⟩ [7]] }) (fun t =>
    t.out.contains (.reply .host 5 0x01 0 [7]) && t.pending == []) = true := by decide +kernel
theorem test_open_beam : nextHas (step idle) (fun t => t.pins.safeBlank == .deasserted) = true := by decide +kernel
theorem test_first_step_after_reset : nextHas (step State.reset) (fun t => t.core == .boot && t.tb.t == 0) = true := by decide +kernel
end Sys2Proof.Tests
end

section
/-!
SUPPORT. What a write does that the register's row gives to a port: the fields it stores, what a CLEAR clears, and a read of BAR0.
-/
namespace Sys2Proof.Machine

/-! Bytes of a slot (R10). -/

theorem leBytes_length (n v : Nat) : (leBytes n v).length = n := by
  induction n generalizing v with
  | zero => rfl
  | succ n ih => simp [leBytes, ih]

theorem leNat_leBytes (n v : Nat) (h : v < 256 ^ n) : leNat (leBytes n v) = v := by
  induction n generalizing v with
  | zero => simp only [Nat.pow_zero] at h; simp only [leBytes, leNat, List.foldr_nil]; omega
  | succ n ih =>
    have hd : leNat (leBytes n (v / 256)) = v / 256 := ih _ (Nat.div_lt_of_lt_mul (by rw [Nat.pow_succ'] at h; exact h))
    calc leNat (leBytes (n + 1) v)
      _ = v % 256 + 256 * leNat (leBytes n (v / 256)) := by simp [leBytes, leNat]
      _ = v := by rw [hd, Nat.mod_add_div]

theorem slotBytes_length (v : Word) : (slotBytes v).length = 8 := leBytes_length _ _

theorem leNat_slotBytes (v : Word) : leNat (slotBytes v) = v.toNat := leNat_leBytes _ _ (by omega)

/-! The registers and the blocks that hold them. -/

theorem blockRows_outside {a : BitVec 19} (h : outsideBlocks a = true) : blockRows a.toNat = none := by
  have h' : (0x7000 ≤ a.toNat ∧ a.toNat < 0x8000) ∨ (0x9000 ≤ a.toNat ∧ a.toNat < 0x10000) ∨
      (0x38000 ≤ a.toNat ∧ a.toNat < 0x40000) := of_decide_eq_true h
  rcases h' with ⟨hl, hh⟩ | ⟨hl, hh⟩ | ⟨hl, hh⟩ <;> simp (disch := omega) only [blockRows, if_pos, if_neg]

theorem regRow_outside {addr : Nat} (h : blockRows addr = none) : regRow addr = none := by unfold regRow; rw [h]

theorem regValue_outside {addr : Nat} (s : State) (h : blockRows addr = none) : regValue addr s = 0 := by
  simp [regValue, regRow_outside h]

theorem writeRight_outside {p : Port} {addr : Nat} (s : State) (hp : p ≠ .partner) (h : blockRows addr = none) :
    writeRight p addr s = none := by simp [writeRight, hp, h]

/-! The two ways of an aligned write. -/

/-- An aligned write by a port with the right, to an address where a register stands. -/
theorem rowWrite_register {p : Port} {addr : Nat} {r : RegRow} {s : State} (v : Word) (ha : addr % 8 = 0)
    (hw : writeRight p addr s = none) (hr : regRow addr = some r) : rowWrite p addr v s = applyWrite r addr v s := by
  simp [rowWrite, ha, writeReg, hw, hr]

/-- An aligned write outside every block (R39). -/
theorem rowWrite_outside {p : Port} {addr : Nat} {s : State} (v : Word) (ha : addr % 8 = 0) (hp : p ≠ .partner)
    (h : blockRows addr = none) : rowWrite p addr v s = badAccess 1 addr s := by
  simp [rowWrite, ha, writeReg, writeRight_outside s hp h, regRow_outside h, h]

/-! The fields of a write (R13). -/

theorem takeFields_read_only {ok : FieldRow → Bool} {fs : List FieldRow} (v old : Word) (h : ∀ f ∈ fs, f.acc = .ro ∨ f.acc = .wo) :
    takeFields ok fs v old = (old, false) := by
  unfold takeFields
  induction fs with
  | nil => rfl
  | cons f fs ih =>
    have hf : takeField ok v (old, false) f = (old, false) := by
      rcases h f List.mem_cons_self with e | e <;> simp [takeField, e]
    rw [List.foldl_cons, hf]
    exact ih fun g hg => h g (List.mem_cons_of_mem _ hg)

/-- The value that a field holds after a write that it takes (R13). -/
def FieldRow.after (f : FieldRow) (old v : Nat) : Nat :=
  match f.acc with
  | .rw | .sh => v
  | .w1c => old - (old &&& v)
  | .ro | .wo => old

theorem storedWord_iff (r : RegRow) (old v new : Word) :
    StoredWord r old v new ↔ ∀ f ∈ r.fields, wbits new f.hi f.lo = f.after (wbits old f.hi f.lo) (wbits v f.hi f.lo) := by
  refine forall₂_congr fun f _ => ?_
  unfold FieldRow.after
  cases f.acc <;> rfl

/-- A field lies within a word. -/
def FieldRow.Placed (f : FieldRow) : Prop := f.lo ≤ f.hi ∧ f.hi < 36

/-- Two fields share no bit. -/
def FieldRow.Apart (f g : FieldRow) : Prop := f.hi < g.lo ∨ g.hi < f.lo

/-- A field takes its value of the word written: RW and SH fields judge it (R42). -/
def FieldRow.Takes (ok : FieldRow → Bool) (v : Word) (f : FieldRow) : Prop :=
  f.acc = .rw ∨ f.acc = .sh → f.rng.ok (wbits v f.hi f.lo) = true ∧ ok f = true

theorem wbits_lt (w : Word) (hi lo : Nat) : wbits w hi lo < 2 ^ (hi + 1 - lo) := Nat.mod_lt _ (Nat.two_pow_pos _)

/-- A field that takes its value is stored, and refuses nothing. -/
theorem takeField_same {ok : FieldRow → Bool} {v : Word} {f : FieldRow} (x : Word × Bool) (hp : f.Placed) (ht : f.Takes ok v) :
    wbits (takeField ok v x f).1 f.hi f.lo = f.after (wbits x.1 f.hi f.lo) (wbits v f.hi f.lo) ∧ (takeField ok v x f).2 = x.2 := by
  obtain ⟨hlo, h36⟩ := hp
  have hv := wbits_lt v f.hi f.lo
  have hx := wbits_lt x.1 f.hi f.lo
  unfold takeField FieldRow.after
  cases ha : f.acc with
  | ro | wo => exact ⟨rfl, rfl⟩
  | w1c => exact ⟨by rw [wbits_setBits_same _ _ _ _ hlo h36, Nat.mod_eq_of_lt (by omega)], rfl⟩
  | rw | sh =>
    obtain ⟨hr, ho⟩ := ht (by simp [ha])
    simp [hr, ho, wbits_setBits_same _ _ _ _ hlo h36, Nat.mod_eq_of_lt hv]

/-- A field stores nothing outside its bits. -/
theorem takeField_apart {ok : FieldRow → Bool} {v : Word} {f g : FieldRow} (x : Word × Bool) (hp : f.Placed) (h : f.Apart g) :
    wbits (takeField ok v x f).1 g.hi g.lo = wbits x.1 g.hi g.lo := by
  obtain ⟨hlo, -⟩ := hp
  unfold takeField
  cases f.acc with
  | ro | wo => rfl
  | w1c => exact wbits_setBits_other _ hlo h
  | rw | sh => dsimp only; split <;> [exact wbits_setBits_other _ hlo h; rfl]

theorem foldl_takeField_apart {ok : FieldRow → Bool} {v : Word} {fs : List FieldRow} {g : FieldRow} (x : Word × Bool)
    (hp : ∀ f ∈ fs, f.Placed) (h : ∀ f ∈ fs, f.Apart g) :
    wbits (fs.foldl (takeField ok v) x).1 g.hi g.lo = wbits x.1 g.hi g.lo := by
  induction fs generalizing x with
  | nil => rfl
  | cons f fs ih =>
    rw [List.foldl_cons, ih _ (fun k hk => hp k (List.mem_cons_of_mem _ hk)) (fun k hk => h k (List.mem_cons_of_mem _ hk))]
    exact takeField_apart x (hp f List.mem_cons_self) (h f List.mem_cons_self)

theorem foldl_takeField_stored {ok : FieldRow → Bool} {v : Word} {fs : List FieldRow} (x : Word × Bool)
    (hp : ∀ f ∈ fs, f.Placed) (hd : fs.Pairwise FieldRow.Apart) (ht : ∀ f ∈ fs, f.Takes ok v) :
    (∀ f ∈ fs, wbits (fs.foldl (takeField ok v) x).1 f.hi f.lo = f.after (wbits x.1 f.hi f.lo) (wbits v f.hi f.lo)) ∧
      (fs.foldl (takeField ok v) x).2 = x.2 := by
  induction fs generalizing x with
  | nil => simp
  | cons f fs ih =>
    obtain ⟨hf, hd⟩ := List.pairwise_cons.1 hd
    obtain ⟨hpf, hps⟩ := List.forall_mem_cons.1 hp
    obtain ⟨htf, hts⟩ := List.forall_mem_cons.1 ht
    obtain ⟨hsame, hnone⟩ := takeField_same x hpf htf
    obtain ⟨hrest, hflag⟩ := ih (takeField ok v x f) hps hd hts
    rw [List.foldl_cons]
    refine ⟨List.forall_mem_cons.2 ⟨?_, fun g hg => ?_⟩, hflag.trans hnone⟩
    · rw [foldl_takeField_apart _ hps fun g hg => (hf g hg).symm, hsame]
    · rw [hrest g hg, takeField_apart x hpf (hf g hg)]

/-- A write whose fields all take their values stores them, and refuses nothing (R13, R42). -/
theorem takeFields_stored {ok : FieldRow → Bool} {r : RegRow} {v : Word} (old : Word) (hp : ∀ f ∈ r.fields, f.Placed)
    (hd : r.fields.Pairwise FieldRow.Apart) (ht : ∀ f ∈ r.fields, f.Takes ok v) :
    StoredWord r old v (takeFields ok r.fields v old).1 ∧ (takeFields ok r.fields v old).2 = false := by
  obtain ⟨hs, hn⟩ := foldl_takeField_stored (old, false) hp hd ht
  exact ⟨(storedWord_iff _ _ _ _).2 hs, hn⟩

/-! What a write does beside storing. -/

theorem withTop_top (v : Word) : (withTop true v).getLsbD 35 = true :=
  (setBits_testBit v 35 35 1 35 (Nat.le_refl _)).trans rfl

theorem heeded_no_axis {addr : Nat} (v : Word) (s : State) (h : 4 ≤ faultAxis addr) : heeded addr v s = v :=
  if_neg (Nat.not_lt.2 h)

/-- A register that does not act when written does nothing beside storing but clear, where bit 35 is written 1; the counter of rejected
accesses acts in no other way. -/
theorem wrote_no_action {addr : Nat} (v : Word) (old s : State) (h : actsWhenWritten addr = false ∨ addr = A.GLB_BAD_ACCESS_CNT) :
    wrote addr v old s = if v.getLsbD 35 then clearWritten addr s else s := by
  rcases h with h | rfl
  · simp only [actsWhenWritten, List.contains_cons, List.contains_nil, Bool.or_eq_false_iff, beq_eq_false_iff_ne] at h
    simp only [wrote, h, if_false]
  · rfl

/-- A write that is not refused, and whose fields leave the word `w`. -/
theorem applyWrite_taken {r : RegRow} {addr : Nat} {v u w : Word} {s : State} (hh : heeded addr v s = u)
    (hr : refusesWhole addr u s = false) (ht : takeFields (fun f => valueOk addr f u s) r.fields u (s.getReg addr) = (w, false))
    (hk : relationOk addr w s = true) (hne : addr ≠ A.CAL_TRIM_DATA) :
    applyWrite r addr v s = wrote addr u s (s.setReg addr w) := by
  simp [applyWrite, hh, hr, ht, hk, hne]

/-! What CLEAR does (R41, R43, R84, R113, R301, R302, R416). -/

/-- A port with the right writes 1 to CLEAR of a register of which a write stores nothing. -/
theorem rowWrite_clear {p : Port} {addr : Nat} {r : RegRow} (v : Word) {s : State} (ha : addr % 8 = 0)
    (hw : writeRight p addr s = none) (hact : actsWhenWritten addr = false ∨ addr = A.GLB_BAD_ACCESS_CNT) (hx : 4 ≤ faultAxis addr)
    (hr : refusesWhole addr (withTop true v) s = false) (hrow : regRow addr = some r)
    (hf : ∀ f ∈ r.fields, f.acc = .ro ∨ f.acc = .wo) (hk : relationOk addr (s.getReg addr) s = true) :
    rowWrite p addr (withTop true v) s = clearWritten addr (s.setReg addr (s.getReg addr)) := by
  have hne : addr ≠ A.CAL_TRIM_DATA := by
    rintro rfl
    rcases hact with h | h
    · exact absurd h (by decide)
    · exact absurd h (by decide)
  rw [rowWrite_register _ ha hw hrow, applyWrite_taken (heeded_no_axis _ _ hx) hr (takeFields_read_only _ _ hf) hk hne,
    wrote_no_action _ _ _ hact, if_pos (withTop_top v)]

theorem ne_badAccessCnt_of_not_acts {addr : Nat} (h : actsWhenWritten addr = false) : addr ≠ A.GLB_BAD_ACCESS_CNT := by
  rintro rfl
  exact absurd h (by decide)

theorem clearWritten_counters {addr : Nat} (s : State) (h : addr ≠ A.GLB_BAD_ACCESS_CNT) (hv : recordValid addr = none)
    (ht : addr ≠ A.TB_EVT_CNT) (hc : isCounters addr = true) : clearWritten addr s = s.setReg addr 0 := by
  simp [clearWritten, h, hv, ht, hc]

theorem clearWritten_record {addr : Nat} {f : Fld} (s : State) (h : addr ≠ A.GLB_BAD_ACCESS_CNT) (hv : recordValid addr = some f) :
    clearWritten addr s = s.setFld f 0 := by simp [clearWritten, h, hv]

theorem afterClear_counters {addr : Nat} (hw : Word) (s : State) (h : addr ≠ A.GLB_BAD_ACCESS_CNT) (ht : addr ≠ A.TB_EVT_CNT)
    (hc : isCounters addr = true) : afterClear addr hw s = raiseAll (flagsIn (addr - 8) hw) s := by
  simp [afterClear, h, ht, hc]

theorem getReg_setReg_self (s : State) (a b : Nat) : (s.setReg a (s.getReg a)).getReg b = s.getReg b := by
  by_cases h : b = a
  · rw [h, getReg_setReg]
  · exact getReg_setReg_ne s _ h

/-- A rejected access in the epoch of the clear comes after it (R43). -/
theorem afterClear_badAccess {hw : Word} (s : State) (h : hw.getLsbD 35 = true) :
    afterClear A.GLB_BAD_ACCESS_CNT hw s = badAccess (wbits hw 34 33) (wbits hw 18 0) s := by simp [afterClear, h]

/-! What changes registers alone. -/

/-- Everything that is no register stays. -/
def OnlyRegs (s t : State) : Prop := t = { s with regs := t.regs }

theorem OnlyRegs.trans {s t u : State} (h : OnlyRegs s t) (h' : OnlyRegs t u) : OnlyRegs s u :=
  Eq.trans h' (congrArg (fun x : State => { x with regs := u.regs }) h)

theorem onlyRegs_setReg (s : State) (a : Nat) (w : Word) : OnlyRegs s (s.setReg a w) := rfl

theorem onlyRegs_setFld (s : State) (f : Fld) (v : Nat) : OnlyRegs s (s.setFld f v) := rfl

theorem onlyRegs_badAccess (k a : Nat) (s : State) : OnlyRegs s (badAccess k a s) :=
  (onlyRegs_setFld _ _ _).trans ((onlyRegs_setFld _ _ _).trans ((onlyRegs_setFld _ _ _).trans (onlyRegs_setFld _ _ _)))

/-! A rejected access (R12, R39, R40). -/

theorem getReg_badAccess_ne (k a : Nat) (s : State) {b : Nat} (hc : b ≠ A.GLB_BAD_ACCESS_CNT) (ha : b ≠ A.GLB_BAD_ACCESS_ADDR) :
    (badAccess k a s).getReg b = s.getReg b := by
  rw [badAccess, getReg_setFld_ne _ _ ha, getReg_setFld_ne _ _ ha, getReg_setFld_ne _ _ ha]
  exact getReg_setFld_ne s _ hc

/-- The count of rejected accesses after one more. -/
theorem badAccess_count (k a : Nat) (s : State) :
    (badAccess k a s).fld F.GLB_BAD_ACCESS_CNT_COUNT = min (s.fld F.GLB_BAD_ACCESS_CNT_COUNT + 1) (2 ^ 32 - 1) := by
  rw [badAccess, fld_setFld_other _ _ (by decide) (.inl (by decide)), fld_setFld_other _ _ (by decide) (.inl (by decide)),
    fld_setFld_other _ _ (by decide) (.inl (by decide))]
  exact fld_bumpBy s _ 1 (by decide) (by decide)

/-- The record of a rejected access describes it. -/
theorem badAccess_record (k a : Nat) (s : State) :
    (badAccess k a s).fld F.GLB_BAD_ACCESS_ADDR_VALID = 1 ∧ (badAccess k a s).fld F.GLB_BAD_ACCESS_ADDR_KIND = k % 2 ^ 2 ∧
      (badAccess k a s).fld F.GLB_BAD_ACCESS_ADDR_ADDR = a % 2 ^ 19 := by
  refine ⟨?_, ?_, ?_⟩
  · rw [badAccess, fld_setFld_other _ _ (by decide) (.inr (by decide)), fld_setFld_other _ _ (by decide) (.inr (by decide))]
    exact fld_setFld _ _ _ (by decide) (by decide)
  · rw [badAccess, fld_setFld_other _ _ (by decide) (.inr (by decide))]
    exact fld_setFld _ _ _ (by decide) (by decide)
  · exact fld_setFld _ _ _ (by decide) (by decide)

/-! Reads of BAR0 (R10, R12, R40). -/

theorem barRead_malformed {addr len : Nat} (s : State) (h8 : len ≠ 8 ∨ addr % 8 ≠ 0) (h4 : len ≠ 4 ∨ addr % 4 ≠ 0) :
    barRead addr len s = emit (.barData addr (List.replicate len 0)) (badAccess 2 addr s) := by
  rw [barRead, if_neg (by omega)]

/-- A read of a register that shows no capture captures nothing. -/
theorem readReg_no_capture {p : Port} {addr : Nat} {s : State} (h : captured p addr s = none) :
    readReg p addr s = (regValue addr s, s) := by
  have hlo : addr ≠ A.TB_TIME_LO := by rintro rfl; cases h
  have hf0 : addr ≠ A.CAM_FSTAT0 := by rintro rfl; cases h
  simp [readReg, hlo, hf0, h]

/-- An aligned read of a register that shows no capture gives the bytes addressed. -/
theorem barRead_aligned {addr len : Nat} {s : State} (h : (len = 8 ∧ addr % 8 = 0) ∨ (len = 4 ∧ addr % 4 = 0))
    (hc : captured .host (addr - addr % 8) s = none) :
    barRead addr len s =
      emit (.barData addr (((slotBytes (regValue (addr - addr % 8) s)).drop (addr % 8)).take len)) s := by
  rw [barRead, if_pos h, readReg_no_capture hc]

@[simp] theorem port_updPort (c : Cmd) (p : Port) (f : PortState → PortState) : (c.updPort p f).port p = f (c.port p) := by
  cases p <;> rfl

/-- A read of TB_TIME_LO captures the time, and shows its low whole nanoseconds (R266). -/
theorem readReg_timeLo (p : Port) (s : State) :
    readReg p A.TB_TIME_LO s = (BitVec.ofNat 36 (s.tb.t.toNat / 2 ^ 32 % 2 ^ 36), captureTime p s) := by
  have hc : ((captureTime p s).cmd.port p).capt = s.tb.t := by simp [captureTime]
  have hv : s.tb.t.extractLsb' 32 36 = BitVec.ofNat 36 (s.tb.t.toNat / 2 ^ 32 % 2 ^ 36) :=
    BitVec.eq_of_toNat_eq (by simp [Nat.shiftRight_eq_div_pow])
  simp only [readReg, captured, hc, hv, if_true, Option.getD_some]

/-- A read of CAM_FSTAT0 captures the statistics of the last finished frame, and shows the first word of them (R424). -/
theorem readReg_fstat0 (p : Port) (s : State) :
    readReg p A.CAM_FSTAT0 s = (s.getReg A.CAM_FSTAT0, captureFstat p s) := by
  have hc : ((captureFstat p s).cmd.port p).fstat =
      [s.getReg A.CAM_FSTAT0, s.getReg A.CAM_FSTAT1, s.getReg A.CAM_FSTAT2, s.getReg A.CAM_FSTAT3] := by simp [captureFstat]
  simp [readReg, captured, hc, nth]

end Sys2Proof.Machine
end

section
/-!
PROOFS. Rejected accesses, reads of BAR0 and clears (R10, R12, R39, R40, R43, R266, R325, R416, R424).
-/
namespace Sys2Proof.Machine

/-- The outcomes of the rows of BAR0 accesses that are no register accesses (R12, R39, R40). -/
theorem exec_bar_access (a : BitVec 19) {s : State} (hl : s.live) :
    (∀ n, n ≠ 8 ∨ a.toNat % 8 ≠ 0 → exec (.nonAlignedWrite a n) s = .next (finish s (badAccess 0 a.toNat s))) ∧
    (∀ v, a.toNat % 8 = 0 → outsideBlocks a = true → exec (.outOfBlockWrite a v) s = .next (finish s (badAccess 1 a.toNat s))) ∧
    (∀ n, exec (.malformedRead a n) s = .next (finish s (barRead a.toNat n s))) := by
  refine ⟨fun n hn => ?_, fun v ha ho => ?_, fun n => done_live hl _⟩
  · have hn' : ¬(n = 8 ∧ a.toNat % 8 = 0) := by omega
    exact (done_live hl _).trans (by rw [if_neg hn'])
  · exact (done_live hl _).trans (by rw [rowWrite_outside v ha (by decide) (blockRows_outside ho)])

/-- Settles O36: each access falls in one case of the write or of the read that its row makes. -/
theorem rejectedAccessesAndCapturingReads : Obligations.RejectedAccessesAndCapturingReads := by
  unfold Obligations.RejectedAccessesAndCapturingReads
  refine ⟨fun v => ⟨slotBytes_length v, leNat_slotBytes v⟩, fun a s hl => ?_, fun p s hl => ⟨?_, ?_⟩⟩
  · obtain ⟨hw, ho, hr⟩ := exec_bar_access a hl
    refine ⟨hw, ho, fun n h8 h4 => ?_, fun hc => ⟨fun ha => ⟨?_, ?_⟩, fun ha => ?_⟩,
      fun _ h => regValue_outside s (blockRows_outside h)⟩
    · rw [hr, barRead_malformed s h8 h4]; rfl
    · rw [hr, barRead_aligned (.inl ⟨rfl, ha⟩) hc, ha, List.drop_zero, List.take_of_length_le (slotBytes_length _).le]
    · rw [hr, barRead_aligned (.inr ⟨rfl, by omega⟩) hc, ha, List.drop_zero]
    · rw [hr, barRead_aligned (.inr ⟨rfl, by omega⟩) hc, ha, List.take_of_length_le (by simp [slotBytes_length])]
  · refine (done_live hl _).trans ?_
    rw [rowRead, readReg_timeLo]
    rfl
  · refine (done_live hl _).trans ?_
    rw [rowRead, readReg_fstat0]
    rfl

end Sys2Proof.Machine
end

section
/-!
PROOFS. What CLEAR and a write to the fault causes of an axis clear (R43, R84, R113, R301, R302, R325, R416).
-/
namespace Sys2Proof.Machine

theorem eventCounters_read_only : ∃ r, regRow A.TB_EVT_CNT = some r ∧ ∀ f ∈ r.fields, f.acc = .ro ∨ f.acc = .wo :=
  ⟨_, rfl, by decide⟩

theorem badAccessCnt_read_only : ∃ r, regRow A.GLB_BAD_ACCESS_CNT = some r ∧ ∀ f ∈ r.fields, f.acc = .ro ∨ f.acc = .wo :=
  ⟨_, rfl, by decide⟩

/-- The CLEAR of TB_EVT_CNT: the register and the two counters of TB_JNL_STATUS end at 0. -/
theorem clearWritten_eventCounters (s : State) :
    (clearWritten A.TB_EVT_CNT s).getReg A.TB_EVT_CNT = 0 ∧
    (clearWritten A.TB_EVT_CNT s).fld F.TB_JNL_STATUS_RESTORED_CNT = 0 ∧
    (clearWritten A.TB_EVT_CNT s).fld F.TB_JNL_STATUS_TRUNC_CNT = 0 ∧
    (∀ b, b ≠ A.TB_EVT_CNT → b ≠ A.TB_JNL_STATUS → (clearWritten A.TB_EVT_CNT s).getReg b = s.getReg b) ∧
    OnlyRegs s (clearWritten A.TB_EVT_CNT s) := by
  have e : clearWritten A.TB_EVT_CNT s =
    ((s.setReg A.TB_EVT_CNT 0).setFld F.TB_JNL_STATUS_RESTORED_CNT 0).setFld F.TB_JNL_STATUS_TRUNC_CNT 0 := rfl
  rw [e]
  refine ⟨?_, ?_, fld_setFld _ _ _ (by decide) (by decide), fun b hc hj => ?_,
    (onlyRegs_setReg _ _ _).trans ((onlyRegs_setFld _ _ _).trans (onlyRegs_setFld _ _ _))⟩
  · rw [getReg_setFld_ne _ _ (by decide), getReg_setFld_ne _ _ (by decide), getReg_setReg]
  · rw [fld_setFld_other _ _ (by decide) (.inr (by decide))]
    exact fld_setFld _ _ _ (by decide) (by decide)
  · rw [getReg_setFld_ne _ _ hj, getReg_setFld_ne _ _ hj, getReg_setReg_ne _ _ hc]

/-- The CLEAR of the counter of rejected accesses. -/
theorem clearWritten_badAccessCnt (s : State) :
    (clearWritten A.GLB_BAD_ACCESS_CNT s).fld F.GLB_BAD_ACCESS_CNT_COUNT = 0 ∧
    (∀ b, b ≠ A.GLB_BAD_ACCESS_CNT → b ≠ A.GLB_BAD_ACCESS_ADDR → (clearWritten A.GLB_BAD_ACCESS_CNT s).getReg b = s.getReg b) ∧
    OnlyRegs s (clearWritten A.GLB_BAD_ACCESS_CNT s) := by
  have e : clearWritten A.GLB_BAD_ACCESS_CNT s =
    (s.setFld F.GLB_BAD_ACCESS_CNT_COUNT 0).setFld F.GLB_BAD_ACCESS_ADDR_VALID 0 := rfl
  rw [e]
  refine ⟨?_, fun b hc ha => ?_, (onlyRegs_setFld _ _ _).trans (onlyRegs_setFld _ _ _)⟩
  · rw [fld_setFld_other _ _ (by decide) (.inl (by decide))]
    exact fld_setFld _ _ _ (by decide) (by decide)
  · rw [getReg_setFld_ne _ _ ha, getReg_setFld_ne _ _ hc]

/-- The causes of MOT_AX_FAULT are W1C bits side by side (R301). -/
theorem axisFault_fields (x : Fin 4) {r : RegRow} (h : regRow (A.MOT_AX_FAULT x.val) = some r) :
    (∀ f ∈ r.fields, f.Placed) ∧ r.fields.Pairwise FieldRow.Apart ∧ ∀ f ∈ r.fields, f.acc = .w1c := by
  have e : ∀ x : Fin 4, regRow (A.MOT_AX_FAULT x.val) = regRow (A.MOT_AX_FAULT 0) := by decide
  obtain rfl : _ = r := Option.some.inj ((e x).symm.trans h)
  refine ⟨?_, ?_, ?_⟩ <;> simp [FieldRow.Placed, FieldRow.Apart]

theorem clearWritten_axisFault (x : Fin 4) (s : State) : clearWritten (A.MOT_AX_FAULT x.val) s = s := by
  have hv : ∀ x : Fin 4, recordValid (A.MOT_AX_FAULT x.val) = none := by decide
  have hc : ∀ x : Fin 4, isCounters (A.MOT_AX_FAULT x.val) = false := by decide
  have hn : ∀ x : Fin 4, A.MOT_AX_FAULT x.val ≠ A.GLB_BAD_ACCESS_CNT ∧ A.MOT_AX_FAULT x.val ≠ A.TB_EVT_CNT := by decide
  simp only [clearWritten, hn x, hv, hc, if_false, Bool.false_eq_true]

theorem wrote_axisFault (x : Fin 4) (v : Word) (old s : State) : wrote (A.MOT_AX_FAULT x.val) v old s = s := by
  have hact : ∀ x : Fin 4, actsWhenWritten (A.MOT_AX_FAULT x.val) = false := by decide
  rw [wrote_no_action _ _ _ (.inl (hact x)), clearWritten_axisFault, ite_self]

theorem writeRight_axisFault (x : Fin 4) (s : State) : writeRight .host (A.MOT_AX_FAULT x.val) s = none := by
  match x with | 0 | 1 | 2 | 3 => rfl

theorem heeded_axisFault (x : Fin 4) (v : Word) (s : State) : heeded (A.MOT_AX_FAULT x.val) v s = faultBits x.val v s := by
  have hx : ∀ x : Fin 4, faultAxis (A.MOT_AX_FAULT x.val) = x.val := by decide
  rw [heeded, hx, if_pos x.isLt]

theorem refusesWhole_axisFault (x : Fin 4) (v : Word) (s : State) : refusesWhole (A.MOT_AX_FAULT x.val) v s = false := by
  match x with | 0 | 1 | 2 | 3 => rfl

theorem relationOk_axisFault (x : Fin 4) (w : Word) (s : State) : relationOk (A.MOT_AX_FAULT x.val) w s = true := by
  match x with | 0 | 1 | 2 | 3 => rfl

/-- A write to MOT_AX_FAULT by the host stores the causes that it may clear, and does nothing else. -/
theorem rowWrite_axisFault (x : Fin 4) {r : RegRow} (v : Word) (s : State) (hrow : regRow (A.MOT_AX_FAULT x.val) = some r) :
    ∃ w, StoredWord r (s.getReg (A.MOT_AX_FAULT x.val)) (faultBits x.val v s) w ∧
      rowWrite .host (A.MOT_AX_FAULT x.val) v s = s.setReg (A.MOT_AX_FAULT x.val) w := by
  obtain ⟨hp, hd, hacc⟩ := axisFault_fields x hrow
  obtain ⟨hstored, hnone⟩ := takeFields_stored (ok := fun f => valueOk (A.MOT_AX_FAULT x.val) f (faultBits x.val v s) s)
    (v := faultBits x.val v s) (s.getReg (A.MOT_AX_FAULT x.val)) hp hd fun f hf h => absurd h (by simp [hacc f hf])
  refine ⟨_, hstored, ?_⟩
  have ha : A.MOT_AX_FAULT x.val % 8 = 0 := by simp only [A.MOT_AX_FAULT]; omega
  have hne : ∀ x : Fin 4, A.MOT_AX_FAULT x.val ≠ A.CAL_TRIM_DATA := by decide
  rw [rowWrite_register _ ha (writeRight_axisFault x s) hrow, applyWrite_taken (heeded_axisFault x v s)
    (refusesWhole_axisFault x _ s) (Prod.ext rfl hnone) (relationOk_axisFault x _ s) (hne x), wrote_axisFault]

/-- The outcome of COUNTER_CLEAR: the write, then the occurrences of its epoch. -/
theorem exec_counterClear {p : Port} {a : BitVec 19} {addr : Nat} {v hw : Word} {s : State} (hl : s.live) (ha : a.toNat = addr) :
    exec (.counterClear p a v hw) s = .next (finish s (afterClear addr hw (rowWrite p addr (withTop true v) s))) := by
  rw [← ha]; exact done_live hl _

/-- Settles O38: each clear is a CLEAR written by a port with the right, or a write to the fault causes of an axis. -/
theorem clearsClearOnlyTheirRegister : Obligations.ClearsClearOnlyTheirRegister := by
  unfold Obligations.ClearsClearOnlyTheirRegister
  refine ⟨fun p a r v s hl ha hright hact hx hr hrow hf hk => ?_, fun p v s hl hright => ?_, fun x r v s hl hrow => ?_,
    fun v hw s hl h35 => ?_⟩
  · have hne := ne_badAccessCnt_of_not_acts hact
    have hclear := rowWrite_clear v ha hright (.inl hact) hx hr hrow hf hk
    refine ⟨fun hc hv ht => ?_, fun f hv hlo h36 => ?_⟩
    · rw [clearWritten_counters _ hne hv ht hc] at hclear
      refine ⟨(s.setReg a.toNat (s.getReg a.toNat)).setReg a.toNat 0, fun hw => ?_, getReg_setReg _ _ _, fun b hb => ?_,
        (onlyRegs_setReg _ _ _).trans (onlyRegs_setReg _ _ _)⟩
      · rw [exec_counterClear hl rfl, hclear, afterClear_counters hw _ hne ht hc]
      · rw [getReg_setReg_ne _ _ hb, getReg_setReg_self]
    · rw [clearWritten_record _ hne hv] at hclear
      refine ⟨(s.setReg a.toNat (s.getReg a.toNat)).setFld f 0, (done_live hl _).trans (by rw [hclear]), ?_, fun b hb => ?_,
        (onlyRegs_setReg _ _ _).trans (onlyRegs_setFld _ _ _)⟩
      · simp [State.bit, fld_setFld _ f 0 hlo.le h36]
      · rw [getReg_setFld_ne _ _ hb, getReg_setReg_self]
  · obtain ⟨r, hrow, hf⟩ := eventCounters_read_only
    have hclear := rowWrite_clear v (by decide) hright (.inl (by decide)) (by decide) rfl hrow hf rfl
    obtain ⟨hreg, hres, htr, hrest, hregs⟩ := clearWritten_eventCounters (s.setReg A.TB_EVT_CNT (s.getReg A.TB_EVT_CNT))
    refine ⟨_, fun hw => ?_, hreg, hres, htr, fun b hb hj => ?_, (onlyRegs_setReg _ _ _).trans hregs⟩
    · rw [exec_counterClear (addr := A.TB_EVT_CNT) hl rfl, hclear]
      rfl
    · rw [hrest b hb hj, getReg_setReg_self]
  · obtain ⟨w, hstored, hwrite⟩ := rowWrite_axisFault x v s hrow
    exact ⟨w, hstored, (done_live hl _).trans (by rw [hwrite])⟩
  · obtain ⟨r, hrow, hf⟩ := badAccessCnt_read_only
    have hclear := rowWrite_clear (p := .host) (s := s) v (by decide) rfl (.inr rfl) (by decide) rfl hrow hf rfl
    obtain ⟨hcnt, hrest, hregs⟩ := clearWritten_badAccessCnt (s.setReg A.GLB_BAD_ACCESS_CNT (s.getReg A.GLB_BAD_ACCESS_CNT))
    obtain ⟨hvalid, hkind, haddr⟩ := badAccess_record (wbits hw 34 33) (wbits hw 18 0)
      (clearWritten A.GLB_BAD_ACCESS_CNT (s.setReg A.GLB_BAD_ACCESS_CNT (s.getReg A.GLB_BAD_ACCESS_CNT)))
    refine ⟨_, ?_, ?_, hvalid, ?_, ?_, fun b hb hba => ?_, (onlyRegs_setReg _ _ _).trans (hregs.trans (onlyRegs_badAccess _ _ _))⟩
    · rw [exec_counterClear (addr := A.GLB_BAD_ACCESS_CNT) hl rfl, hclear, afterClear_badAccess _ h35]
    · rw [badAccess_count, hcnt]
      rfl
    · rw [haddr, Nat.mod_eq_of_lt (wbits_lt hw 18 0)]
    · rw [hkind, Nat.mod_eq_of_lt (wbits_lt hw 34 33)]
    · rw [getReg_badAccess_ne _ _ _ hb hba, hrest b hb hba, getReg_setReg_self]

end Sys2Proof.Machine
end

section
/-!
PROOFS. The release, the renewal and the end of the leases of both locks (R406, R407, R409, R410).
-/
namespace Sys2Proof.Machine

/-! Locks of a command in flight. -/

@[simp] theorem lockOf_taken (n : Nat) (s : State) (r : Req) : lockOf n (s.taken r) = lockOf n s := rfl
@[simp] theorem holds_taken (p : Port) (n : Nat) (s : State) (r : Req) : holds p n (s.taken r) = holds p n s := rfl
@[simp] theorem leaseOver_taken (n : Nat) (s : State) (r : Req) : leaseOver n (s.taken r) = leaseOver n s := rfl

@[simp] theorem inFlight_setLock (p : Port) (tag : BitVec 10) (n : Nat) (l : Option Lease) (s : State) :
    inFlight p tag (setLock n l s) = inFlight p tag s := by
  unfold setLock; split <;> rfl

theorem setLock_taken (n : Nat) (l : Option Lease) (s : State) (r : Req) : setLock n l (s.taken r) = (setLock n l s).taken r := by
  unfold setLock; split <;> rfl

theorem setLock_lockOf (n : Nat) (s : State) : setLock n (lockOf n s) s = s := by
  unfold setLock lockOf; split <;> rfl

/-- A lock command finds the locks as they stand while no lease is over (R406). -/
theorem expireDue_none_over {s : State} (h0 : leaseOver 0 s = false) (h1 : leaseOver 1 s = false) : expireDue s = s := by
  simp [expireDue, h0, h1]

/-- A refusal of a request other than LOAF_LOAD and a capture carries no payload (R394, R435). -/
theorem refuse_no_payload {r : Req} (st : Nat) (s : State) (hload : r.op ≠ 0x12) (hcapt : r.op ≠ 0x40) :
    refuse r st s = r.reply st [] s := by simp [refuse, refusalPayload, hload, hcapt]

/-! LOCK_RELEASE (R410). -/

/-- The state that LOCK_RELEASE leaves. -/
theorem bodyLockRelease_taken {r : Req} {s : State} (hop : r.op = 0x21) (hfree : inFlight r.port r.tag s = false)
    (h0 : leaseOver 0 s = false) (h1 : leaseOver 1 s = false) :
    bodyLockRelease r (s.taken r) =
      if holds r.port (r.fld 1 0 0) s = false ∨ (r.fld 1 0 0 = 0 ∧ (s.core = .armed ∨ s.core = .exposing)) then
        sendReply r.port r.tag r.op stBadState [] s
      else checkElig (sendReply r.port r.tag r.op stOk [] (setLock (r.fld 1 0 0) none s)) := by
  have hrefused : refuse r stBadState (s.taken r) = sendReply r.port r.tag r.op stBadState [] s := by
    rw [refuse_no_payload _ _ (by simp [hop]) (by simp [hop]), reply_taken _ _ hfree]
  have hfreed : r.reply stOk [] (setLock (r.fld 1 0 0) none (s.taken r)) =
      sendReply r.port r.tag r.op stOk [] (setLock (r.fld 1 0 0) none s) := by
    rw [setLock_taken, reply_taken _ _ (by simpa using hfree)]
  rw [bodyLockRelease, expireDue_none_over (by simpa using h0) (by simpa using h1), hrefused, hfreed]
  simp

/-! LEASE_RENEW (R407). -/

/-- The lease of a lock after a LEASE_RENEW of the port, which names the lock or not. -/
def renewed (p : Port) (named : Bool) (s : State) (n : Nat) : Option Lease :=
  (lockOf n s).map fun l => if named ∧ l.port = p then { l with deadline := s.tb.ticks + 400000 * l.ms } else l

theorem renewed_not_named (p : Port) (s : State) (n : Nat) : renewed p false s n = lockOf n s := by
  simp [renewed]

/-- A named lock that the port holds gets a new deadline; every other lock keeps its lease. -/
theorem renewLease_eq_setLock (p : Port) (s : State) (n : Nat) : renewLease p s n = setLock n (renewed p true s n) s := by
  unfold renewLease renewed
  cases hl : lockOf n s with
  | none =>
    have hkeep := setLock_lockOf n s
    rw [hl] at hkeep
    exact hkeep.symm
  | some l =>
    by_cases hp : l.port = p
    · simp [hp, leaseNow, msTicks]
    · have hkeep := setLock_lockOf n s
      rw [hl] at hkeep
      simp [hp, hkeep]

theorem renewIfNamed_eq_setLock (p : Port) (named : Bool) (s : State) (n : Nat) :
    (if named then renewLease p s n else s) = setLock n (renewed p named s n) s := by
  cases named
  · rw [renewed_not_named, setLock_lockOf]; rfl
  · exact renewLease_eq_setLock p s n

/-- Renewing the locks that a mask of two bits names leaves each lock with its lease as renewed. -/
theorem foldl_renewLease (p : Port) (m : Nat) (s : State) :
    (bitsSet 2 m).foldl (renewLease p) s =
      { s with cmd := { s.cmd with exp := renewed p (m.testBit 0) s 0, cal := renewed p (m.testBit 1) s 1 } } := by
  have hlocks : List.range 2 = [0, 1] := rfl
  rw [bitsSet, List.foldl_filter, hlocks, List.foldl_cons, List.foldl_cons, List.foldl_nil, renewIfNamed_eq_setLock,
    renewIfNamed_eq_setLock]
  rfl

/-- A mask that names a lock gives a list of locks that is not empty. -/
theorem bitsSet_two_isEmpty {m : Nat} (h4 : m < 4) (h : m ≠ 0) : (bitsSet 2 m).isEmpty = false := by
  interval_cases m
  · exact absurd rfl h
  all_goals rfl

/-- The state that LEASE_RENEW leaves. -/
theorem bodyLeaseRenew_taken {r : Req} {s : State} (hfree : inFlight r.port r.tag s = false) (h0 : leaseOver 0 s = false)
    (h1 : leaseOver 1 s = false) (hnamed : r.fld 1 1 0 ≠ 0) :
    bodyLeaseRenew r (s.taken r) =
      sendReply r.port r.tag r.op (if (bitsSet 2 (r.fld 1 1 0)).all (fun n => holds r.port n s) then stOk else stBadState) []
        { s with cmd := { s.cmd with exp := renewed r.port ((r.fld 1 1 0).testBit 0) s 0,
                                     cal := renewed r.port ((r.fld 1 1 0).testBit 1) s 1 } } := by
  have hmask : (bitsSet 2 (r.fld 1 1 0)).isEmpty = false := bitsSet_two_isEmpty (wbits_lt (r.word 1) 1 0) hnamed
  rw [bodyLeaseRenew, expireDue_none_over (by simpa using h0) (by simpa using h1), hmask, foldl_renewLease]
  exact reply_taken (s := { s with cmd := { s.cmd with exp := renewed r.port ((r.fld 1 1 0).testBit 0) s 0,
                                                       cal := renewed r.port ((r.fld 1 1 0).testBit 1) s 1 } }) _ _ hfree

/-! The end of a lease (R409). -/

theorem answerAll_none_in_flight {s : State} (p : Port) (op st : Nat) (w : List Word) (h : s.cmd.flight = []) :
    answerAll p op st w s = s := answerAll_no_flight p op st w (by simp [flightsOp, h])

theorem stopCapt_no_capt {s : State} (st : Nat) (h : s.cal.capt = none) : stopCapt st s = s := by unfold stopCapt; rw [h]

/-- No command waits for what the exposure lease carries. -/
structure NoneWaits (s : State) : Prop where
  loads : s.loads = []
  arm : s.mot.arm = none
  home : s.mot.home = none
  job : ∀ j, s.job = some j → j.closing = false
  startHold : s.mem.startHold = none
  armWait : s.pair.armWait = none
  startWait : s.pair.startWait = none
  join : s.pair.join = none
  handing : s.pair.handing = none
  flight : s.cmd.flight = []

/-- Disarming a loaf ends no command. -/
theorem NoneWaits.disarmed {s : State} (h : NoneWaits s) : NoneWaits (setScan .none { s with core := .job }) := { h with }

/-- The pending commands of an exposure lease that ends are none, so their end changes nothing. -/
theorem NoneWaits.drops {s : State} (h : NoneWaits s) : dropHandover (dropJoin (dropClose (dropStart s))) = s := by
  rw [dropStart_no_start h.startHold h.startWait h.armWait, dropClose_not_closing h.job, dropJoin_no_join h.join,
    dropHandover_no_handing h.handing]

/-- Stopping the moves ends no command. -/
theorem NoneWaits.stopped {s : State} (h : NoneWaits s) : NoneWaits (stopMoves (fun _ => true) s) := { h with }

theorem disarm_armed {s : State} (h : s.core = .armed) : disarm s = setScan .none { s with core := .job } := by
  unfold disarm; rw [h]

/-- The end of the exposure lease first disarms an armed loaf. -/
theorem endExposure_armed {s : State} (silent : Bool) (h : s.core = .armed) :
    endExposure silent s = endExposure silent (setScan .none { s with core := .job }) := by
  unfold endExposure
  rw [h, disarm_armed h]
  rfl

/-- Where no command waits and no loaf is armed or exposing, the moves stop and the lock is free. -/
theorem endExposure_no_loaf {s : State} (hexp : s.core ≠ .exposing) (harm : s.core ≠ .armed) (h : NoneWaits s) :
    endExposure false s =
      checkElig (raise F.CMD_EVT_LEASE_EXP { stopMoves (fun _ => true) s with cmd := { s.cmd with exp := none } }) := by
  unfold endExposure
  split
  · exact absurd ‹_› hexp
  · exact absurd ‹_› harm
  all_goals
    simp only [stopAllMotion_no_home h.home, endLoads_none_left _ h.stopped.loads, failArm_no_arm _ _ h.stopped.arm,
      h.stopped.armWait, Option.isSome_none, Bool.false_eq_true, if_false, List.foldl_cons, List.foldl_nil,
      answerAll_none_in_flight _ _ _ _ h.stopped.flight, h.stopped.drops]
    rfl

/-- Where no command waits, the end of the exposure lease disarms an armed loaf, stops the moves and frees the lock. -/
theorem endExposure_none_waits {s : State} (hexp : s.core ≠ .exposing) (h : NoneWaits s) :
    endExposure false s = checkElig (raise F.CMD_EVT_LEASE_EXP
      { stopMoves (fun _ => true) (if s.core = .armed then setScan .none { s with core := .job } else s) with
        cmd := { s.cmd with exp := none } }) := by
  by_cases harm : s.core = .armed
  · rw [endExposure_armed _ harm, endExposure_no_loaf (by simp) (by simp) h.disarmed, if_pos harm]
    rfl
  · rw [endExposure_no_loaf hexp harm h, if_neg harm]

/-- Where no calibration command and no flash command waits or runs, the end of the calibration lease frees its lock. -/
theorem endCalLease_none_waits {s : State} (hwait : s.cal.waiting = []) (hcapt : s.cal.capt = none) (hrx : s.cal.rxoff = none)
    (hnvm : s.nvm.jobs = []) : endCalLease s = raise F.CMD_EVT_LEASE_EXP { s with cmd := { s.cmd with cal := none } } := by
  simp only [endCalLease, lockedWaits_none_waiting hwait, endCalWaits_none_waiting hwait, stopCapt_no_capt _ hcapt,
    stopRxOff_none _ hrx, endNvmWaits_no_job hnvm]

/-- The outcome of LEASE_EXPIRE (R406). -/
theorem exec_leaseExpire (cal : Bool) {s : State} (hl : s.live) :
    exec (.leaseExpire cal) s = .next (finish s
      (if leaseOver (if cal then 1 else 0) s then endLease (if cal then 1 else 0) false s else s)) :=
  done_live hl _

/-- Settles O5: each lock command runs its body, and LEASE_EXPIRE ends a lease whose deadline has passed. -/
theorem locksAreReleasedRenewedAndExpire : Obligations.LocksAreReleasedRenewedAndExpire := by
  unfold Obligations.LocksAreReleasedRenewedAndExpire
  refine ⟨fun p h w s hl hs h0 h1 => ?_, fun p h w s hl hs h0 h1 hw => ?_, fun cal s hl hover => ?_,
    fun s hl hover hexp hloads harm hhome hjob hhold harmWait hstartWait hjoin hhanding hflight => ?_,
    fun s hl hover hwait hcapt hrx hnvm => ?_⟩
  · have ⟨_, _, hfree, _⟩ := hs
    refine (request_starts hl hs).trans ?_
    rw [bodyLockRelease_taken rfl hfree h0 h1]
    rfl
  · have ⟨_, _, hfree, _⟩ := hs
    refine (request_starts hl hs).trans ?_
    rw [bodyLeaseRenew_taken hfree h0 h1 hw]
    rfl
  · rw [exec_leaseExpire cal hl, hover]
    rfl
  · have hnone : NoneWaits s :=
      ⟨hloads, harm, hhome, hjob, hhold, harmWait, hstartWait, hjoin, hhanding, hflight⟩
    rw [exec_leaseExpire false hl, ← endExposure_none_waits hexp hnone]
    simp [hover, endLease]
  · rw [exec_leaseExpire true hl, ← endCalLease_none_waits hwait hcapt hrx hnvm]
    simp [hover, endLease]

end Sys2Proof.Machine
end

section
/-!
PROOFS. What resets a port, and what its reset drops (R373, R384, R387, R389).
-/
namespace Sys2Proof.Machine

/-! Dropping a pending command changes only what waits for it. -/

@[simp] theorem dropJoin_cmd (s : State) : (dropJoin s).cmd = s.cmd := by unfold dropJoin; split <;> rfl
@[simp] theorem dropJoin_core (s : State) : (dropJoin s).core = s.core := by unfold dropJoin; split <;> rfl
@[simp] theorem dropJoin_regs (s : State) : (dropJoin s).regs = s.regs := by unfold dropJoin; split <;> rfl
@[simp] theorem dropJoin_jnl (s : State) : (dropJoin s).jnl = s.jnl := by unfold dropJoin; split <;> rfl
@[simp] theorem dropJoin_loads (s : State) : (dropJoin s).loads = s.loads := by unfold dropJoin; split <;> rfl

/-- Commands that lose their reply leave the sequencer, CORE_STATE, the registers and the journal as they are; HOST's loads end. -/
theorem orphan_spec (p : Port) (s : State) :
    (orphan p s).cmd = s.cmd ∧ (orphan p s).core = s.core ∧ (orphan p s).regs = s.regs ∧ (orphan p s).jnl = s.jnl ∧
      (p = .host → (orphan p s).loads = []) := by
  cases p <;> simp [orphan, dropHandover, dropClose, dropStart]

/-- The commands of other ports alone are left in flight and held back. -/
def dropCommands (p : Port) (s : State) : State :=
  { s with cmd := { s.cmd with flight := s.cmd.flight.filter (·.port != p), held := s.cmd.held.filter (·.port != p) } }

@[simp] theorem dropCommands_flight (p : Port) (s : State) :
    (dropCommands p s).cmd.flight = s.cmd.flight.filter (·.port != p) := rfl

@[simp] theorem dropCommands_held (p : Port) (s : State) :
    (dropCommands p s).cmd.held = s.cmd.held.filter (·.port != p) := rfl

/-- A port's event records and its capture of the clock are gone. -/
def dropRecords (p : Port) (s : State) : State :=
  { s with cmd := s.cmd.updPort p fun x => { x with events := [], wake := false, capt := 0 } }

@[simp] theorem updPort_flight (c : Cmd) (p : Port) (f : PortState → PortState) : (c.updPort p f).flight = c.flight := by
  cases p <;> rfl

@[simp] theorem updPort_held (c : Cmd) (p : Port) (f : PortState → PortState) : (c.updPort p f).held = c.held := by
  cases p <;> rfl

/-- The commands in flight and held back decide no lock. -/
theorem holds_of_commands (p : Port) (n : Nat) (flight : List Flight) (held : List Req) (s : State) :
    holds p n { s with cmd := { s.cmd with flight := flight, held := held } } = holds p n s := rfl

/-- The reset of a port that holds no lock (R389). -/
theorem resetPort_no_lock {p : Port} {s : State} (h0 : holds p 0 s = false) (h1 : holds p 1 s = false) :
    resetPort p s = raise F.CMD_EVT_PORT_RESET (dropRecords p (orphan p (dropCommands p s))) := by
  simp only [resetPort, holds_of_commands, h0, h1, Bool.false_eq_true, if_false]
  rfl

/-! Bytes of a SERVICE frame (R387). -/

/-- Bytes without a 0x7E begin no frame, and none is kept. -/
theorem serviceScan_no_start (gap : Bool) (fuel : Nat) {b : List Byte} (s : State) (h : 0x7E ∉ b) :
    serviceScan gap fuel b s = keepRx [] s := by
  have hdrop : b.dropWhile (· != 0x7E) = [] := by
    rw [List.dropWhile_eq_nil_iff]
    intro x hx
    simpa using fun hxe : x = 0x7E => h (hxe ▸ hx)
  cases fuel with
  | zero => rfl
  | succ n => rw [serviceScan, hdrop]

/-- A gap in a frame whose first group has not all come discards the frame, and the bytes after its 0x7E are hunted. -/
theorem serviceScan_gap (fuel : Nat) {b : List Byte} (s : State) (h : b.length < 9) :
    serviceScan true (fuel + 1) (0x7E :: b) s = serviceScan true fuel b (frameErr .service s) := by
  simp [serviceScan, h]

theorem serviceScan_gap_no_start {b : List Byte} (s : State) (hb : 0x7E ∉ b) (hlen : b.length < 9) :
    serviceScan true ((0x7E :: b).length + 1) (0x7E :: b) s = keepRx [] (frameErr .service s) := by
  rw [serviceScan_gap _ _ hlen, serviceScan_no_start _ _ _ hb]

/-- Settles O40: what a port reset drops, and the events that reset a port or count a failed frame. -/
theorem portResetsDropTheirCommands : Obligations.PortResetsDropTheirCommands := by
  unfold Obligations.PortResetsDropTheirCommands
  refine ⟨fun p s h0 h1 => ?_, fun s hl => ⟨fun d3 => done_live hl _, fun hen => ?_,
    fun hu => ⟨?_, fun hrx => ?_, fun b hrx hb hlen => ?_⟩⟩⟩
  · obtain ⟨hcmd, hcore, hregs, hjnl, hloads⟩ := orphan_spec p (dropCommands p s)
    refine ⟨_, resetPort_no_lock h0 h1, ?_, ?_, ?_, ?_, hloads, hcore, hregs, hjnl⟩ <;> simp [dropRecords, hcmd]
  · exact (done_live hl _).trans (by rw [if_pos hen]; rfl)
  · exact (done_live hl _).trans (by rw [if_pos hu]; rfl)
  · exact (done_live hl _).trans (by rw [hu, hrx]; rfl)
  · refine (done_live hl _).trans ?_
    rw [hu, hrx]
    exact congrArg (fun t => Host.Outcome.next (finish s t)) (serviceScan_gap_no_start s hb hlen)

end Sys2Proof.Machine
end

section
/-!
PROOFS. A window segment is read as it was written (R177 to R179): lists of a sparse store, bits in pieces of one length, and the place of
the check words beside the segments.
-/
namespace Sys2Proof.Machine

section stores
variable {α : Type} [DecidableEq α]

/-- Successive keys are written from `k` on, and no other key. -/
theorem amGet_putList_outside (d : Nat → α) (l : List α) {m : List (Nat × α)} {k j : Nat} (h : j < k ∨ k + l.length ≤ j) :
    amGet d (amPutList d m k l) j = amGet d m j := by
  induction l generalizing m k with
  | nil => rfl
  | cons v r ih =>
    rw [List.length_cons] at h
    rw [amPutList, ih (by omega), amGet_put_ne _ _ _ (by omega)]

theorem amGet_putList (d : Nat → α) (l : List α) (m : List (Nat × α)) (k i : Nat) (h : i < l.length) :
    amGet d (amPutList d m k l) (k + i) = l[i] := by
  induction l generalizing m k i with
  | nil => nomatch h
  | cons v r ih =>
    cases i with
    | zero => rw [amPutList, amGet_putList_outside _ _ (by omega), Nat.add_zero, amGet_put_same, List.getElem_cons_zero]
    | succ i =>
      rw [List.getElem_cons_succ, ← ih (amPut d m k v) (k + 1) i (Nat.lt_of_succ_lt_succ h), amPutList]
      congr 1; omega

/-- A list written at successive keys is read from them. -/
theorem amGetList_putList (d : Nat → α) (l : List α) (m : List (Nat × α)) (k : Nat) :
    amGetList d (amPutList d m k l) k l.length = l := by
  refine List.ext_getElem (by simp [amGetList]) fun i h1 h2 => ?_
  simp [amGetList, amGet_putList _ _ _ _ _ h2]

/-- Keys apart from those written are read as before. -/
theorem amGetList_putList_apart (d : Nat → α) (l : List α) (m : List (Nat × α)) {k j n : Nat} (h : j + n ≤ k ∨ k + l.length ≤ j) :
    amGetList d (amPutList d m k l) j n = amGetList d m j n := by
  refine List.map_congr_left fun i hi => amGet_putList_outside _ _ ?_
  have := List.mem_range.1 hi
  omega

end stores

/-! Bits in pieces of one length. -/

theorem bitsLsb_length (n v : Nat) : (bitsLsb n v).length = n := by simp [bitsLsb]

theorem bitsLsb_succ (n v : Nat) : bitsLsb (n + 1) v = decide (v % 2 = 1) :: bitsLsb n (v / 2) := by
  simp [bitsLsb, List.range_succ_eq_map, Function.comp_def, Nat.testBit_succ, Nat.testBit_zero]

theorem natOfBits_bitsLsb (n v : Nat) (h : v < 2 ^ n) : natOfBits (bitsLsb n v) = v := by
  induction n generalizing v with
  | zero => simp only [Nat.pow_zero] at h; simp only [bitsLsb, natOfBits, List.range_zero, List.map_nil, List.foldr_nil]; omega
  | succ n ih =>
    have hd : natOfBits (bitsLsb n (v / 2)) = v / 2 := ih _ (Nat.div_lt_of_lt_mul (by rwa [Nat.pow_succ'] at h))
    calc natOfBits (bitsLsb (n + 1) v)
      _ = (if v % 2 = 1 then 1 else 0) + 2 * natOfBits (bitsLsb n (v / 2)) := by rw [bitsLsb_succ]; simp [natOfBits]
      _ = v := by rw [hd]; split <;> omega

/-- The n-th piece of a list put together from pieces of one length. -/
theorem take_drop_flatMap {α β : Type} {f : α → List β} {c : Nat} (hf : ∀ x, (f x).length = c) (d : List α) (n : Nat) (h : n < d.length) :
    ((d.flatMap f).drop (c * n)).take c = f d[n] := by
  induction d generalizing n with
  | nil => nomatch h
  | cons x r ih =>
    rw [List.flatMap_cons]
    cases n with
    | zero => rw [Nat.mul_zero, List.drop_zero, ← hf x, List.take_left, List.getElem_cons_zero]
    | succ n =>
      rw [Nat.mul_succ, Nat.add_comm, ← List.drop_drop, ← hf x, List.drop_left, hf x, ih n (Nat.lt_of_succ_lt_succ h),
        List.getElem_cons_succ]

theorem length_flatMap_of_length {α β : Type} {f : α → List β} {c : Nat} (hf : ∀ x, (f x).length = c) (d : List α) :
    (d.flatMap f).length = c * d.length := by
  simp [List.length_flatMap, hf, Nat.mul_comm]

/-! Segments. -/

/-- The bytes of a segment hold the bits of its doses (R177). -/
theorem segBytes_bits {d : List Nat} (h : d.length = 1024) :
    bitsOfBytes (segBytes d) = d.flatMap (bitsLsb 12) ∧ (segBytes d).length = 1536 :=
  bitsOfBytes_bytesOfBits 1536 1537 _ (by rw [length_flatMap_of_length (bitsLsb_length 12), h]) (by omega)

/-- The doses of a segment come back from their bits (R177). -/
theorem doses_of_bits {d : List Nat} (h : d.length = 1024) (hd : ∀ x ∈ d, x < 4096) :
    ((List.range 1024).map fun n => natOfBits (((d.flatMap (bitsLsb 12)).drop (12 * n)).take 12)) = d := by
  refine List.ext_getElem (by simp [h]) fun n h1 h2 => ?_
  rw [List.getElem_map, List.getElem_range, take_drop_flatMap (bitsLsb_length 12) d n h2]
  exact natOfBits_bitsLsb 12 _ (hd _ (List.getElem_mem h2))

/-- A pseudo-channel's half holds 576 segments (R178). -/
theorem segIndex_lt {y sub : Nat} (h : sub < 8) : segIndex y sub < 576 := by unfold segIndex; omega

/-- Settles O44: the segment's bytes and its check word are read as they were written, since the check words stand behind all segments. -/
theorem segmentsReadBackAsWritten : Obligations.SegmentsReadBackAsWritten := by
  unfold Obligations.SegmentsReadBackAsWritten
  intro ord half y sub d s hsub hlen hd
  obtain ⟨hbits, hbytes⟩ := segBytes_bits hlen
  have hi := segIndex_lt (y := y) hsub
  have hbase : segBase half y sub (writeSeg ord half y sub d s) = segBase half y sub s := rfl
  have hseg : amGetList hbmDefault (writeSeg ord half y sub d s).hbm (segBase half y sub s + 1536 * segIndex y sub) 1536 = segBytes d := by
    have hw := amGetList_putList hbmDefault (segBytes d) s.hbm (segBase half y sub s + 1536 * segIndex y sub)
    rw [hbytes] at hw
    exact (amGetList_putList_apart hbmDefault _ _ (by omega)).trans hw
  have hcheck : amGetList hbmDefault (writeSeg ord half y sub d s).hbm (segBase half y sub s + 0xD8000 + 4 * segIndex y sub) 4 =
      leBytes 4 (crc32c (segBytes d ++ segTag ord y sub)).toNat := amGetList_putList _ (leBytes 4 _) _ _
  simp only [readSeg, hbase, hseg, hcheck, hbits, doses_of_bits hlen hd, leNat_leBytes 4 _ (crc32c _).isLt, decide_true]

end Sys2Proof.Machine
end

section
/-!
PROOFS. The block as a whole: every command ends its epoch in `finish`, and what the clock, the pins and the test access port do.
-/
namespace Sys2Proof.Machine

/-! The end of an epoch. -/

@[simp] theorem finish_pending (s t : State) : (finish s t).pending = s.pending := rfl
@[simp] theorem finish_epoch (s t : State) : (finish s t).epoch = s.epoch + 1 := rfl

/-- The pins that an epoch leaves follow the state that it leaves. -/
theorem drivePins_follow (s : State) : (drivePins s).pinsFollow := ⟨rfl, rfl, rfl, rfl⟩

theorem finish_pinsFollow (s t : State) : (finish s t).pinsFollow := drivePins_follow _

/-! How a command ends. -/

theorem execTransactionAccept_ok {port : Fin 7} {a : BitVec 30} {n : Nat} {wr : Bool} (pc : Fin 64) (d : Nat) (s : State)
    (h : txnOk port.val a.toNat n wr = true) :
    execTransactionAccept pc port a n d wr s = done s (acceptTxn pc.val port.val a.toNat n d wr s) := if_pos h

theorem execTransactionAccept_not_ok {port : Fin 7} {a : BitVec 30} {n : Nat} {wr : Bool} (pc : Fin 64) (d : Nat) (s : State)
    (h : txnOk port.val a.toNat n wr = false) : execTransactionAccept pc port a n d wr s = .fault .noSuchTransaction :=
  if_neg (by simp [h])

theorem execRxOffMeasurementDone_done (s : State) : ∃ t, execRxOffMeasurementDone s = done s t := by
  unfold execRxOffMeasurementDone; split <;> exact ⟨_, rfl⟩

theorem execFrameStart_done (s : State) : ∃ t, execFrameStart s = done s t := by
  unfold execFrameStart; split <;> exact ⟨_, rfl⟩

theorem execCamTrigFall_done (s : State) : ∃ t, execCamTrigFall s = done s t := by
  unfold execCamTrigFall; split <;> exact ⟨_, rfl⟩

theorem execFrameEnd_done (e : List CamEdge) (s : State) : ∃ t, execFrameEnd e s = done s t := by
  unfold execFrameEnd; split <;> exact ⟨_, rfl⟩

theorem execFrameWatchdog_done (s : State) : ∃ t, execFrameWatchdog s = done s t := by
  unfold execFrameWatchdog; split <;> exact ⟨_, rfl⟩

theorem execNoFrameTimeout_done (s : State) : ∃ t, execNoFrameTimeout s = done s t := by
  unfold execNoFrameTimeout; split <;> exact ⟨_, rfl⟩

/-- A command ends its epoch, unless it is a transaction that does not exist. -/
theorem exec_ends (c : Instr) (s : State) : (∃ t, exec c s = .next (finish s t)) ∨ exec c s = .fault .noSuchTransaction := by
  have ends_of_done {o : Host.Outcome State Fault Refusal} (h : ∃ t, o = done s t) : ∃ t, o = .next (finish s t) := by
    obtain ⟨t, rfl⟩ := h
    exact ⟨_, rfl⟩
  cases c
  case transactionAccept pc port a n d wr =>
    cases h : txnOk port.val a.toNat n wr with
    | true => exact .inl (ends_of_done ⟨_, execTransactionAccept_ok pc d s h⟩)
    | false => exact .inr (execTransactionAccept_not_ok pc d s h)
  case rxOffMeasurementDone => exact .inl (ends_of_done (execRxOffMeasurementDone_done s))
  case frameStart => exact .inl (ends_of_done (execFrameStart_done s))
  case camTrigFall => exact .inl (ends_of_done (execCamTrigFall_done s))
  case frameEnd e => exact .inl (ends_of_done (execFrameEnd_done e s))
  case frameWatchdog => exact .inl (ends_of_done (execFrameWatchdog_done s))
  case noFrameTimeout => exact .inl (ends_of_done (execNoFrameTimeout_done s))
  all_goals exact .inl ⟨_, rfl⟩

/-- A command that answers a next state answers the end of its epoch. -/
theorem exec_next {c : Instr} {s t : State} (h : exec c s = .next t) : ∃ u, t = finish s u := by
  rcases exec_ends c s with ⟨u, hu⟩ | hf
  · exact ⟨u, Host.Outcome.next.inj (h.symm.trans hu)⟩
  · rw [hf] at h; nomatch h

/-- A step that answers a next state answers the end of an epoch. -/
theorem step_next {s t : State} (h : step s = .next t) : ∃ r u, t = finish r u := by
  unfold step at h
  split at h
  · obtain rfl := Host.Outcome.next.inj h
    exact ⟨s, _, rfl⟩
  · obtain ⟨u, rfl⟩ := exec_next h
    exact ⟨_, u, rfl⟩

/-- Settles O53: a step is `exec` of the front command. -/
theorem stepRunsTheFrontCommand : Obligations.StepRunsTheFrontCommand := by
  unfold Obligations.StepRunsTheFrontCommand
  intro c r s h
  rw [step, h]

/-- Settles O54: every next state is the end of an epoch, which keeps the queue and counts. -/
theorem commandsKeepTheQueue : Obligations.CommandsKeepTheQueue := by
  unfold Obligations.CommandsKeepTheQueue
  intro c s t h
  obtain ⟨u, rfl⟩ := exec_next h
  exact ⟨finish_pending s u, finish_epoch s u⟩

/-! A transaction that writes the training area: its form is one that a port can bring, and yet no such transaction exists (R186). -/

/-- One burst written by port 1 at the start of the training area. -/
def trainingWrite : Instr := .transactionAccept 0 1 0xFC000 1 0 true

theorem trainingWrite_wellFormed : trainingWrite.wellFormed = true := by decide

theorem exec_trainingWrite (s : State) : exec trainingWrite s = .fault .noSuchTransaction :=
  execTransactionAccept_not_ok 0 0 s (by decide)

theorem exec_trainingWrite_ne_next (s t : State) : exec trainingWrite s ≠ .next t := by
  rw [exec_trainingWrite]; exact fun h => nomatch h

theorem trainingWrite_not_watchesPins : ¬WatchesPins trainingWrite := by
  rintro (h | ⟨v, ack, m, h⟩ | ⟨b, h⟩)
  · simp [trainingWrite] at h
  · nomatch h
  · nomatch h

/-- Refutes O55: a write of one burst to the training area is well-formed, and stops the run. -/
theorem not_commandsAnswerANextState : ¬Obligations.CommandsAnswerANextState := by
  unfold Obligations.CommandsAnswerANextState
  intro h
  obtain ⟨t, ht⟩ := h trainingWrite State.reset trainingWrite_wellFormed
  exact exec_trainingWrite_ne_next _ _ ht

/-- Refutes O56: on a device held in reset too, a write of one burst to the training area stops the run. -/
theorem not_heldInResetNothingActs : ¬Obligations.HeldInResetNothingActs := by
  unfold Obligations.HeldInResetNothingActs
  intro h
  exact exec_trainingWrite_ne_next _ _ (h trainingWrite State.reset rfl trainingWrite_wellFormed trainingWrite_not_watchesPins)

/-- Settles O58: every step ends an epoch, at whose end the pins are driven. -/
theorem pinsFollowAfterEveryStep : Obligations.PinsFollowAfterEveryStep := by
  unfold Obligations.PinsFollowAfterEveryStep
  intro s t h
  obtain ⟨r, u, rfl⟩ := step_next h
  exact finish_pinsFollow r u

/-- Where SAFE_BLANK follows the rules, it is deasserted out of reset in the working states alone (R480). -/
theorem safeBlank_deasserted {s : State} (h : safeBlankRule s = .deasserted) :
    s.live ∧ (s.core = .idle ∨ s.core = .job ∨ s.core = .armed ∨ s.core = .exposing) := by
  unfold safeBlankRule at h
  split at h
  · nomatch h
  · rename_i hd
    refine ⟨by simpa [State.live] using (Bool.or_eq_false_iff.1 (Bool.eq_false_of_not_eq_true hd)).1, ?_⟩
    cases hc : s.core <;> simp [hc] at h ⊢

/-- Settles O59: after a step SAFE_BLANK follows the rules, which deassert it in the working states alone. -/
theorem openBeamOnlyInWorkingStates : Obligations.OpenBeamOnlyInWorkingStates := by
  unfold Obligations.OpenBeamOnlyInWorkingStates
  intro s t h hopen
  obtain ⟨hblank, -⟩ := pinsFollowAfterEveryStep s t h
  exact safeBlank_deasserted (hblank.symm.trans hopen)

/-! The clock on an empty queue, and the state right after reset. -/

/-- A tick to which no step of T waits. -/
theorem tickClock_no_step {s : State} (h : s.tb.step = 0) :
    tickClock s = { s with tb := { s.tb with
      t := BitVec.ofInt 96 ((s.tb.t.toNat : Int) + s.fld F.TB_INC_INC), ticks := s.tb.ticks + 1, inc := s.fld F.TB_INC_INC } } := by
  simp [tickClock, h]

/-- Settles O57: on an empty queue a step is a tick, in which nothing that waits begins. -/
theorem theClockTicksOnAnEmptyQueue : Obligations.TheClockTicksOnAnEmptyQueue := by
  unfold Obligations.TheClockTicksOnAnEmptyQueue
  intro s hq
  have htick : step s = .next (idleTick s) := by rw [step, hq]
  refine ⟨fun hr => ?_, fun hl hstep hwait hheld => ?_⟩
  · rw [htick, idleTick, if_pos hr]
  · have hlive : heldInReset s = false := hl
    rw [htick, idleTick, hlive, if_neg (by simp), tickClock_no_step hstep, startFenced_none_held (by exact hheld),
      startCalWaits_none_waiting (by exact hwait)]

/-- Settles O60: the reset state stores nothing that differs from its reset value. -/
theorem resetState : Obligations.ResetState := by
  unfold Obligations.ResetState
  refine ⟨fun a => rfl, rfl, rfl, rfl, rfl, fun p => ?_, rfl, ⟨rfl, rfl, rfl, rfl⟩, rfl, rfl, rfl, rfl, rfl⟩
  cases p <;> rfl

/-! The test access port. -/

/-- The instructions that hold the device in reset (R522). -/
def TapIns.holds : TapIns → Bool
  | .extest | .clamp | .highz | .extestPulse | .extestTrain => true
  | .sample | .idcode | .bypass => false

theorem heldInReset_of_tap {s : State} (h : s.tap.holds = true) : heldInReset s = true := by
  unfold heldInReset
  cases ht : s.tap <;> simp [ht, TapIns.holds] at h ⊢

theorem PortState.wake_off {p : PortState} (h : p.wake = false) : { p with wake := false } = p :=
  (congrArg (fun b => ({ p with wake := b } : PortState)) h).symm

/-- Without a signal due, the end of an epoch sends none. -/
theorem sendWakes_none_due {s : State} (hh : s.cmd.host.wake = false) (hs : s.cmd.service.wake = false) (hp : s.cmd.partner.wake = false) :
    sendWakes s = s := by
  simp only [sendWakes, hh, hs, hp, Bool.false_and, Bool.false_eq_true, if_false, PortState.wake_off hh, PortState.wake_off hs,
    PortState.wake_off hp]

theorem deviceReset_flash (c : Nat) (s : State) : (deviceReset c s).nvm.flash = (tearFlash s).nvm.flash := rfl

theorem selectTap_pins_nvm (i : TapIns) (p : Pins) (s : State) : (selectTap i { s with pins := p }).nvm = s.nvm := rfl

/-- What an instruction that holds the device in reset leaves of a device that nothing held: the reset state, the flash and the pin. -/
theorem holdTap_live {i : TapIns} (hi : i.holds = true) {s : State} (hl : s.live) :
    ∃ t, donePin s (holdTap i s) = .next t ∧ t.tap = i ∧ heldInReset t = true ∧ t.core = .boot ∧ t.cmd = State.reset.cmd ∧
      t.nvm.flash = (tearFlash s).nvm.flash ∧ t.pins.resetN = s.pins.resetN ∧ t.pins.safeBlank = .undriven ∧ t.pins.ownN = .undriven := by
  have hlive : heldInReset s = false := hl
  have hheld : heldInReset (finish s (holdTap i s)) = true := by
    refine heldInReset_of_tap ?_
    rw [holdTap, hlive, if_neg (by simp)]
    exact hi
  obtain ⟨hblank, hown, -⟩ := finish_pinsFollow s (holdTap i s)
  have hflash : (holdTap i s).nvm.flash = (tearFlash s).nvm.flash := by
    rw [holdTap, hlive, if_neg (by simp), selectTap_pins_nvm, deviceReset_flash]
  have hquiet : sendWakes (holdTap i s) = holdTap i s := by
    rw [holdTap, hlive, if_neg (by simp)]
    exact sendWakes_none_due rfl rfl rfl
  refine ⟨_, rfl, ?_, hheld, ?_, ?_, (congrArg (·.nvm.flash) hquiet).trans hflash, ?_, hblank.trans (by simp [safeBlankRule, hheld]),
    hown.trans (by simp [ownRule, hheld])⟩
  all_goals
    rw [finish, hquiet, holdTap, hlive, if_neg (by simp)]
    rfl

/-- On a device that is held in reset, such an instruction is only selected. -/
theorem holdTap_held (i : TapIns) {s : State} (h : heldInReset s = true) :
    donePin s (holdTap i s) = .next (finish s { s with tap := i }) := by
  rw [holdTap, if_pos h]
  rfl

/-- Settles O52: five instructions run `holdTap`, the others `selectTap`. -/
theorem testInstructionsHoldOrSelect : Obligations.TestInstructionsHoldOrSelect := by
  unfold Obligations.TestInstructionsHoldOrSelect
  refine fun s => ⟨fun c i hc => ?_, rfl, rfl, rfl, rfl⟩
  have hrun : exec c s = donePin s (holdTap i s) ∧ i.holds = true := by
    rcases hc with ⟨rfl, rfl⟩ | ⟨rfl, rfl⟩ | ⟨rfl, rfl⟩ | ⟨rfl, rfl⟩ | ⟨rfl, rfl⟩ <;> exact ⟨rfl, rfl⟩
  obtain ⟨hexec, hholds⟩ := hrun
  rw [hexec]
  exact ⟨fun hl => holdTap_live hholds hl, fun hh => holdTap_held i hh⟩

end Sys2Proof.Machine
end

section
/-!
SUPPORT. The outcome of a request that starts, by the state that its body leaves.
-/
namespace Sys2Proof.Machine

/-- The tag of a request that starts is free (R390). -/
theorem Starts.free {p : Port} {h : Hdr} {op : Nat} {w : List Word} {s : State} (hs : Starts (mkReq p h op w) s) :
    inFlight p h.tag s = false := by
  obtain ⟨_, _, hfree, _⟩ := hs
  exact hfree

theorem request_outcome {body : Req → State → State} {r : Req} {s t : State} (hl : s.live) (hs : Starts r s)
    (h : body r (s.taken r) = t) : done s (takeReq body r s) = .next (finish s t) := by rw [request_starts hl hs, h]

theorem done_outcome {s t u : State} (hl : s.live) (h : t = u) : done s t = .next (finish s u) := by rw [done_live hl, h]

/-- The reply of a command just taken, which ends it, by the parts of its request. -/
theorem reply_mkReq_taken {p : Port} {h : Hdr} {op : Nat} {w : List Word} {s : State} (st : Nat) (l : List Word)
    (hfree : inFlight p h.tag s = false) :
    (mkReq p h op w).reply st l (s.taken (mkReq p h op w)) = sendReply p h.tag op st l s := reply_taken (r := mkReq p h op w) st l hfree

end Sys2Proof.Machine
end

section
/-!
SUPPORT. Every register of the map is sound, so a write that is taken stores its fields and nothing else (R13, R42).
-/
namespace Sys2Proof.Machine

/-- The fields of a register lie within its word, side by side (R6, R13). -/
def RegRow.Sound (r : RegRow) : Prop := (∀ f ∈ r.fields, f.Placed) ∧ r.fields.Pairwise FieldRow.Apart

/-- Every block of registers. -/
def allBlocks : List (List RegRow) :=
  [regsGlb, regsCmd, regsPwr, regsTb, regsMot, regsCam, regsCal, regsDgh, regsKnx, regsPlc, regsPrf, regsMem, regsSlc, regsLnk, regsPair,
   regsTst]

theorem allBlocks_sound : ∀ rows ∈ allBlocks, ∀ r ∈ rows, r.Sound := by
  unfold RegRow.Sound FieldRow.Placed FieldRow.Apart
  decide +kernel

theorem mem_of_ite_some {α : Type} {c : Prop} [Decidable c] {a x : α} {o : Option α} {l : List α} (ha : a ∈ l)
    (ho : o = some x → x ∈ l) (h : (if c then some a else o) = some x) : x ∈ l := by
  by_cases hc : c
  · rw [if_pos hc] at h; exact Option.some.inj h ▸ ha
  · rw [if_neg hc] at h; exact ho h

theorem mem_of_ite_none {α : Type} {c : Prop} [Decidable c] {x : α} {o : Option α} {l : List α} (ho : o = some x → x ∈ l)
    (h : (if c then none else o) = some x) : x ∈ l := by
  by_cases hc : c
  · rw [if_pos hc] at h; nomatch h
  · rw [if_neg hc] at h; exact ho h

/-- The blocks stand in the order of `allBlocks`, with three gaps between them (R38). -/
theorem blockRows_mem {addr : Nat} {rows : List RegRow} : blockRows addr = some rows → rows ∈ allBlocks :=
  have block (i : Nat) (h : i < 16) : allBlocks[i] ∈ allBlocks := List.getElem_mem h
  mem_of_ite_some (block 0 (by decide)) <| mem_of_ite_some (block 1 (by decide)) <| mem_of_ite_some (block 2 (by decide)) <|
  mem_of_ite_some (block 3 (by decide)) <| mem_of_ite_some (block 4 (by decide)) <| mem_of_ite_some (block 5 (by decide)) <|
  mem_of_ite_some (block 6 (by decide)) <| mem_of_ite_none <| mem_of_ite_some (block 7 (by decide)) <| mem_of_ite_none <|
  mem_of_ite_some (block 8 (by decide)) <| mem_of_ite_some (block 9 (by decide)) <| mem_of_ite_some (block 10 (by decide)) <|
  mem_of_ite_some (block 11 (by decide)) <| mem_of_ite_none <| mem_of_ite_some (block 12 (by decide)) <|
  mem_of_ite_some (block 13 (by decide)) <| mem_of_ite_some (block 14 (by decide)) <| mem_of_ite_some (block 15 (by decide)) <|
  fun h => nomatch h

/-- A register of the map is sound. -/
theorem regRow_sound {addr : Nat} {r : RegRow} (h : regRow addr = some r) : r.Sound := by
  unfold regRow at h
  cases hb : blockRows addr with
  | none => rw [hb] at h; nomatch h
  | some rows =>
    rw [hb] at h
    exact allBlocks_sound rows (blockRows_mem hb) r (List.mem_of_find?_eq_some h)

/-! A write that is taken. -/

/-- The parts of `storesOnly`. -/
theorem storesOnly_iff {addr : Nat} :
    storesOnly addr = true ↔ actsWhenWritten addr = false ∧ recordValid addr = none ∧ isCounters addr = false ∧ 4 ≤ faultAxis addr := by
  simp [storesOnly, and_assoc]

/-- A CLEAR bit at a register that holds neither counters nor a record clears nothing. -/
theorem clearWritten_stores_only {addr : Nat} (s : State) (h : storesOnly addr = true) : clearWritten addr s = s := by
  obtain ⟨hact, hv, hc, -⟩ := storesOnly_iff.1 h
  have ht : addr ≠ A.TB_EVT_CNT := by
    rintro rfl
    exact absurd hc (by decide)
  simp [clearWritten, ne_badAccessCnt_of_not_acts hact, hv, hc, ht]

/-- A register that only stores does nothing beside storing. -/
theorem wrote_stores_only {addr : Nat} (v : Word) (old s : State) (h : storesOnly addr = true) : wrote addr v old s = s := by
  obtain ⟨hact, -⟩ := storesOnly_iff.1 h
  rw [wrote_no_action _ _ _ (.inl hact), clearWritten_stores_only _ h, ite_self]

theorem ne_trimData_of_stores_only {addr : Nat} (h : storesOnly addr = true) : addr ≠ A.CAL_TRIM_DATA := by
  rintro rfl
  exact absurd h (by decide)

/-- A write that a register takes, with nothing to do beside storing, stores its fields and nothing else. -/
theorem applyWrite_stores {r : RegRow} {addr : Nat} {v : Word} {s : State} (hrow : regRow addr = some r) (hx : heeded addr v s = v)
    (hr : refusesWhole addr v s = false) (ht : AllTaken r addr v s)
    (hk : ∀ w, StoredWord r (s.getReg addr) v w → relationOk addr w s = true) (hne : addr ≠ A.CAL_TRIM_DATA) :
    ∃ w, StoredWord r (s.getReg addr) v w ∧ applyWrite r addr v s = wrote addr v s (s.setReg addr w) := by
  obtain ⟨hp, hd⟩ := regRow_sound hrow
  obtain ⟨hstored, hnone⟩ := takeFields_stored (ok := fun f => valueOk addr f v s) (v := v) (s.getReg addr) hp hd ht
  exact ⟨_, hstored, applyWrite_taken hx hr (Prod.ext rfl hnone) (hk _ hstored) hne⟩

/-- A write that is taken: the port has the right, and the register's fields are stored. -/
theorem writeReg_taken {p : Port} {addr : Nat} {r : RegRow} {v : Word} {s : State} (h : WriteTaken p addr r v s) :
    ∃ w, StoredWord r (s.getReg addr) v w ∧ writeReg p addr v s = (none, s.setReg addr w) := by
  obtain ⟨hrow, honly, hright, hwhole, htaken, hrel⟩ := h
  obtain ⟨-, -, -, hx⟩ := storesOnly_iff.1 honly
  obtain ⟨w, hw, he⟩ := applyWrite_stores hrow (heeded_no_axis v s hx) hwhole htaken hrel (ne_trimData_of_stores_only honly)
  refine ⟨w, hw, ?_⟩
  rw [wrote_stores_only _ _ _ honly] at he
  simp [writeReg, hright, hrow, he]

theorem rowWrite_taken {p : Port} {addr : Nat} {r : RegRow} {v : Word} {s : State} (ha : addr % 8 = 0) (h : WriteTaken p addr r v s) :
    ∃ w, StoredWord r (s.getReg addr) v w ∧ rowWrite p addr v s = s.setReg addr w := by
  obtain ⟨w, hw, he⟩ := writeReg_taken h
  exact ⟨w, hw, by rw [rowWrite, if_pos ha, he]⟩

/-- A command in flight decides no write. -/
theorem WriteTaken.taken {p : Port} {addr : Nat} {r : RegRow} {v : Word} {s : State} (h : WriteTaken p addr r v s) (q : Req) :
    WriteTaken p addr r v (s.taken q) := h

theorem inFlight_setReg (p : Port) (tag : BitVec 10) (s : State) (a : Nat) (w : Word) :
    inFlight p tag (s.setReg a w) = inFlight p tag s := rfl

/-- The reply of a command just taken, after it has stored a register. -/
theorem reply_setReg_taken {r : Req} {s : State} (st : Nat) (l : List Word) (a : Nat) (w : Word) (h : inFlight r.port r.tag s = false) :
    r.reply st l ((s.taken r).setReg a w) = sendReply r.port r.tag r.op st l (s.setReg a w) := by
  have e : (s.taken r).setReg a w = (s.setReg a w).taken r := rfl
  rw [e, reply_taken st l (by exact h)]

/-- The word of a REG_MODIFY at a register without W1C and WO fields (R396). -/
theorem modifyWord_plain {addr : Nat} {r : RegRow} (old m v : Word) (hrow : regRow addr = some r)
    (h : ∀ f ∈ r.fields, f.acc ≠ .w1c ∧ f.acc ≠ .wo) : modifyWord addr old m v = (old &&& ~~~m) ||| (v &&& m) := by
  unfold modifyWord
  rw [hrow]
  dsimp only
  generalize (old &&& ~~~m) ||| (v &&& m) = w
  have hkeep : ∀ l : List FieldRow, (∀ f ∈ l, f.acc ≠ .w1c ∧ f.acc ≠ .wo) →
      l.foldl (fun w f => match f.acc with
        | .w1c | .wo => setBits w f.hi f.lo (wbits (v &&& m) f.hi f.lo)
        | .ro | .rw | .sh => w) w = w := by
    intro l hl
    induction l with
    | nil => rfl
    | cons f l ih =>
      obtain ⟨⟨hc, ho⟩, hr⟩ := List.forall_mem_cons.1 hl
      rw [List.foldl_cons]
      cases hacc : f.acc with
      | ro | rw | sh => exact ih hr
      | w1c => exact absurd hacc hc
      | wo => exact absurd hacc ho
  exact hkeep _ h

end Sys2Proof.Machine
end

section
/-!
PROOFS. Register writes that only store: REGISTER_WRITE, REG_WRITE and REG_MODIFY (R13, R42, R395, R396).
-/
namespace Sys2Proof.Machine

/-- The state that a REG_WRITE of one register leaves. -/
theorem bodyRegWrite_one {p : Port} {h : Hdr} {x v : Word} {r : RegRow} {s : State} (hfree : inFlight p h.tag s = false)
    (hn : wbits x 30 19 = 1) (ha : wbits x 18 0 % 8 = 0) (hw : WriteTaken p (wbits x 18 0) r v s) :
    ∃ w, StoredWord r (s.getReg (wbits x 18 0)) v w ∧ bodyRegWrite (mkReq p h 0x03 [x, v]) (s.taken (mkReq p h 0x03 [x, v])) =
      sendReply p h.tag 0x03 0x00 [1] (s.setReg (wbits x 18 0) w) := by
  obtain ⟨w, hstored, he⟩ := writeReg_taken (hw.taken (mkReq p h 0x03 [x, v]))
  have hrange : regRange 4094 (mkReq p h 0x03 [x, v]) = true := by
    have hx : wbits x 18 0 < 2 ^ 19 := wbits_lt x 18 0
    have hc : (mkReq p h 0x03 [x, v]).regCount = 1 := hn
    have haddr : (mkReq p h 0x03 [x, v]).regAddr = wbits x 18 0 := rfl
    simp only [regRange, hc, haddr, decide_eq_true_eq]
    omega
  have hwrite : writeRegs (mkReq p h 0x03 [x, v]) (wbits x 18 0) [v] 0 (s.taken (mkReq p h 0x03 [x, v])) =
      (1, none, (s.taken (mkReq p h 0x03 [x, v])).setReg (wbits x 18 0) w) := by
    simp only [writeRegs, mkReq_port, he]
    exact ite_self _
  refine ⟨w, hstored, ?_⟩
  simp only [bodyRegWrite, hrange, Bool.not_true, Bool.false_eq_true, if_false]
  rw [show writeRegs (mkReq p h 0x03 [x, v]) (mkReq p h 0x03 [x, v]).regAddr ((mkReq p h 0x03 [x, v]).w.drop 1) 0 _ = _ from hwrite]
  exact reply_setReg_taken (r := mkReq p h 0x03 [x, v]) 0x00 [1] _ _ hfree

/-- The state that a REG_MODIFY of a register without W1C and WO fields leaves. -/
theorem bodyRegModify_plain {p : Port} {h : Hdr} {x m v old : Word} {r : RegRow} {s : State} (hfree : inFlight p h.tag s = false)
    (ha : wbits x 18 0 % 8 = 0) (hc : captured p (wbits x 18 0) s = none)
    (hold : old = regValue (wbits x 18 0) (s.taken (mkReq p h 0x04 [x, m, v]))) (hf : ∀ f ∈ r.fields, f.acc ≠ .w1c ∧ f.acc ≠ .wo)
    (hw : WriteTaken p (wbits x 18 0) r ((old &&& ~~~m) ||| (v &&& m)) s) :
    ∃ w, StoredWord r (s.getReg (wbits x 18 0)) ((old &&& ~~~m) ||| (v &&& m)) w ∧
      bodyRegModify (mkReq p h 0x04 [x, m, v]) (s.taken (mkReq p h 0x04 [x, m, v])) =
        sendReply p h.tag 0x04 0x00 [old] (s.setReg (wbits x 18 0) w) := by
  have ⟨hrow, _, hright, _⟩ := hw
  obtain ⟨w, hstored, he⟩ := writeReg_taken (hw.taken (mkReq p h 0x04 [x, m, v]))
  have haddr : (mkReq p h 0x04 [x, m, v]).regAddr = wbits x 18 0 := rfl
  have hread : readReg p (wbits x 18 0) (s.taken (mkReq p h 0x04 [x, m, v])) = (old, s.taken (mkReq p h 0x04 [x, m, v])) := by
    rw [hold]; exact readReg_no_capture hc
  have hright' : writeRight p (wbits x 18 0) (s.taken (mkReq p h 0x04 [x, m, v])) = none := hright
  have hword : modifyWord (wbits x 18 0) old ((mkReq p h 0x04 [x, m, v]).word 2) ((mkReq p h 0x04 [x, m, v]).word 3) =
      (old &&& ~~~m) ||| (v &&& m) := modifyWord_plain old m v hrow hf
  refine ⟨w, hstored, ?_⟩
  simp only [bodyRegModify, haddr, ha, ne_eq, not_true_eq_false, if_false, mkReq_port, hright', hread, hword, he]
  exact reply_setReg_taken (r := mkReq p h 0x04 [x, m, v]) 0x00 [old] _ _ hfree

/-- Settles O2: each of the three writes ends in `writeReg`, which stores the fields of a write that is taken. -/
theorem registerWritesStoreTheirFields : Obligations.RegisterWritesStoreTheirFields := by
  unfold Obligations.RegisterWritesStoreTheirFields
  refine ⟨fun p a r v s hl ha hw => ?_, fun p h x v r s hl hs hn ha hw => ?_, fun p h x m v old r s hl hs ha hc hold hf hw => ?_⟩
  · obtain ⟨w, hstored, he⟩ := rowWrite_taken ha hw
    exact ⟨w, hstored, done_outcome hl he⟩
  · obtain ⟨w, hstored, he⟩ := bodyRegWrite_one hs.free hn ha hw
    exact ⟨w, hstored, request_outcome hl hs he⟩
  · obtain ⟨w, hstored, he⟩ := bodyRegModify_plain hs.free ha hc hold hf hw
    exact ⟨w, hstored, request_outcome hl hs he⟩

end Sys2Proof.Machine
end

section
/-!
PROOFS. Requests at large: NOP and REG_READ, the event queues and the journal, LOCK_ACQUIRE, and requests that are refused (R378 to R383,
R390, R393 to R415).
-/
namespace Sys2Proof.Machine

/-! NOP and REG_READ (R394). -/

/-- Registers without a capture of the port are read with no effect, in ascending address. -/
theorem readRegs_no_capture {p : Port} {s : State} (n addr : Nat) (h : ∀ i, i < n → captured p (addr + 8 * i) s = none) :
    readRegs p n addr s = ((List.range n).map fun i => regValue (addr + 8 * i) s, s) := by
  induction n generalizing addr with
  | zero => rfl
  | succ n ih =>
    have hrest : ∀ i, i < n → captured p (addr + 8 + 8 * i) s = none := fun i hi => by
      have := h (i + 1) (by omega)
      rwa [show addr + 8 * (i + 1) = addr + 8 + 8 * i by omega] at this
    have hfirst : captured p addr s = none := h 0 (by omega)
    rw [readRegs, readReg_no_capture hfirst, List.range_succ_eq_map, List.map_cons, List.map_map]
    simp only [ih _ hrest, Nat.mul_zero, Nat.add_zero]
    congr 2
    refine List.map_congr_left fun i _ => ?_
    simp only [Function.comp_apply]
    congr 1; omega

/-- The state that a REG_READ without captures leaves. -/
theorem bodyRegRead_no_capture {p : Port} {h : Hdr} {w : Word} {s : State} (hfree : inFlight p h.tag s = false) (hn : 1 ≤ wbits w 30 19)
    (ha : wbits w 18 0 % 8 = 0) (hend : wbits w 18 0 + 8 * (wbits w 30 19 - 1) ≤ 0x7FFF8)
    (hc : ∀ i, i < wbits w 30 19 → captured p (wbits w 18 0 + 8 * i) s = none) :
    bodyRegRead (mkReq p h 0x02 [w]) (s.taken (mkReq p h 0x02 [w])) = sendReply p h.tag 0x02 0x00
      ((List.range (wbits w 30 19)).map fun i => regValue (wbits w 18 0 + 8 * i) (s.taken (mkReq p h 0x02 [w]))) s := by
  have hrange : regRange 4095 (mkReq p h 0x02 [w]) = true := by
    have hcount : wbits w 30 19 < 2 ^ 12 := wbits_lt w 30 19
    exact decide_eq_true ⟨hn, by show wbits w 30 19 ≤ 4095; omega, ha, hend⟩
  have hread := readRegs_no_capture (s := s.taken (mkReq p h 0x02 [w])) (wbits w 30 19) (wbits w 18 0) hc
  simp only [bodyRegRead, hrange, Bool.not_true, Bool.false_eq_true, if_false]
  rw [show readRegs (mkReq p h 0x02 [w]).port (mkReq p h 0x02 [w]).regCount (mkReq p h 0x02 [w]).regAddr _ = _ from hread]
  exact reply_mkReq_taken 0x00 _ hfree

/-- Settles O1: each request's body is a reply with what it reads. -/
theorem repliesCarryPayloadAndRegisters : Obligations.RepliesCarryPayloadAndRegisters := by
  unfold Obligations.RepliesCarryPayloadAndRegisters
  exact ⟨fun p h w s hl hs => request_outcome hl hs (reply_mkReq_taken 0x00 w hs.free),
    fun p h w s hl hs hn ha hend hc => request_outcome hl hs (bodyRegRead_no_capture hs.free hn ha hend hc)⟩

/-! EVENT_READ and JOURNAL_READ (R298, R400, R414). -/

theorem updPort_taken (p : Port) (f : PortState → PortState) (s : State) (r : Req) :
    ({ s.taken r with cmd := (s.taken r).cmd.updPort p f } : State) = ({ s with cmd := s.cmd.updPort p f } : State).taken r := by
  cases p <;> rfl

theorem port_taken (p : Port) (s : State) (r : Req) : (s.taken r).cmd.port p = s.cmd.port p := by cases p <;> rfl

theorem inFlight_updPort (p q : Port) (tag : BitVec 10) (f : PortState → PortState) (s : State) :
    inFlight q tag { s with cmd := s.cmd.updPort p f } = inFlight q tag s := by simp [inFlight]

/-- The state that EVENT_READ leaves. -/
theorem bodyEventRead_taken {p : Port} {h : Hdr} {w : Word} {s : State} (hfree : inFlight p h.tag s = false) (hmost : wbits w 9 0 ≠ 0) :
    bodyEventRead (mkReq p h 0x70 [w]) (s.taken (mkReq p h 0x70 [w])) =
      (let q := (s.cmd.port p).events
       let l := q.take (wbits w 9 0)
       let rest := q.drop (wbits w 9 0)
       let t := sendReply p h.tag 0x70 0x00 (BitVec.ofNat 36 (rest.length * 2 ^ 10 + l.length) :: l.flatMap EvRec.words)
         { s with cmd := s.cmd.updPort p fun x => { x with events := rest } }
       if rest = [] then t else { t with cmd := t.cmd.updPort p fun x => { x with wake := true } }) := by
  have hfld : (mkReq p h 0x70 [w]).fld 1 9 0 = wbits w 9 0 := rfl
  simp only [bodyEventRead, hfld, hmost, if_false, mkReq_port, port_taken, updPort_taken, List.isEmpty_iff]
  rw [reply_mkReq_taken stOk _ (by rwa [inFlight_updPort])]
  rfl

theorem wakeMemory_taken (s : State) (r : Req) : wakeMemory (s.taken r) = (wakeMemory s).taken r := by
  unfold wakeMemory
  rw [taken_mem]
  split <;> rfl

theorem wakeMemory_cmd (s : State) : (wakeMemory s).cmd = s.cmd := by unfold wakeMemory; split <;> rfl

theorem post_taken (l : List TxnPost) (s : State) (r : Req) : post l (s.taken r) = (post l s).taken r := by
  unfold post
  split
  · rfl
  · rw [wakeMemory_taken]; rfl

theorem post_cmd (l : List TxnPost) (s : State) : (post l s).cmd = s.cmd := by
  unfold post
  split
  · rfl
  · exact wakeMemory_cmd s

theorem post_jnl (l : List TxnPost) (s : State) : (post l s).jnl = s.jnl := by
  unfold post wakeMemory
  split
  · rfl
  · split <;> rfl

theorem postTable_taken (t : Nat) (b : Bool) (s : State) (r : Req) : postTable t b (s.taken r) = (postTable t b s).taken r :=
  post_taken _ _ _

theorem postTable_cmd (t : Nat) (b : Bool) (s : State) : (postTable t b s).cmd = s.cmd := post_cmd _ _

theorem postTable_jnl (t : Nat) (b : Bool) (s : State) : (postTable t b s).jnl = s.jnl := post_jnl _ _

theorem inFlight_of_cmd {s t : State} (p : Port) (tag : BitVec 10) (h : t.cmd = s.cmd) : inFlight p tag t = inFlight p tag s := by
  simp only [inFlight, h]

section journal
variable {p : Port} {h : Hdr} {w : Word} {s : State} (hfree : inFlight p h.tag s = false) (hmost : wbits w 9 0 ≠ 0)
include hfree hmost

/-- The state that a JOURNAL_READ without CONSUME leaves. -/
theorem bodyJournalRead_keeps (hc : wbits w 17 17 = 0) (hbad : s.mem.jnlBad = false) :
    bodyJournalRead (mkReq p h 0x18 [w]) (s.taken (mkReq p h 0x18 [w])) =
      sendReply p h.tag 0x18 0x00 (BitVec.ofNat 36 (s.jnl.length * 2 ^ 17 + (s.jnl.take (wbits w 9 0)).length) ::
        (s.jnl.take (wbits w 9 0)).flatMap JEnt.words) (postTable 0 false s) := by
  have hfld : (mkReq p h 0x18 [w]).fld 1 9 0 = wbits w 9 0 := rfl
  have hcons : (mkReq p h 0x18 [w]).consumes = false := decide_eq_false fun x => absurd (hc.symm.trans x.2) (by decide)
  simp only [bodyJournalRead, hfld, hmost, hcons, taken_mem, hbad, Bool.false_and, Bool.false_eq_true, if_false, postTable_taken, taken_jnl,
    postTable_jnl]
  exact reply_mkReq_taken 0x00 _ (by rwa [inFlight_of_cmd p h.tag (postTable_cmd _ _ _)])

/-- The state that a JOURNAL_READ with CONSUME leaves. -/
theorem bodyJournalRead_consumes (hc : wbits w 17 17 = 1) (her : s.nvm.jnlErased = true) (hbad : s.mem.jnlBad = false) :
    bodyJournalRead (mkReq p h 0x18 [w]) (s.taken (mkReq p h 0x18 [w])) = flushDropped (sendReply p h.tag 0x18 0x00
      (BitVec.ofNat 36 ((s.jnl.length - (s.jnl.take (wbits w 9 0)).length) * 2 ^ 17 + (s.jnl.take (wbits w 9 0)).length) ::
        (s.jnl.take (wbits w 9 0)).flatMap JEnt.words) { postTable 0 true s with jnl := s.jnl.drop (wbits w 9 0) }) := by
  have hfld : (mkReq p h 0x18 [w]).fld 1 9 0 = wbits w 9 0 := rfl
  have hcons : (mkReq p h 0x18 [w]).consumes = true := decide_eq_true ⟨rfl, hc⟩
  have hleft : (s.jnl.drop (wbits w 9 0)).length = s.jnl.length - (s.jnl.take (wbits w 9 0)).length := by
    rw [List.length_drop, List.length_take]; omega
  simp only [bodyJournalRead, hfld, hmost, hcons, taken_mem, taken_nvm, her, hbad, Bool.not_true, Bool.and_false, Bool.false_eq_true,
    if_false, if_true, postTable_taken, taken_jnl, postTable_jnl, hleft]
  exact congrArg flushDropped (reply_mkReq_taken (s := { postTable 0 true s with jnl := s.jnl.drop (wbits w 9 0) }) stOk _
    ((inFlight_of_cmd p h.tag (postTable_cmd 0 true s)).trans hfree))

/-- A JOURNAL_READ of a journal whose table has failed in both copies replies CHECK_FAIL, once. -/
theorem bodyJournalRead_bad (hc : wbits w 17 17 = 0 ∨ s.nvm.jnlErased = true) (hbad : s.mem.jnlBad = true) :
    bodyJournalRead (mkReq p h 0x18 [w]) (s.taken (mkReq p h 0x18 [w])) =
      sendReply p h.tag 0x18 0x07 [] { s with mem := { s.mem with jnlBad := false } } := by
  have hfld : (mkReq p h 0x18 [w]).fld 1 9 0 = wbits w 9 0 := rfl
  have hmay : ((mkReq p h 0x18 [w]).consumes && !s.nvm.jnlErased) = false := by
    rcases hc with hc | hc
    · rw [show (mkReq p h 0x18 [w]).consumes = false from decide_eq_false fun x => absurd (hc.symm.trans x.2) (by decide), Bool.false_and]
    · rw [hc, Bool.not_true, Bool.and_false]
  simp only [bodyJournalRead, hfld, hmost, taken_mem, taken_nvm, hmay, hbad, Bool.false_eq_true, if_false, if_true]
  rw [refuse_no_payload _ _ (by simp) (by simp)]
  exact reply_mkReq_taken (s := { s with mem := { s.mem with jnlBad := false } }) 0x07 [] hfree

end journal

/-- Settles O3: each request runs its body, in the case of its fields and of the journal. -/
theorem oldestRecordsAndEntriesAreRead : Obligations.OldestRecordsAndEntriesAreRead := by
  unfold Obligations.OldestRecordsAndEntriesAreRead
  exact ⟨fun p h w s hl hs hmost => request_outcome hl hs (bodyEventRead_taken hs.free hmost),
    fun p h w s hl hs hmost => ⟨fun hc hbad => request_outcome hl hs (bodyJournalRead_keeps hs.free hmost hc hbad),
      fun hc her hbad => request_outcome hl hs (bodyJournalRead_consumes hs.free hmost hc her hbad),
      fun hc hbad => request_outcome hl hs (bodyJournalRead_bad hs.free hmost hc hbad)⟩⟩

/-! LOCK_ACQUIRE (R405, R406). -/

/-- The state that a LOCK_ACQUIRE which nothing refuses leaves. -/
theorem bodyLockAcquire_taken {p : Port} {h : Hdr} {w : Word} {s : State} (hfree : inFlight p h.tag s = false)
    (h0 : leaseOver 0 s = false) (h1 : leaseOver 1 s = false)
    (hright : if wbits w 0 0 = 0 then p = .host ∧ holds p 1 s = false else calRight p s = true)
    (hother : ∀ l, lockOf (wbits w 0 0) s = some l → l.port = p) (hms : wbits w 26 16 = 0 ∨ (20 ≤ wbits w 26 16 ∧ wbits w 26 16 ≤ 2000)) :
    bodyLockAcquire (mkReq p h 0x20 [w]) (s.taken (mkReq p h 0x20 [w])) =
      (let t := if wbits w 26 16 = 0 then s.fld F.CMD_LEASE_DEF_DEF_MS else wbits w 26 16
       checkElig (sendReply p h.tag 0x20 0x00 []
        (setLock (wbits w 0 0) (some { port := p, ms := t, deadline := s.tb.ticks + 400000 * t }) s))) := by
  have hlock : (mkReq p h 0x20 [w]).fld 1 0 0 = wbits w 0 0 := rfl
  have hlease : (mkReq p h 0x20 [w]).fld 1 26 16 = wbits w 26 16 := rfl
  have hmay : lockRight p (wbits w 0 0) (s.taken (mkReq p h 0x20 [w])) = true ∧
      ¬(wbits w 0 0 = 0 ∧ holds p 1 s = true) := by
    unfold lockRight
    split at hright
    · rename_i hn
      obtain ⟨rfl, hcal⟩ := hright
      simp [hn, hcal]
    · rename_i hn
      exact ⟨by rw [if_neg hn]; exact hright, fun x => hn x.1⟩
  obtain ⟨hmay, horder⟩ := hmay
  have hmsOk : ¬(wbits w 26 16 ≠ 0 ∧ (wbits w 26 16 < 20 ∨ 2000 < wbits w 26 16)) := by omega
  simp only [bodyLockAcquire, expireDue_none_over (s := s.taken (mkReq p h 0x20 [w])) (by simpa using h0) (by simpa using h1), hlock, hlease,
    mkReq_port, hmay, Bool.not_true, Bool.false_eq_true, if_false, holds_taken, horder, lockOf_taken, hmsOk, setLock_taken]
  rw [reply_mkReq_taken stOk [] (by simpa using hfree)]
  cases hl : lockOf (wbits w 0 0) s with
  | none => rfl
  | some l => rw [if_neg (by simp [hother l hl])]; rfl

/-- Settles O4: nothing refuses the request, whose lease begins now. -/
theorem lockAcquireStartsALease : Obligations.LockAcquireStartsALease := by
  unfold Obligations.LockAcquireStartsALease
  exact fun p h w s hl hs h0 h1 hright hother hms =>
    request_outcome hl hs (bodyLockAcquire_taken hs.free h0 h1 hright hother hms)

end Sys2Proof.Machine
end

section
/-!
PROOFS. Requests that are refused (R378 to R383, R390, R393, R466).
-/
namespace Sys2Proof.Machine

/-- A row that is a request takes that request; its body is the opcode's but for NVM_STORE, whose row gives the hold-up sense (R445). -/
theorem exec_request {c : Instr} {r : Req} (h : requestOf c = some r) (s : State) :
    ∃ body, exec c s = done s (takeReq body r s) ∧ (r.op ≠ 0x42 → ∀ t, body r t = dispatchOp r t) := by
  cases c
  case nvmStore | nvmStoreCompact =>
    obtain rfl := Option.some.inj h
    exact ⟨_, rfl, fun hne => absurd rfl hne⟩
  case nop | regRead | regWrite | regModify | jobOpen | jobClose | loafLoad | loafArm | loafStart | loafStop | loafAbort | journalRead
      | lockAcquire | lockRelease | leaseRenew | move | home | stopAxis | calCaptureDark | calCaptureFlat | calCaptureBeams
      | calCaptureRxOff | calCaptureOsc | calApply | nvmLoad | linkTrain | linkLoopback | memRetrain | join | partnerJoin | beat | traj
      | mark | tile | slice | jnl | leave | handover | pairTakeover | eventRead | resetSoft =>
    obtain rfl := Option.some.inj h
    exact ⟨_, rfl, fun _ _ => rfl⟩
  all_goals nomatch h

/-! What a port does with a request before its body, case by case (R383, R390, R393). -/

theorem takeReq_not_taken {body : Req → State → State} {r : Req} {s : State} (h : portUp r.port s = false ∨ ringRoom r s = false) :
    takeReq body r s = s := by
  rcases h with h | h <;> simp [takeReq, h]

section
variable {body : Req → State → State} {r : Req} {s : State} (hup : portUp r.port s = true) (hroom : ringRoom r s = true)
include hup hroom

theorem takeReq_dup (hdup : inFlight r.port r.tag s = true) :
    takeReq body r s = raise F.CMD_EVT_DUP_TAG (s.bump (F.CMD_PORT_ERR_DUP_TAG (portIdx r.port))) := by
  simp [takeReq, hup, hroom, hdup]

theorem takeReq_boot (hfree : inFlight r.port r.tag s = false) (hboot : s.core = .boot) : takeReq body r s = answerNow r stBusy s := by
  simp [takeReq, hup, hroom, hfree, hboot]

end

/-- A free value is drawn alike with a command in flight. -/
theorem refusalPayload_taken (r q : Req) (s : State) :
    refusalPayload r (s.taken q) = ((refusalPayload r s).1, (refusalPayload r s).2.taken q) := by
  unfold refusalPayload
  split
  · rfl
  · split <;> rfl

theorem refusalPayload_cmd (r : Req) (s : State) : (refusalPayload r s).2.cmd = s.cmd := by
  unfold refusalPayload
  split
  · rfl
  · split <;> rfl

/-- A request just taken and refused is answered as one that has not been taken. -/
theorem refuse_taken {r : Req} {s : State} (st : Nat) (hfree : inFlight r.port r.tag s = false) :
    refuse r st (s.taken r) = answerNow r st s := by
  simp only [refuse, refusalPayload_taken]
  exact reply_taken st _ (by rwa [inFlight_of_cmd _ _ (refusalPayload_cmd r s)])

theorem takeReq_refused {body : Req → State → State} {r : Req} {s : State} {st : Nat} (ha : Arrives r s)
    (hfree : inFlight r.port r.tag s = false) (hboot : s.core ≠ .boot) (hfail : firstFailure r (s.taken r) = some st) :
    takeReq body r s = answerNow r st s := by
  obtain ⟨hup, hroom, hlimit, hfence⟩ := ha
  have hnow : (r.fence && !(flightsOf r.port s).isEmpty) = false := by rcases hfence with h | h <;> simp [h]
  have hstart : start body r (s.taken r) = refuse r st (s.taken r) := by rw [start, hfail]
  simp only [takeReq, hup, hroom, hfree, hboot, Nat.not_le.2 hlimit, hnow, Bool.not_true, Bool.or_self, Bool.false_eq_true, if_false]
  exact hstart.trans (refuse_taken st hfree)

/-- The body of a PAIR_SYNC that does not come from the port of its FN (R466). -/
theorem bodyPairSync_foreign {r : Req} {s : State} (hop : r.op = 0x60) (hfn : fnFrom r = false) (hfree : inFlight r.port r.tag s = false) :
    bodyPairSync r (s.taken r) = sendReply r.port r.tag 0x60 0x05 [] s := by
  rw [bodyPairSync, hfn, Bool.not_false, if_pos rfl, refuse_no_payload _ _ (by simp [hop]) (by simp [hop]), reply_taken _ _ hfree, hop]
  rfl

theorem dispatchOp_pairSync {r : Req} (s : State) (h : r.op = 0x60) : dispatchOp r s = bodyPairSync r s := by
  unfold dispatchOp; rw [h]; rfl

/-- Settles O6: a row that is a request takes it, and each clause is one case of what a port does with it. -/
theorem refusedRequestsChangeNothing : Obligations.RefusedRequestsChangeNothing := by
  unfold Obligations.RefusedRequestsChangeNothing
  have taken {c : Instr} {r : Req} {s t : State} (hc : requestOf c = some r) (hl : s.live) (ht : ∀ body, takeReq body r s = t) :
      exec c s = .next (finish s t) := by
    obtain ⟨body, he, -⟩ := exec_request hc s
    rw [he, done_outcome hl (ht body)]
  refine ⟨fun c r s st hc hl ha hfree hboot hfail => taken hc hl fun _ => takeReq_refused ha hfree hboot hfail,
    fun c r s hc hl hup hroom hfree hboot => taken hc hl fun _ => takeReq_boot hup hroom hfree hboot,
    fun c r s hc hl h => taken hc hl fun _ => takeReq_not_taken h,
    fun c r s hc hl hup hroom hdup => taken hc hl fun _ => takeReq_dup hup hroom hdup,
    fun c r s hc hl hs hop hfn => ?_⟩
  have ⟨_, _, hfree, _⟩ := hs
  obtain ⟨body, he, hbody⟩ := exec_request hc s
  rw [he]
  refine request_outcome hl hs ?_
  rw [hbody (by simp [hop]), dispatchOp_pairSync _ hop, bodyPairSync_foreign hop hfn hfree]

end Sys2Proof.Machine
end

section
/-!
SUPPORT. What the block shows and tells (registers, event queues, the journal and its posts, replies, messages to the partner) apart from
what it works on: operations that only show or tell leave the rest.
-/
namespace Sys2Proof.Machine

/-- What remains of a state without its trace, registers, journal, memory posts, event queues and message records. -/
def State.inner (s : State) : State :=
  { s with out := [], regs := [], jnl := [], mem := State.reset.mem,
           cmd := { Cmd.reset with exp := s.cmd.exp, cal := s.cmd.cal, flight := s.cmd.flight, held := s.cmd.held, uart := s.cmd.uart,
                                   rx := s.cmd.rx, d3 := s.cmd.d3 },
           pair := { s.pair with unacked := [], nextTag := 0, peerTiles := [], peerSlices := [], ownTiles := [], ownSlices := [],
                                 differ := false, elig := false } }

@[simp] theorem inner_setReg (s : State) (a : Nat) (w : Word) : (s.setReg a w).inner = s.inner := (rfl)
@[simp] theorem inner_setFld (s : State) (f : Fld) (v : Nat) : (s.setFld f v).inner = s.inner := (rfl)
@[simp] theorem inner_bumpBy (s : State) (f : Fld) (n : Nat) : (s.bumpBy f n).inner = s.inner := (rfl)
@[simp] theorem inner_bump (s : State) (f : Fld) : (s.bump f).inner = s.inner := (rfl)
@[simp] theorem inner_emit (o : Out) (s : State) : (emit o s).inner = s.inner := (rfl)

@[simp] theorem inner_mark (s : State) (f : Fld) : (s.mark f).inner = s.inner := by unfold State.mark; split <;> rfl

@[simp] theorem inner_raise (f : Fld) (s : State) : (raise f s).inner = s.inner := inner_mark s f

@[simp] theorem inner_raiseIf (b : Bool) (f : Fld) (s : State) : (raiseIf b f s).inner = s.inner := by
  cases b
  · rfl
  · exact inner_raise f s

@[simp] theorem inner_sendPeer (op : Nat) (w : List Word) (s : State) : (sendPeer op w s).2.inner = s.inner := (rfl)

@[simp] theorem inner_checkElig (s : State) : (checkElig s).inner = s.inner := by
  rw [checkElig, inner_raiseIf]; rfl

@[simp] theorem inner_sendJnl (e : JEnt) (s : State) : (sendJnl e s).inner = s.inner := by unfold sendJnl; split <;> rfl

@[simp] theorem inner_wakeMemory (s : State) : (wakeMemory s).inner = s.inner := by unfold wakeMemory; split <;> rfl

@[simp] theorem inner_post (l : List TxnPost) (s : State) : (post l s).inner = s.inner := by
  unfold post
  split
  · rfl
  · exact inner_wakeMemory s

@[simp] theorem inner_storeEnt (e : JEnt) (s : State) : (storeEnt e s).inner = s.inner := inner_post _ _

@[simp] theorem inner_flushDropped (s : State) : (flushDropped s).inner = s.inner := by
  unfold flushDropped
  dsimp only
  split
  · exact (inner_storeEnt _ _).trans (inner_setFld _ _ _)
  · rfl

@[simp] theorem inner_commitEnt (e : JEnt) (s : State) : (commitEnt e s).inner = s.inner := by
  unfold commitEnt
  rw [inner_sendJnl]
  split <;> simp

@[simp] theorem inner_writeRing (p : Nat) (l : List Word) (s : State) : (writeRing p l s).inner = s.inner := by
  induction p, l, s using writeRing.induct with
  | case1 => rfl
  | case2 => rfl
  | case3 p s e o r ih => exact ih

@[simp] theorem inner_sendMsix (v : Nat) (s : State) : (sendMsix v s).inner = s.inner := by
  unfold sendMsix
  split
  · split <;> rfl
  · rfl

@[simp] theorem inner_vector0 (s : State) : (vector0 s).inner = s.inner := by
  unfold vector0
  split
  · exact inner_sendMsix _ _
  · rfl

@[simp] theorem inner_sendReply (p : Port) (tag : BitVec 10) (op st : Nat) (w : List Word) (s : State) :
    (sendReply p tag op st w s).inner = s.inner := by
  cases p
  · simp [sendReply]
  · rfl
  · rfl

/-- The reply of the command that stands last in flight leaves the rest, and what was in flight before it. -/
theorem inner_reply_last {r : Req} {t : State} {l : List Flight} (st : Nat) (w : List Word) (hf : t.cmd.flight = l ++ [r.flight])
    (h : l.any (fun f => f.port == r.port && f.tag == r.tag) = false) :
    (r.reply st w t).inner = ({ t with cmd := { t.cmd with flight := l } } : State).inner := by
  rw [reply_last st w hf h, inner_sendReply]

/-! Tiles are settled (R79, R132 to R140): tiles change their stage and the front moves, but no loaf, tile or row is added. -/

/-- What remains when tiles are settled. -/
def State.tileless (s : State) : State := { s.inner with rows := [], plc := { s.plc with tiles := [], front := 0 }, loaves := [] }

/-- The second state holds the loaves and tiles of the first, and no other rows; it differs in nothing else that is worked on. -/
structure Settles (s t : State) : Prop where
  rest : t.tileless = s.tileless
  loafOrds : t.loaves.map (·.ord) = s.loaves.map (·.ord)
  tileOrds : t.plc.tiles.map (·.ord) = s.plc.tiles.map (·.ord)
  rows : ∀ x ∈ t.rows, x ∈ s.rows

theorem Settles.refl (s : State) : Settles s s := ⟨rfl, rfl, rfl, fun _ h => h⟩

theorem Settles.trans {s t u : State} (h : Settles s t) (h' : Settles t u) : Settles s u :=
  ⟨h'.rest.trans h.rest, h'.loafOrds.trans h.loafOrds, h'.tileOrds.trans h.tileOrds, fun x hx => h.rows x (h'.rows x hx)⟩

/-- What only shows or tells settles nothing. -/
theorem Settles.of_inner {s t : State} (h : t.inner = s.inner) : Settles s t := by
  have hl : t.loaves = s.loaves := show t.inner.loaves = s.inner.loaves by rw [h]
  have hp : t.plc = s.plc := show t.inner.plc = s.inner.plc by rw [h]
  have hr : t.rows = s.rows := show t.inner.rows = s.inner.rows by rw [h]
  exact ⟨by rw [State.tileless, State.tileless, h, hp], by rw [hl], by rw [hp], fun x hx => hr ▸ hx⟩

theorem map_updateFirst {α β : Type} (f : α → β) (p : α → Bool) (g : α → α) (hg : ∀ x, f (g x) = f x) (l : List α) :
    (updateFirst p g l).map f = l.map f := by
  induction l with
  | nil => rfl
  | cons x r ih =>
    unfold updateFirst
    split
    · simp [hg]
    · simp [ih]

theorem settles_updTile (x : Tile) (f : Tile → Tile) (s : State) (hf : ∀ t, (f t).ord = t.ord) : Settles s (updTile x f s) :=
  ⟨rfl, rfl, map_updateFirst _ _ f hf s.plc.tiles, fun _ h => h⟩

theorem settles_updLoaf (o : Nat) (f : Loaf → Loaf) (s : State) (hf : ∀ l, (f l).ord = l.ord) : Settles s (updLoaf o f s) :=
  ⟨rfl, map_updateFirst _ _ f hf s.loaves, rfl, fun _ h => h⟩

@[simp] theorem inner_recordDiff (b : Bool) (lane ord pos : Nat) (s : State) : (recordDiff b lane ord pos s).inner = s.inner := by
  unfold recordDiff
  split
  · rfl
  · simp only [inner_setFld]

@[simp] theorem inner_pairDiffer (b : Bool) (lane ord pos : Nat) (s : State) : (pairDiffer b lane ord pos s).inner = s.inner := by
  unfold pairDiffer
  split
  · rfl
  · rw [inner_checkElig, inner_recordDiff, inner_raise]; rfl

@[simp] theorem inner_meetTiles (a b : PeerTile) (s : State) : (meetTiles a b s).inner = s.inner := by
  unfold meetTiles
  split
  · rfl
  · exact inner_pairDiffer _ _ _ _ _

@[simp] theorem inner_tellTile (x : PeerTile) (s : State) : (tellTile x s).inner = s.inner := by
  unfold tellTile
  split
  · rfl
  · dsimp only
    split
    · exact inner_meetTiles _ _ _
    · rfl

theorem settles_commitTile (t : Tile) (s : State) : Settles s (commitTile t s) := by
  refine (settles_updTile t (fun t => { t with stage := .committed, readable := true, kneader := none }) s fun _ => rfl).trans (.of_inner ?_)
  unfold commitTile
  simp only [inner_tellTile, inner_setFld]

theorem settles_commitWalk (l : List Tile) (s : State) : Settles s (commitWalk l s) := by
  induction l generalizing s with
  | nil => exact .refl s
  | cons t r ih =>
    unfold commitWalk
    split
    · exact (settles_commitTile t s).trans (ih _)
    · exact (settles_updTile t _ s (by intro t; rfl)).trans (ih _)
    · exact ih s
    all_goals
      split
      · exact ih s
      · exact .refl s

theorem settles_freeSlots (s : State) : Settles s (freeSlots s) := ⟨rfl, rfl, rfl, fun _ h => (List.mem_filter.1 h).1⟩

theorem settles_freeAreas (s : State) : Settles s (freeAreas s) :=
  ⟨rfl, rfl, by
    simp only [freeAreas, List.map_map]
    exact List.map_congr_left fun t _ => by simp only [Function.comp_apply]; split <;> rfl, fun _ h => h⟩

theorem settles_publishFront (s : State) : Settles s (publishFront s) := by
  unfold publishFront
  split
  · exact .refl s
  · next o _ =>
    split
    · exact .refl s
    · next l _ =>
      split
      · exact .refl s
      · have hfront : Settles s { s with plc := { s.plc with front := readyRow l s } } := ⟨rfl, rfl, rfl, fun _ h => h⟩
        refine hfront.trans (.trans ?_ (.of_inner ((inner_raiseIf _ _ _).trans (inner_raiseIf _ _ _))))
        dsimp only
        split
        · exact settles_updLoaf o _ _ fun _ => rfl
        · exact .refl _

theorem settles_settleTiles (s : State) : Settles s (settleTiles s) :=
  (((settles_commitWalk _ s).trans (settles_freeSlots _)).trans (settles_freeAreas _)).trans (settles_publishFront _)

end Sys2Proof.Machine
end

section
/-!
PROOFS. Jobs and loaves: JOB_OPEN, JOB_CLOSE, LOAF_ARM, LOAF_START, LOAF_STOP and LOAF_ABORT (R4, R330, R398, R460, R533).
-/
namespace Sys2Proof.Machine

/-! The one command in flight with an opcode. -/

theorem flightsOp_of_flight {p : Port} {op : Nat} {s t : State} {f : Flight} (ht : t.cmd.flight = s.cmd.flight ++ [f])
    (hs : flightsOp p op s = []) (hp : f.port = p) (hop : f.op = op) : flightsOp p op t = [f] := by
  unfold flightsOp at hs ⊢
  rw [ht, List.filter_append, hs]
  simp [hp, hop]

theorem heldBack_none_held {s : State} (p : Port) (tag : BitVec 10) (h : s.cmd.held = []) : heldBack p tag s = false := by
  simp [heldBack, h]

theorem answerAll_one {p : Port} {op : Nat} {s : State} {f : Flight} (st : Nat) (w : List Word) (hf : flightsOp p op s = [f])
    (hh : s.cmd.held = []) : answerAll p op st w s = answer p f.tag st w s := by
  simp [answerAll, hf, heldBack_none_held p _ hh]

/-! JOB_OPEN (R4). -/

theorem wakeCore_on {s : State} (h : s.pwr.clOn = 64) : wakeCore s = s := by simp [wakeCore, coreOff, h]

/-- JOB_OPEN with the core and the memory awake opens the job at once. -/
theorem tryOpenJob_ready {s : State} {f : Flight} (hf : flightsOp .host 0x10 s = [f]) (hh : s.cmd.held = []) (hcore : s.core = .idle)
    (hon : s.pwr.clOn = 64) (hen : s.pwr.enabling = false) (hsr : s.mem.sr = .awake) : tryOpenJob s = openJob f s := by
  simp [tryOpenJob, hf, heldBack_none_held, hh, hcore, hon, hen, hsr]

/-- A request that starts meets the state that its opcode asks for (R380 step 4). -/
theorem Starts.stateOk {r : Req} {s : State} (hs : Starts r s) : stateOk r s = true := by
  obtain ⟨_, _, _, _, _, _, hcheck⟩ := hs
  by_contra hc
  have hstate : Machine.stateOk r (s.taken r) = false := Bool.eq_false_iff.2 hc
  unfold firstFailure at hcheck
  rw [hstate] at hcheck
  split_ifs at hcheck with _ _ _ hpass
  exact hpass rfl

/-- The state that JOB_OPEN leaves. -/
theorem bodyJobOpen_taken {h : Hdr} {w v : Word} {s : State} (hs : Starts (mkReq .host h 0x10 [w, v]) s) (hb : wbits w 19 18 ≠ 0)
    (hp : 64 ≤ wbits w 17 0) (her : s.nvm.jnlErased = true) (hcapt : s.cal.capt = none) (hbist : s.tst.bist = false)
    (hret : retiredCount s ≤ 4) (hup : ∀ g, g < lanesOf (wbits w 19 18) / 8 → (s.grp g).up = true) (hon : s.pwr.clOn = 64)
    (hen : s.pwr.enabling = false) (hsr : s.mem.sr = .awake) (hheld : s.cmd.held = []) (hnone : flightsOp .host 0x10 s = []) :
    bodyJobOpen (mkReq .host h 0x10 [w, v]) (s.taken (mkReq .host h 0x10 [w, v])) = judgeSoft (sendReply .host h.tag 0x10 0x00 []
      { s.activateFld F.PRF_CTL_RING_PC_MIB with
        job := some { beams := wbits w 19 18, pitch := wbits w 17 0, id := v, nextOrd := 0, closing := false }, core := .job,
        prf := { s.prf with outPcs := [], rebuilds := [] }, plc := { s.plc with tiles := [], front := 0 },
        lch := { s.lch with carried := [], sentLoaves := [] } }) := by
  have hcore : s.core = .idle := by simpa [stateOk] using hs.stateOk
  have hbeams : (mkReq .host h 0x10 [w, v]).fld 1 19 18 = wbits w 19 18 := rfl
  have hpitch : (mkReq .host h 0x10 [w, v]).fld 1 17 0 = wbits w 17 0 := rfl
  have hgroups : ((List.range (lanesOf (wbits w 19 18) / 8)).any fun g => !(s.grp g).up) = false := by
    simpa using hup
  have hlive : retiredCount (s.taken (mkReq .host h 0x10 [w, v])) = retiredCount s := rfl
  have hopen := tryOpenJob_ready (s := s.taken (mkReq .host h 0x10 [w, v]))
    (flightsOp_of_flight (taken_flight s _) hnone rfl rfl) hheld hcore hon hen hsr
  simp only [bodyJobOpen, hbeams, hpitch, hb, Nat.not_lt.2 hp, hlive, Nat.not_lt.2 hret, taken_nvm, taken_tst, taken_grp, her, hbist,
    capturing, taken_cal, hcapt, hgroups, wakeCore_on (s := s.taken _) hon, wakeMemory_awake (s := s.taken _) hsr, Option.isSome_none,
    Bool.true_eq_false, Bool.false_eq_true, or_self, if_false, hopen]
  exact congrArg judgeSoft (reply_mkReq_taken (op := 0x10) (w := [w, v]) (s := { s.activateFld F.PRF_CTL_RING_PC_MIB with
        job := some { beams := wbits w 19 18, pitch := wbits w 17 0, id := v, nextOrd := 0, closing := false }, core := .job,
        prf := { s.prf with outPcs := [], rebuilds := [] }, plc := { s.plc with tiles := [], front := 0 },
        lch := { s.lch with carried := [], sentLoaves := [] } }) stOk [] hs.free)

/-! Loaves are discarded (R83, R398, R533). -/

/-- What remains when loaves are discarded. -/
def State.loafless (s : State) : State := { s.tileless with prf := { s.prf with rebuilds := [], holds := [] } }

theorem loafless_of_settles {s t : State} (h : Settles s t) : t.loafless = s.loafless := by
  have hp : t.prf = s.prf := show t.tileless.prf = s.tileless.prf by rw [h.rest]
  rw [State.loafless, State.loafless, h.rest, hp]

/-- A loaf is taken from what is held, before its tiles are settled. -/
def withoutLoaf (ord : Nat) (s : State) : State :=
  { discardDough ord s with
           loaves := s.loaves.filter (·.ord != ord),
           pair := { s.pair with ownTiles := s.pair.ownTiles.filter (·.ord != ord),
                                 peerTiles := s.pair.peerTiles.filter (·.ord != ord),
                                 ownSlices := s.pair.ownSlices.filter (·.ord != ord),
                                 peerSlices := s.pair.peerSlices.filter (·.ord != ord) } }

theorem discardLoaf_settles (ord : Nat) (s : State) : Settles (withoutLoaf ord s) (discardLoaf ord s) := settles_settleTiles _

theorem Settles.loaf {s t : State} (h : Settles s t) {x : Loaf} (hx : x ∈ t.loaves) : ∃ y ∈ s.loaves, y.ord = x.ord := by
  have hm : x.ord ∈ t.loaves.map (·.ord) := List.mem_map_of_mem hx
  rw [h.loafOrds] at hm
  exact List.mem_map.1 hm

theorem Settles.tile {s t : State} (h : Settles s t) {x : Tile} (hx : x ∈ t.plc.tiles) : ∃ y ∈ s.plc.tiles, y.ord = x.ord := by
  have hm : x.ord ∈ t.plc.tiles.map (·.ord) := List.mem_map_of_mem hx
  rw [h.tileOrds] at hm
  exact List.mem_map.1 hm

theorem discardLoaf_loafless (ord : Nat) (s : State) : (discardLoaf ord s).loafless = s.loafless :=
  (loafless_of_settles (discardLoaf_settles ord s)).trans rfl

/-- A loaf held after one has been discarded was held before and is another. -/
theorem discardLoaf_loaf {ord : Nat} {s : State} {x : Loaf} (hx : x ∈ (discardLoaf ord s).loaves) :
    x.ord ≠ ord ∧ ∃ y ∈ s.loaves, y.ord = x.ord := by
  obtain ⟨y, hy, he⟩ := (discardLoaf_settles ord s).loaf hx
  have ⟨hy, hne⟩ := List.mem_filter.1 (show y ∈ s.loaves.filter (·.ord != ord) from hy)
  exact ⟨by simpa [he] using hne, y, hy, he⟩

theorem foldl_discardLoaf_loafless (l : List Loaf) (s : State) : (l.foldl (fun s l => discardLoaf l.ord s) s).loafless = s.loafless := by
  induction l generalizing s with
  | nil => rfl
  | cons x r ih => exact (ih _).trans (discardLoaf_loafless x.ord s)

theorem foldl_discardLoaf_loaf (l : List Loaf) {s : State} {x : Loaf} (hx : x ∈ (l.foldl (fun s l => discardLoaf l.ord s) s).loaves) :
    (∀ y ∈ l, y.ord ≠ x.ord) ∧ ∃ y ∈ s.loaves, y.ord = x.ord := by
  induction l generalizing s with
  | nil => exact ⟨by simp, x, hx, rfl⟩
  | cons z r ih =>
    obtain ⟨hr, y, hy, he⟩ := ih hx
    obtain ⟨hne, y', hy', he'⟩ := discardLoaf_loaf hy
    refine ⟨fun w hw => ?_, y', hy', he'.trans he⟩
    rcases List.mem_cons.1 hw with rfl | hw
    · exact fun h => hne (he.trans h.symm)
    · exact hr w hw

theorem discardAll_none_runs {s : State} (h : s.lch.run = none) : discardAll s = s.loaves.foldl (fun s l => discardLoaf l.ord s) s := by
  simp [discardAll, h]

/-- With no loaf running every loaf held is discarded. -/
theorem discardAll_loaves {s : State} (h : s.lch.run = none) : (discardAll s).loaves = [] := by
  refine List.eq_nil_iff_forall_not_mem.2 fun x hx => ?_
  rw [discardAll_none_runs h] at hx
  obtain ⟨hnone, y, hy, he⟩ := foldl_discardLoaf_loaf _ hx
  exact hnone y hy he

theorem discardAll_loafless {s : State} (h : s.lch.run = none) : (discardAll s).loafless = s.loafless := by
  rw [discardAll_none_runs h, foldl_discardLoaf_loafless]

/-! JOB_CLOSE (R533). -/

theorem stopArm_no_arm {s : State} (h : s.mot.arm = none) : stopArm s = s := by simp [stopArm, h]

/-- A JOB_CLOSE with nothing of the job left ends it and replies. -/
theorem jobCloseEnd_closing {s : State} {f : Flight} {j : Job} (hj : s.job = some j) (hcl : j.closing = true) (hload : s.loads = [])
    (harm : s.mot.arm = none) (hloaf : s.loaves = []) (hf : flightsOp .host 0x11 s = [f]) (hh : s.cmd.held = []) :
    jobCloseEnd s = judgeSoft (answer .host f.tag stOk []
      { s with job := none, core := if s.core = .safe then .safe else .idle, plc := { s.plc with front := 0 } }) := by
  have hclosing : closing s = true := by simp [closing, hj, hcl]
  have hdone : (closing s && s.loads.isEmpty && s.mot.arm.isNone && s.loaves.isEmpty) = true := by simp [hclosing, hload, harm, hloaf]
  rw [jobCloseEnd, if_pos hdone]
  exact congrArg judgeSoft (answerAll_one (s := { s with job := none, core := if s.core = .safe then .safe else .idle, plc := { s.plc with front := 0 } }) stOk [] hf hh)

/-- The state that JOB_CLOSE leaves with no loaf running. -/
theorem bodyJobClose_taken {h : Hdr} {j : Job} {s : State} (hj : s.job = some j) (hrun : s.lch.run = none) (hload : s.loads = [])
    (harm : s.mot.arm = none) (hwait : s.pair.armWait = none) (hheld : s.cmd.held = []) (hnone : flightsOp .host 0x11 s = []) :
    bodyJobClose (mkReq .host h 0x11 []) (s.taken (mkReq .host h 0x11 [])) =
      (let t := discardAll (s.taken (mkReq .host h 0x11 []))
       judgeSoft (answer .host h.tag 0x00 []
         { t with job := none, core := if s.core = .safe then .safe else .idle, plc := { t.plc with front := 0 } })) := by
  have hrun' : (s.taken (mkReq .host h 0x11 [])).lch.run = none := hrun
  have hkept := discardAll_loafless hrun'
  have hloaf := discardAll_loaves hrun'
  dsimp only [bodyJobClose]
  generalize discardAll (s.taken (mkReq .host h 0x11 [])) = t at hkept hloaf ⊢
  have hjob : t.job = s.job := show t.loafless.job = s.loafless.job by rw [hkept]; rfl
  have hload' : t.loads = s.loads := show t.loafless.loads = s.loafless.loads by rw [hkept]; rfl
  have hmot : t.mot = s.mot := show t.loafless.mot = s.loafless.mot by rw [hkept]; rfl
  have hwait' : t.pair.armWait = s.pair.armWait := show t.loafless.pair.armWait = s.loafless.pair.armWait by rw [hkept]; rfl
  have hcore : t.core = s.core := show t.loafless.core = s.loafless.core by rw [hkept]; rfl
  have hheld' : t.cmd.held = s.cmd.held := show t.loafless.cmd.held = s.loafless.cmd.held by rw [hkept]; rfl
  have hflight : t.cmd.flight = s.cmd.flight ++ [(mkReq .host h 0x11 []).flight] := by
    show t.loafless.cmd.flight = _
    rw [hkept]; rfl
  rw [endLoads_none_left _ (hload'.trans hload), stopArm_no_arm (by rw [hmot, harm]), hwait', hwait]
  refine (jobCloseEnd_closing (s := { t with job := t.job.map fun j => { j with closing := true } }) (j := { j with closing := true })
    (by show t.job.map _ = _; rw [hjob, hj]; rfl) rfl (hload'.trans hload) (by rw [hmot]; exact harm) hloaf
    (flightsOp_of_flight hflight hnone rfl rfl) (hheld'.trans hheld)).trans ?_
  rw [hcore]
  rfl

/-- Settles O7: each request runs its body in a state where nothing makes it wait. -/
theorem jobOpenAndJobClose : Obligations.JobOpenAndJobClose := by
  unfold Obligations.JobOpenAndJobClose
  exact ⟨fun h w v s hl hs hb hp her hcapt hbist hret hup hon hen hsr hheld hnone =>
      request_outcome hl hs (bodyJobOpen_taken hs hb hp her hcapt hbist hret hup hon hen hsr hheld hnone),
    fun h j s hl hs hj hrun hload harm hwait hheld hnone => ⟨discardAll_loaves hrun,
      request_outcome hl hs (bodyJobClose_taken hj hrun hload harm hwait hheld hnone)⟩⟩

end Sys2Proof.Machine
end

section
/-!
PROOFS. LOAF_ARM, LOAF_START, LOAF_STOP and LOAF_ABORT (R83, R330, R398, R460).
-/
namespace Sys2Proof.Machine

/-! LOAF_ARM (R330). -/

/-- The state that LOAF_ARM of a loaf that can be armed leaves. -/
theorem bodyLoafArm_taken {r : Req} {l : Loaf} {s : State} (hwait : s.cal.waiting = []) (hcapt : s.cal.capt = none)
    (hloaf : s.loaves.head? = some l) (hret : retiredCount s ≤ 4) (haxis : ∀ a, a < 2 → faulted a s = false ∧ (s.axis a).homed = true)
    (hstand : pairStandby s = false) (hrun : softOk 1 (runUp l s) s = true) (hfirst : softOk 1 l.oy.toInt s = true)
    (hlast : softOk 1 (slicePos l.oy.toInt (sigmaOf l) (jobPitch s) (lastSliceOf (jobBeams s) l.rows)) s = true)
    (hfb : fbTooFast s = false) :
    bodyLoafArm r (s.taken r) =
      (let sc := { s.mot.scan with oy := l.oy.toInt, sigma := sigmaOf l, pitch := (jobPitch s : Int), state := .approach }
       let t := beginMove [(0, l.ox.toInt), (1, runUp l s)] .arm { s.taken r with mot := { s.mot with scan := sc } }
       { t with mot := { t.mot with arm := some { tag := r.tag, ends := none, silent := false } } }) := by
  obtain ⟨hx, hxh⟩ := haxis 0 (by omega)
  obtain ⟨hy, hyh⟩ := haxis 1 (by omega)
  have hcal : startCalWaits (s.taken r) = s.taken r := startCalWaits_none_waiting hwait
  have hnone : (s.taken r).cal.waiting.any (CalWait.runs (s.taken r)) = false := by rw [taken_cal, hwait]; rfl
  have hfree : capturing (s.taken r) = false := by rw [capturing, taken_cal, hcapt]; rfl
  have hcur : currentLoaf (s.taken r) = some l := hloaf
  have hlive : ¬4 < retiredCount (s.taken r) := Nat.not_lt.2 hret
  have hready : (faulted 0 (s.taken r) || faulted 1 (s.taken r) || !((s.taken r).axis 0).homed || !((s.taken r).axis 1).homed) = false := by
    rw [taken_axis, taken_axis, hxh, hyh, show faulted 0 (s.taken r) = false from hx, show faulted 1 (s.taken r) = false from hy]; rfl
  have hroom : (!softOk 1 (runUp l (s.taken r)) (s.taken r) || !softOk 1 l.oy.toInt (s.taken r) ||
      !softOk 1 (slicePos l.oy.toInt (sigmaOf l) (jobPitch (s.taken r)) (lastSliceOf (jobBeams (s.taken r)) l.rows)) (s.taken r) ||
      fbTooFast (s.taken r)) = false := by
    rw [show softOk 1 (runUp l (s.taken r)) (s.taken r) = true from hrun, show softOk 1 l.oy.toInt (s.taken r) = true from hfirst,
      show softOk 1 (slicePos l.oy.toInt (sigmaOf l) (jobPitch (s.taken r)) (lastSliceOf (jobBeams (s.taken r)) l.rows)) (s.taken r) = true
        from hlast, show fbTooFast (s.taken r) = false from hfb]; rfl
  dsimp only [bodyLoafArm]
  rw [hcal, hnone, hfree, if_neg (by decide), hcur]
  dsimp only
  rw [if_neg hlive, if_neg (by rw [hready]; decide), if_neg (by rw [hroom]; decide)]
  exact if_neg fun hp => Bool.false_ne_true (hstand.symm.trans hp)

/-- Settles O9: the body finds nothing that refuses the move. -/
theorem loafArmMovesToTheRunUp : Obligations.LoafArmMovesToTheRunUp := by
  unfold Obligations.LoafArmMovesToTheRunUp
  intro h l s hl hs hwait hcapt hloaf hret haxis hstand sg y hrun hfirst hlast hfb
  exact request_outcome hl hs (bodyLoafArm_taken hwait hcapt hloaf hret haxis hstand hrun hfirst hlast hfb)

/-! LOAF_START (R236, R242, R251, R330, R331). -/

theorem foldl_activate (l : List Nat) (s : State) : ∃ m, l.foldl (fun s a => s.activate a) s = { s with active := m } := by
  induction l generalizing s with
  | nil => exact ⟨s.active, rfl⟩
  | cons a r ih => exact ih (s.activate a)

@[simp] theorem inner_storeLive (m : Option (Nat × Nat)) (s : State) : (storeLive m s).inner = s.inner := by
  cases m with
  | none => rfl
  | some x => simp only [storeLive, inner_setFld]

@[simp] theorem inner_setLive (lanes : Nat) (s : State) : (setLive lanes s).inner = s.inner := inner_storeLive _ s

/-- The run of a loaf that starts (R330). -/
def runOf (l : Loaf) (s : State) : Run :=
  { ord := l.ord, id := l.id, last := lastSliceOf (jobBeams s) l.rows, disposed := 0, prevL := none, reached := none, stop := none,
    ended := false, quiet := false }

/-- What LOAF_START puts in place of the slicer's, the launch logic's and the scan's state. -/
def exposing (l : Loaf) (s : State) : State :=
  { s with
    core := .exposing,
    slc := { s.slc with epochs := [{ first := 0, lanes := deadLanesNow s }], deferred := 0, dead := deadLanesNow s,
                        gains := s.cal.beams.gain, deadBeams := s.cal.beams.dead, idle := [], heat := [], lastT := none, next := 0,
                        top := 0, lowDue := [], late := [] },
    lch := { s.lch with slices := [], crossings := [], run := some (runOf l s), cancel := none, word := none, openEnts := [],
                        deadEnts := [], clkLoss := none, paused := none },
    mot := { s.mot with scan := { s.mot.scan with state := .run, prof := (restProf s).1, e := (restProf s).2, stopping := false,
                                                  stopFrom := none, vtgt := 0, bind := 6 } } }

/-- The exposure's registers as LOAF_START sets them. -/
def exposureShown (l : Loaf) (s : State) : State :=
  setLive (deadLanesNow s) ((((exposing l s).setFld F.TB_XERR_MAX 0).setFld F.TB_LAUNCH_STATUS_LAUNCHED 0).setFld F.SLC_STATUS_BUILT 0)

/-- The dead lanes of epoch 0 as LOAF_START journals them. -/
def exposureJournaled (l : Loaf) (s : State) : State :=
  if deadLanesNow s = 0 ∨ pairStandby (exposureShown l s) = true then exposureShown l s
  else commitEnt (rangeRec kLaneDead 0 (runOf l s) 0 0 (deadLanesNow s)) (exposureShown l s)

theorem exposureShown_inner (l : Loaf) (s : State) : (exposureShown l s).inner = (exposing l s).inner := by
  simp only [exposureShown, inner_setLive, inner_setFld]

theorem exposureJournaled_inner (l : Loaf) (s : State) : (exposureJournaled l s).inner = (exposing l s).inner := by
  unfold exposureJournaled
  split
  · exact exposureShown_inner l s
  · exact (inner_commitEnt _ _).trans (exposureShown_inner l s)

theorem pairStandby_of_inner {s t : State} (h : t.inner = s.inner) : pairStandby t = pairStandby s :=
  show pairStandby t.inner = pairStandby s.inner by rw [h]

/-- LOAF_START replies and judges the plate's temperature once the exposure's state stands; the rest is shown, journaled and posted. -/
theorem startExposure_inner {l : Loaf} {s : State} (tag : BitVec 10) (hl : currentLoaf s = some l) (hstand : pairStandby s = false) :
    ∃ m v, startExposure tag s = judgeHard (answer .host tag stOk [] v) ∧ v.inner = (exposing l { s with active := m }).inner := by
  obtain ⟨m, hm⟩ := foldl_activate startShadow s
  have hjournaled := exposureJournaled_inner l { s with active := m }
  have hleads : pairStandby (exposureJournaled l { s with active := m }) = false := (pairStandby_of_inner hjournaled).trans hstand
  refine ⟨m, askSlice l 0 (exposureJournaled l { s with active := m }), ?_, (inner_post _ _).trans hjournaled⟩
  rw [startExposure, hl]
  dsimp only
  rw [hm]
  exact congrArg (fun x => judgeHard (answer .host tag stOk [] (askSlice l 0 x)))
    (if_neg (show ¬pairStandby (exposureJournaled l { s with active := m }) = true by rw [hleads]; decide))

/-- LOAF_START that waits neither for a retraining nor for the partner exposes at once (R214, R460). -/
theorem bodyLoafStart_at_once {r : Req} {s : State} (htrain : retraining s = false) (hstand : pairStandby s = false)
    (harmed : pairOwner s = true → standbyShowsArmed s = true) : bodyLoafStart r s = startExposure r.tag s := by
  have hgo : (pairStandby s || (pairOwner s && !standbyShowsArmed s)) = false := by
    rw [hstand, Bool.false_or]
    cases ho : pairOwner s
    · rfl
    · rw [harmed ho]; rfl
  rw [bodyLoafStart, htrain, if_neg (by decide), startPast, hgo, if_neg (by decide)]

/-- Settles O10: the exposure's state stands in what remains beside the registers, the journal and the posts. -/
theorem loafStartEntersExposing : Obligations.LoafStartEntersExposing := by
  unfold Obligations.LoafStartEntersExposing
  intro h l s hl hs hloaf htrain hstand harmed
  obtain ⟨m, v, hbody, hv⟩ := startExposure_inner (s := s.taken (mkReq .host h 0x14 [])) h.tag hloaf hstand
  have hflight : v.cmd.flight = s.cmd.flight ++ [(mkReq .host h 0x14 []).flight] := by
    show v.inner.cmd.flight = _
    rw [hv]; rfl
  have hu : ((mkReq .host h 0x14 []).reply stOk [] v).inner = (exposing l { s with active := m }).inner := by
    rw [inner_reply_last stOk [] hflight hs.free]
    show ({ v.inner with cmd := { v.inner.cmd with flight := s.cmd.flight } } : State) = _
    rw [hv]
    rfl
  have hrun := (bodyLoafStart_at_once (r := mkReq .host h 0x14 []) (s := s.taken (mkReq .host h 0x14 [])) htrain hstand harmed).trans hbody
  refine ⟨(mkReq .host h 0x14 []).reply stOk [] v, request_outcome hl hs hrun, ?_⟩
  generalize (mkReq .host h 0x14 []).reply stOk [] v = u at hu
  have shown {α : Type} (f : State → α) : f u.inner = f (exposing l { s with active := m }).inner := congrArg f hu
  exact ⟨shown (·.core), shown (·.mot.scan.state), shown (·.mot.scan.e), shown (·.slc.epochs.map (·.first)), shown (·.slc.idle),
    shown (·.slc.heat), shown (·.slc.next), shown (·.lch.slices), shown (·.lch.crossings), shown (·.lch.run), shown (·.cmd.flight),
    shown (·.loaves), shown (·.mot.axes), shown (·.hbm)⟩

/-! LOAF_STOP (R398). -/

/-- The state that LOAF_STOP of an armed loaf leaves. -/
theorem bodyLoafStop_armed {h : Hdr} {s : State} (hfree : inFlight .host h.tag s = false) (hcore : s.core = .armed)
    (hhold : s.mem.startHold = none) (hwait : s.pair.startWait = none) :
    bodyLoafStop (mkReq .host h 0x15 []) (s.taken (mkReq .host h 0x15 [])) =
      sendReply .host h.tag 0x15 0x00 [] (setScan .none { s with core := .job }) := by
  have hcore' : (s.taken (mkReq .host h 0x15 [])).core = .armed := hcore
  simp only [bodyLoafStop, hcore', disarm_armed hcore']
  rw [failStart_no_start (s := setScan .none { s.taken (mkReq .host h 0x15 []) with core := .job }) hhold hwait]
  exact reply_mkReq_taken (s := setScan .none { s with core := .job }) stOk [] hfree

/-- The state that LOAF_STOP of a running loaf leaves. -/
theorem bodyLoafStop_exposing {r : Req} {s : State} (hcore : s.core = .exposing) (hstand : pairStandby s = false) :
    bodyLoafStop r s =
      (let t := stopLoaf cStop false s
       { t with mot := { t.mot with stopReplies := t.mot.stopReplies ++ [(0x00, r.tag)] } }) := by
  simp only [bodyLoafStop, hcore, stopFor, hstand, Bool.false_eq_true, if_false]
  rfl

/-! LOAF_ABORT (R83, R398). -/

/-- What remains when a LOAF_LOAD ends. -/
def State.loadless (s : State) : State := { s.inner with loads := [], cmd := { s.inner.cmd with flight := [] } }

theorem loadless_of_inner {s t : State} (h : t.inner = s.inner) : t.loadless = s.loadless := by
  rw [State.loadless, State.loadless, h]

theorem answer_loadless (p : Port) (tag : BitVec 10) (st : Nat) (w : List Word) (s : State) : (answer p tag st w s).loadless = s.loadless := by
  unfold answer
  split
  · rfl
  · exact (loadless_of_inner (inner_sendReply _ _ _ _ _ _)).trans rfl

theorem loadEnd_loadless (s : State) : (loadEnd s).loadless = s.loadless := by
  unfold loadEnd
  split
  · rfl
  · split
    · rfl
    · exact (answer_loadless _ _ _ _ _).trans rfl

theorem segTaken_loadless (n : Nat) (b : Bool) (s : State) : (segTaken n b s).loadless = s.loadless := by
  unfold segTaken
  split
  · rfl
  · exact (loadEnd_loadless _).trans rfl

theorem dropSegment_loadless (s : State) : (dropSegment s).loadless = s.loadless := by
  unfold dropSegment
  split
  · rfl
  · split
    · rfl
    · exact segTaken_loadless _ _ _
    · rfl

theorem abortSegment_loadless (ord : Nat) (s : State) : (abortSegment ord s).loadless = s.loadless := by
  unfold abortSegment
  split
  · exact dropSegment_loadless s
  · rfl

/-- Nothing of a loaf that has been discarded is left. -/
theorem discardLoaf_none_left (ord : Nat) (s : State) :
    (∀ x ∈ (discardLoaf ord s).loaves, x.ord ≠ ord) ∧ (∀ x ∈ (discardLoaf ord s).rows, x.ord ≠ ord) ∧
      (∀ x ∈ (discardLoaf ord s).plc.tiles, x.ord ≠ ord) ∧ (∀ x ∈ (discardLoaf ord s).prf.rebuilds, x.1 ≠ ord) := by
  have hset := discardLoaf_settles ord s
  refine ⟨fun x hx => (discardLoaf_loaf hx).1, fun x hx => ?_, fun x hx => ?_, fun x hx => ?_⟩
  · have ⟨_, hne⟩ := List.mem_filter.1 (show x ∈ s.rows.filter (·.ord != ord) from hset.rows x hx)
    simpa using hne
  · obtain ⟨y, hy, he⟩ := hset.tile hx
    have ⟨_, hne⟩ := List.mem_filter.1 (show y ∈ s.plc.tiles.filter (·.ord != ord) from hy)
    rw [← he]
    simpa using hne
  · have hp : (discardLoaf ord s).prf = (withoutLoaf ord s).prf :=
      show (discardLoaf ord s).tileless.prf = (withoutLoaf ord s).tileless.prf by rw [hset.rest]
    rw [hp] at hx
    have ⟨_, hne⟩ := List.mem_filter.1 (show x ∈ s.prf.rebuilds.filter (·.1 != ord) from hx)
    simpa using hne

/-- A discarded loaf whose segment in progress is discarded too leaves the core, the motion and the launch logic. -/
theorem abort_kept (ord : Nat) (s : State) :
    (discardLoaf ord (abortSegment ord s)).core = s.core ∧ (discardLoaf ord (abortSegment ord s)).mot = s.mot ∧
      (discardLoaf ord (abortSegment ord s)).pair.armWait = s.pair.armWait := by
  have hd := discardLoaf_loafless ord (abortSegment ord s)
  have ha := abortSegment_loadless ord s
  have discarded {α : Type} (f : State → α) : f (discardLoaf ord (abortSegment ord s)).loafless = f (abortSegment ord s).loafless := congrArg f hd
  have aborted {α : Type} (f : State → α) : f (abortSegment ord s).loadless = f s.loadless := congrArg f ha
  exact ⟨(discarded (·.core)).trans (aborted (·.core)), (discarded (·.mot)).trans (aborted (·.mot)),
    (discarded (·.pair.armWait)).trans (aborted (·.pair.armWait))⟩

/-- LOAF_ABORT of the next loaf. -/
theorem bodyLoafAbort_next {r : Req} {l m : Loaf} {t : List Loaf} {s : State} (hnext : r.fld 1 0 0 = 1) (hl : s.loaves = l :: m :: t) :
    bodyLoafAbort r s = r.reply stOk [] (discardLoaf m.ord (abortSegment m.ord s)) := by
  simp only [bodyLoafAbort, hnext, if_true, hl, List.drop_succ_cons, List.drop_zero]

/-- LOAF_ABORT of the current loaf in JOB with no arm under way. -/
theorem bodyLoafAbort_current {r : Req} {l : Loaf} {t : List Loaf} {s : State} (hcur : r.fld 1 0 0 = 0) (hl : s.loaves = l :: t)
    (hcore : s.core = .job) (hrun : s.lch.run = none) (harm : s.mot.arm = none) (hwait : s.pair.armWait = none) :
    bodyLoafAbort r s = r.reply stOk [] (discardLoaf l.ord (abortSegment l.ord s)) := by
  have aborted {α : Type} (f : State → α) : f (abortSegment l.ord s).loadless = f s.loadless := congrArg f (abortSegment_loadless l.ord s)
  have hrun' : (abortSegment l.ord s).lch.run = none := (aborted (·.lch.run)).trans hrun
  have hcore' : (abortSegment l.ord s).core = .job := (aborted (·.core)).trans hcore
  obtain ⟨-, hmot, hpair⟩ := abort_kept l.ord s
  have hloaf : currentLoaf s = some l := by rw [currentLoaf, hl]; rfl
  rw [bodyLoafAbort, if_neg (by rw [hcur]; decide), hloaf]
  dsimp only
  rw [hrun', if_neg (by decide), hcore']
  dsimp only
  rw [stopArm_no_arm (by rw [hmot, harm]), hpair, hwait]
  rfl

/-- Settles O11: each request runs its body in the state and with the loaf that it names. -/
theorem loafStopAndAbort : Obligations.LoafStopAndAbort := by
  unfold Obligations.LoafStopAndAbort
  refine ⟨fun h s hl hs hcore hhold hwait => request_outcome hl hs (bodyLoafStop_armed hs.free hcore hhold hwait),
    fun h s hl hs hcore hstand => request_outcome hl hs (bodyLoafStop_exposing (s := s.taken _) hcore hstand),
    fun h w l m r s hl hs hloaf hnext hload => ⟨discardLoaf m.ord (abortSegment m.ord (s.taken (mkReq .host h 0x16 [w]))),
      request_outcome hl hs (bodyLoafAbort_next (s := s.taken _) hnext hloaf), ?_⟩,
    fun h w l r s hl hs hloaf hcur hcore hrun harm hwait => ⟨discardLoaf l.ord (abortSegment l.ord (s.taken (mkReq .host h 0x16 [w]))),
      request_outcome hl hs (bodyLoafAbort_current (s := s.taken _) hcur hloaf hcore hrun harm hwait), ?_⟩⟩
  · obtain ⟨h1, h2, h3, h4⟩ := discardLoaf_none_left m.ord (abortSegment m.ord (s.taken (mkReq .host h 0x16 [w])))
    obtain ⟨hcore, hmot, -⟩ := abort_kept m.ord (s.taken (mkReq .host h 0x16 [w]))
    exact ⟨h1, h2, h3, h4, rfl, hcore, hmot⟩
  · obtain ⟨h1, h2, h3, h4⟩ := discardLoaf_none_left l.ord (abortSegment l.ord (s.taken (mkReq .host h 0x16 [w])))
    obtain ⟨hcore, hmot, -⟩ := abort_kept l.ord (s.taken (mkReq .host h 0x16 [w]))
    exact ⟨h1, h2, h3, h4, rfl, hcore, hmot⟩

end Sys2Proof.Machine
end

section
/-!
PROOFS. The dough loader (R46, R47, R79, R80, R397).
-/
namespace Sys2Proof.Machine

/-- LOAF_LOAD joins the loader's order. -/
theorem bodyLoafLoad_joins {r : Req} {s : State} (hclose : closing s = false) (hlist : r.fld 1 7 0 ≠ 0)
    (hext : ∀ x ∈ extents (r.w.drop 1), x.2 ≠ 0) :
    bodyLoafLoad r s = { s with
      loads := s.loads ++ [{ tag := r.tag, exts := extents (r.w.drop 1), left := ((extents (r.w.drop 1)).map (·.2)).sum, taken := 0,
                             first := true, checkFail := false, fault := none, seg := none, drop := false }] } := by
  have hbad : ¬(r.fld 1 7 0 = 0 ∨ ((extents (r.w.drop 1)).any fun x => x.2 == 0) = true) := by
    rintro (h | h)
    · exact hlist h
    · obtain ⟨x, hx, h0⟩ := List.any_eq_true.1 h
      exact hext x hx (by simpa using h0)
  simp only [bodyLoafLoad, hclose, Bool.false_eq_true, if_false, hbad]

/-- A command with no byte left replies with what it has taken. -/
theorem loadEnd_none_left {ld : Load} {r : List Load} {s : State} (hs : s.loads = ld :: r) (h : ld.left = 0) :
    loadEnd s = answer .host ld.tag (ld.fault.getD (if ld.checkFail then stCheckFail else stOk)) [BitVec.ofNat 36 ld.taken]
      { s with loads := r } := by
  simp [loadEnd, hs, h]

/-- A read that fails before any byte has come ends its command. -/
theorem exec_hostMemoryReadFault_nil {timeout : Bool} {ld : Load} {r : List Load} {s : State} (hl : s.live) (hs : s.loads = ld :: r)
    (hf : ld.fault = none) :
    exec (.hostMemoryReadFault [] timeout) s = .next (finish s (answer .host ld.tag (if timeout then 0x0A else 0x07)
      [BitVec.ofNat 36 ld.taken] { s with loads := r })) := by
  refine done_outcome hl ?_
  rw [hs]
  dsimp only
  rw [hf, if_neg (by decide), List.take_nil]
  exact loadEnd_none_left (s := { s with loads := { ld with left := 0, fault := some (if timeout then stTimeout else stCheckFail) } :: r })
    rfl rfl

/-! A row's tiles enter a slot: the loader's order stays. -/

@[simp] theorem recordDgh_loads (e : DErr) (row word : Nat) (col : Option Nat) (s : State) : (recordDgh e row word col s).loads = s.loads := by
  unfold recordDgh
  split
  · rfl
  · simp only [setFld_loads]

theorem flagBadTiles_loads (row c : Nat) (l : List TileRec) (s : State) : (flagBadTiles row c l s).loads = s.loads := by
  induction l generalizing c s with
  | nil => rfl
  | cons t r ih =>
    unfold flagBadTiles
    split
    · rw [ih, raise_loads, recordDgh_loads]
    · exact ih _ _

theorem Settles.loads {s t : State} (h : Settles s t) : t.loads = s.loads := show t.tileless.loads = s.tileless.loads by rw [h.rest]

theorem post_loads (l : List TxnPost) (s : State) : (post l s).loads = s.loads := show (post l s).inner.loads = s.inner.loads by rw [inner_post]

theorem takeRow_loads (l : Loaf) (slot : Nat) (x : RowRec) (s : State) : (takeRow l slot x s).loads = s.loads := by
  rw [takeRow, (settles_settleTiles _).loads, flagBadTiles_loads]
  exact post_loads _ _

/-! One segment. -/

/-- The state that a segment of `n` bytes of the command at work leaves, from what its handling answers. -/
def segOutcome (n : Nat) (ld : Load) (r : List Load) (s : State) : SegEnd × State → State
  | (.held, _) => segRead n true s
  | (.busy, t) => answer .host ld.tag stBusy [BitVec.ofNat 36 n] { t with loads := r }
  | (.taken cf, t) => segTaken n cf t

/-- A whole segment that decompresses is handled. -/
theorem loadSegment_whole {data : List Byte} {ld : Load} {r : List Load} {s : State} (hs : s.loads = ld :: r)
    (herr : (inflate [] (data.take ld.left)).err = none) (hdrop : ld.drop = false) :
    (loadSegment data s).2 = segOutcome (ceilDiv (inflate [] (data.take ld.left)).used 8) ld r s
      (doSegment ld.first (streamOf (inflate [] (data.take ld.left))) s) := by
  have hwhole : ¬((inflate [] (data.take ld.left)).err = some .short ∧ (data.take ld.left).length < ld.left) := fun h => by
    rw [herr] at h; exact nomatch h.1
  have hused : (if (inflate [] (data.take ld.left)).err.isSome then ld.left else ceilDiv (inflate [] (data.take ld.left)).used 8) =
      ceilDiv (inflate [] (data.take ld.left)).used 8 := by rw [herr]; rfl
  unfold loadSegment
  rw [hs]
  dsimp only
  rw [if_neg hwhole, hused, takeSegment, hdrop, if_neg (by decide)]
  rcases doSegment ld.first (streamOf (inflate [] (data.take ld.left))) s with ⟨e, t⟩
  cases e <;> rfl

/-- The loader counts the bytes of a sound segment that it takes and ends the command with its last byte. -/
theorem segTaken_sound {n : Nat} {ld : Load} {r : List Load} {t : State} (ht : t.loads = ld :: r) :
    segTaken n false t = loadEnd { t.setFld F.DGH_BYTES_IN_BYTES (t.fld F.DGH_BYTES_IN_BYTES + n) with
       loads := { ld with left := ld.left - n, taken := ld.taken + n, first := false, seg := none, drop := false } :: r } := by
  unfold segTaken
  rw [ht]
  simp only [Bool.or_false]

theorem doSegment_header {st : Stream} {hd : LoafHdr} {s : State} (hh : st.isHeader = true) (ho : canOpen s = true)
    (hc : checkHeader st = .ok hd) : doSegment true st s = (.taken false, openLoaf hd s) := by
  simp [doSegment, hh, ho, hc]

/-- What a sound row does, by the slot that is free for it. -/
def rowSegment (l : Loaf) (x : RowRec) (s : State) : Option Nat → SegEnd × State
  | none => (.held, s)
  | some i => (.taken false, takeRow l i x s)

theorem doSegment_row {first : Bool} {st : Stream} {l : Loaf} {x : RowRec} {s : State} (hh : st.isHeader = false)
    (hl : loadingLoaf s = some l) (hn : l.nextRow < l.rows) (hc : checkRow st l.nextRow = .ok x) :
    doSegment first st s = rowSegment l x s (freeSlot s) := by
  rw [doSegment, hh, if_neg (by decide), hl]
  dsimp only
  rw [if_neg (Nat.not_le.2 hn), hc]
  cases freeSlot s <;> rfl

theorem openLoaf_loads (hd : LoafHdr) (s : State) : (openLoaf hd s).loads = s.loads := rfl

/-- Settles O8: the loader's order after a request, a failed read, and a whole segment of each kind. -/
theorem loafLoadTakesItsSegments : Obligations.LoafLoadTakesItsSegments := by
  unfold Obligations.LoafLoadTakesItsSegments
  refine ⟨fun h w s hl hs hclose hlist hext => request_outcome hl hs (bodyLoafLoad_joins (s := s.taken _) hclose hlist hext),
    fun timeout ld r s hl hs hf => exec_hostMemoryReadFault_nil hl hs hf, fun data ld r s hl hs => ?_⟩
  intro x st n after herr hdrop
  refine ⟨fun hd hh hfirst ho hc => done_outcome hl ?_, fun l row hh hload hn hc => done_outcome hl ?_⟩
  · rw [loadSegment_whole hs herr hdrop, hfirst, doSegment_header hh ho hc]
    exact segTaken_sound ((openLoaf_loads hd s).trans hs)
  · rw [loadSegment_whole hs herr hdrop, doSegment_row hh hload hn hc]
    cases freeSlot s with
    | none => simp only [rowSegment, segOutcome, segRead, hs]; rfl
    | some i => exact segTaken_sound ((takeRow_loads l i row s).trans hs)

end Sys2Proof.Machine
end

section
/-!
PROOFS. MOVE, HOME and STOP_AXIS (R313 to R315, R321 to R324).
-/
namespace Sys2Proof.Machine

/-! A move begins alike with a command in flight. -/

theorem foldl_taken {α : Type} {f : State → α → State} (r : Req) (hf : ∀ s x, f (s.taken r) x = (f s x).taken r) (l : List α) (s : State) :
    l.foldl f (s.taken r) = (l.foldl f s).taken r := by
  induction l generalizing s with
  | nil => rfl
  | cons x t ih => rw [List.foldl_cons, List.foldl_cons, hf, ih]

theorem raise_taken (f : Fld) (s : State) (r : Req) : raise f (s.taken r) = (raise f s).taken r := by
  unfold raise State.mark
  split <;> rfl

theorem raiseIf_taken (b : Bool) (f : Fld) (s : State) (r : Req) : raiseIf b f (s.taken r) = (raiseIf b f s).taken r := by
  cases b
  · rfl
  · exact raise_taken f s r

theorem endMove_taken (m : Mv) (s : State) (r : Req) : endMove m (s.taken r) = (endMove m s).taken r := by
  unfold endMove
  rw [foldl_taken r fun _ _ => rfl]
  rfl

theorem homeNext_taken (s : State) (r : Req) : homeNext (s.taken r) = (homeNext s).taken r := by
  unfold homeNext
  rw [taken_mot]
  split
  · rfl
  · split <;> rfl

theorem movesOf_taken (ax : List Nat) (s : State) (r : Req) : movesOf ax (s.taken r) = movesOf ax s := rfl
theorem stopMv_taken (t : Rat) (m : Mv) (s : State) (r : Req) : stopMv (s.taken r) t m = stopMv s t m := rfl
theorem planOf_taken (a : Nat) (t : Rat) (s : State) (r : Req) : planOf a t (s.taken r) = planOf a t s := rfl
theorem mkMove_taken (t : Rat) (tg : List (Nat × Rat × Rat)) (k : MoveKind) (s : State) (r : Req) :
    mkMove (s.taken r) t tg k = mkMove s t tg k := rfl
theorem frameTick_taken (s : State) (r : Req) : frameTick (s.taken r) = frameTick s := rfl
theorem nowRat_taken (s : State) (r : Req) : (s.taken r).nowRat = s.nowRat := rfl

theorem unsettle_taken (ax : List Nat) (s : State) (r : Req) : unsettle ax (s.taken r) = (unsettle ax s).taken r :=
  foldl_taken r (fun _ _ => rfl) ax s

theorem beginMove_taken (tg : List (Nat × Int)) (k : MoveKind) (s : State) (r : Req) :
    beginMove tg k (s.taken r) = (beginMove tg k s).taken r := by
  unfold beginMove
  dsimp only
  rw [foldl_taken r fun s m => endMove_taken m s r, foldl_taken r ?_, raiseIf_taken]
  · simp only [movesOf_taken, stopMv_taken, planOf_taken, mkMove_taken, frameTick_taken, nowRat_taken, taken_mot]
    rw [← unsettle_taken]
    rfl
  · exact fun s x => foldl_taken r (fun _ _ => rfl) _ s

/-! What a move leaves. -/

theorem foldl_same {α β : Type} {f : State → α → State} (g : State → β) (hf : ∀ s x, g (f s x) = g s) (l : List α) (s : State) :
    g (l.foldl f s) = g s := by
  induction l generalizing s with
  | nil => rfl
  | cons x t ih => exact (ih _).trans (hf s x)

/-- What remains when moves begin and end. -/
def State.motionless (s : State) : State := { s.inner with mot := { s.mot with axes := [], moves := [] } }

theorem motionless_of_inner {s t : State} (h : t.inner = s.inner) : t.motionless = s.motionless := by
  have hm : t.mot = s.mot := show t.inner.mot = s.inner.mot by rw [h]
  rw [State.motionless, State.motionless, h, hm]

theorem endMove_motionless (m : Mv) (s : State) : (endMove m s).motionless = s.motionless :=
  foldl_same (f := fun s (e : Nat × Rat) => s.updAxis e.1 fun x => { x with rest := e.2 }) State.motionless (fun _ _ => rfl) m.ends s

theorem unsettle_motionless (ax : List Nat) (s : State) : (unsettle ax s).motionless = s.motionless :=
  foldl_same (f := fun s a => s.updAxis a fun x => { x with settleRun := 0 }) State.motionless (fun _ _ => rfl) ax s

theorem beginMove_motionless (tg : List (Nat × Int)) (k : MoveKind) (s : State) : (beginMove tg k s).motionless = s.motionless := by
  unfold beginMove
  dsimp only
  refine (unsettle_motionless _ _).trans ?_
  refine Eq.trans (b := State.motionless (raiseIf _ F.MOT_EVT_REVERSE _)) rfl ?_
  rw [motionless_of_inner (inner_raiseIf _ _ _), foldl_same State.motionless ?_, foldl_same State.motionless fun s m => endMove_motionless m s]
  · exact fun s x => foldl_same (f := fun s (e : Nat × Rat) => s.setReg (A.MOT_AX_STOPPT e.1) (BitVec.ofInt 36 (ratRound e.2)))
      State.motionless (fun _ _ => rfl) _ s

theorem beginMove_flight (tg : List (Nat × Int)) (k : MoveKind) (s : State) : (beginMove tg k s).cmd.flight = s.cmd.flight :=
  show (beginMove tg k s).motionless.cmd.flight = s.motionless.cmd.flight by rw [beginMove_motionless]

theorem beginMove_arm (tg : List (Nat × Int)) (k : MoveKind) (s : State) : (beginMove tg k s).mot.arm = s.mot.arm :=
  show (beginMove tg k s).motionless.mot.arm = s.motionless.mot.arm by rw [beginMove_motionless]

theorem inFlight_of_flight {s t : State} (p : Port) (tag : BitVec 10) (h : t.cmd.flight = s.cmd.flight) : inFlight p tag t = inFlight p tag s := by
  simp only [inFlight, h]

theorem armReplaced_no_arm {s : State} (h : s.mot.arm = none) : armReplaced s = s := by
  simp [armReplaced, armBroken_no_arm h, h]

/-! The three requests. -/

theorem loafActive_false {s : State} (h : s.core ≠ .armed) (h' : s.core ≠ .exposing) : loafActive s = false := by
  simp [loafActive, h, h']

/-- A MOVE whose axes are homed, free and within their limits begins and replies. -/
theorem bodyMove_begins {r : Req} {s : State} (hint : s.pins.interlock = false) (hax : namedAxes r ≠ []) (hstand : pairStandby s = false)
    (harm : s.core ≠ .armed) (hexp : s.core ≠ .exposing)
    (hready : ∀ a ∈ namedAxes r, faulted a s = false ∧ homing a s = false ∧ (s.axis a).homed = true ∧ stopping a s = false)
    (hgoal : ∀ x ∈ moveTargets r, softOk x.1 x.2 s = true ∧ beyondLimit x s = false) (hno : s.mot.arm = none) :
    bodyMove r s = r.reply stOk [] (beginMove (moveTargets r) .plain s) := by
  have hhomed : ((namedAxes r).any fun a => faulted a s || homing a s || !(s.axis a).homed) = false :=
    List.any_eq_false.2 fun a ha => by
      obtain ⟨h1, h2, h3, -⟩ := hready a ha
      simp [h1, h2, h3]
  have hfree : ((namedAxes r).any fun a => stopping a s) = false :=
    List.any_eq_false.2 fun a ha => by
      obtain ⟨-, -, -, h4⟩ := hready a ha
      simp [h4]
  have hwithin : ((moveTargets r).any fun x => !softOk x.1 x.2 s || beyondLimit x s) = false :=
    List.any_eq_false.2 fun x hx => by
      obtain ⟨h1, h2⟩ := hgoal x hx
      simp [h1, h2]
  have hsome : (namedAxes r).isEmpty = false := by simpa using hax
  simp only [bodyMove, hint, hsome, hstand, loafActive_false harm hexp, hhomed, hfree, hwithin, Bool.false_and, Bool.or_self,
    Bool.false_eq_true, if_false]
  rw [armReplaced_no_arm ((beginMove_arm _ _ s).trans hno)]

/-- A HOME with no move under way begins with the first axis that it names. -/
theorem bodyHome_begins {r : Req} {s : State} (hax : namedAxes r ≠ []) (hstand : pairStandby s = false) (harm : s.core ≠ .armed)
    (hexp : s.core ≠ .exposing) (hhome : s.mot.home = none) (hno : s.mot.arm = none) (hmoves : s.mot.moves = [])
    (hready : ∀ a ∈ namedAxes r, faulted a s = false ∧ moving a s = false ∧ stopping a s = false) :
    bodyHome r s = r.reply stOk []
      (homeNext
        (let t := (namedAxes r).foldl (fun t a => t.updAxis a fun x => { x with homing := true }) s
         { t with mot := { t.mot with home := some { axes := namedAxes r, named := namedAxes r, step := 0, aborting := false } } })) := by
  have hnone : ∀ ax, movesOf ax s = [] := fun ax => by simp [movesOf, hmoves]
  have hfree : ((namedAxes r).any fun a => faulted a s || moving a s || stopping a s || !settling a s) = false :=
    List.any_eq_false.2 fun a ha => by
      obtain ⟨h1, h2, h3⟩ := hready a ha
      simp [h1, h2, h3, settling, hnone]
  have hsome : (namedAxes r).isEmpty = false := by simpa using hax
  have hidle : s.mot.home.isSome = false := by rw [hhome]; rfl
  have hkept : ((namedAxes r).foldl (fun t a => t.updAxis a fun x => { x with homing := true }) s).mot.arm = none :=
    (foldl_same (f := fun t a => t.updAxis a fun x => { x with homing := true }) (·.mot.arm) (fun _ _ => rfl) _ s).trans hno
  simp only [bodyHome, hsome, hstand, loafActive_false harm hexp, hidle, hfree, Bool.or_self, Bool.false_eq_true, if_false, hnone,
    List.foldl_nil]
  rw [armReplaced_no_arm hkept]

/-- A STOP_AXIS with no homing and no LOAF_ARM under way stops the moves of its axes and replies. -/
theorem bodyStopAxis_stops {r : Req} {s : State} (hax : namedAxes r ≠ []) (hstand : pairStandby s = false) (hhome : s.mot.home = none)
    (hno : s.mot.arm = none) (hexp : s.core ≠ .exposing) :
    bodyStopAxis r s = r.reply stOk [] (stopMovesIf (fun a => (namedAxes r).contains a) s) := by
  have habort : (namedAxes r).foldl (fun s a => abortHomeOf a s) s = s := by
    induction namedAxes r with
    | nil => rfl
    | cons a t ih => rw [List.foldl_cons, abortHomeOf_no_home a hhome, ih]
  have hsome : (namedAxes r).isEmpty = false := by simpa using hax
  have hquiet : (s.core == .exposing) = false := by simpa using hexp
  simp only [bodyStopAxis, hsome, hstand, habort, hquiet, Bool.false_and, Bool.false_eq_true, if_false]
  rw [armBroken_no_arm (s := stopMovesIf (fun a => (namedAxes r).contains a) s) hno]

theorem homeNext_flight (s : State) : (homeNext s).cmd.flight = s.cmd.flight := by
  unfold homeNext
  split
  · rfl
  · split <;> rfl

/-- The axes of a HOME are named, and it begins. -/
def homeBegun (ax : List Nat) (s : State) : State :=
  let t := ax.foldl (fun t a => t.updAxis a fun x => { x with homing := true }) s
  homeNext { t with mot := { t.mot with home := some { axes := ax, named := ax, step := 0, aborting := false } } }

theorem homeBegun_flight (ax : List Nat) (s : State) : (homeBegun ax s).cmd.flight = s.cmd.flight :=
  (homeNext_flight _).trans (foldl_same (f := fun t a => t.updAxis a fun x => { x with homing := true }) (·.cmd.flight) (fun _ _ => rfl) ax s)

theorem homeBegun_taken (ax : List Nat) (s : State) (r : Req) : homeBegun ax (s.taken r) = (homeBegun ax s).taken r := by
  unfold homeBegun
  rw [foldl_taken r fun _ _ => rfl, ← homeNext_taken]
  rfl

/-- Settles O12: each request's body begins or stops its moves, alike with the command in flight, and replies. -/
theorem motionCommandsBegin : Obligations.MotionCommandsBegin := by
  unfold Obligations.MotionCommandsBegin
  refine ⟨fun h w v s hl hs hint hax hstand harm hexp hready hgoal hno => request_outcome hl hs ?_,
    fun h w s hl hs hax hstand harm hexp hhome hno hmoves hready => request_outcome hl hs ?_,
    fun h w s hl hs hax hstand hhome hno hexp => request_outcome hl hs ?_⟩
  · refine (bodyMove_begins (r := mkReq .host h 0x30 (w :: v)) (s := s.taken (mkReq .host h 0x30 (w :: v))) hint hax hstand harm hexp hready hgoal hno).trans ?_
    refine (congrArg (Req.reply _ stOk []) (beginMove_taken (moveTargets (mkReq .host h 0x30 (w :: v))) .plain s _)).trans ?_
    exact reply_mkReq_taken stOk [] ((inFlight_of_flight _ _ (beginMove_flight _ _ s)).trans hs.free)
  · refine (bodyHome_begins (r := mkReq .host h 0x31 [w]) (s := s.taken (mkReq .host h 0x31 [w])) hax hstand harm hexp hhome hno hmoves hready).trans ?_
    refine (congrArg (Req.reply _ stOk []) (homeBegun_taken (namedAxes (mkReq .host h 0x31 [w])) s _)).trans ?_
    exact reply_mkReq_taken stOk [] ((inFlight_of_flight _ _ (homeBegun_flight _ s)).trans hs.free)
  · refine (bodyStopAxis_stops (r := mkReq .host h 0x32 [w]) (s := s.taken (mkReq .host h 0x32 [w])) hax hstand hhome hno hexp).trans ?_
    exact reply_mkReq_taken (s := stopMovesIf (fun a => (bitsSet 4 (wbits w 3 0)).contains a) s) stOk [] hs.free

end Sys2Proof.Machine
end

section
/-!
PROOFS. Calibration and flash commands: CAL_CAPTURE, CAL_APPLY, NVM_STORE and NVM_LOAD (R422, R428, R434 to R444, R448, R525).
-/
namespace Sys2Proof.Machine

/-! The KIND of a capture's row (R434). -/

theorem calKind_setBits (p : Port) (h : Hdr) (op k : Nat) (w : Word) (hk : k < 256) : (mkReq p h op [setBits w 7 0 k]).calKind = k := by
  show wbits (setBits w 7 0 k) 7 0 = k
  rw [wbits_setBits_same w 7 0 k (by omega) (by omega)]
  exact Nat.mod_eq_of_lt hk

theorem f_setBits (p : Port) (h : Hdr) (op k : Nat) (w : Word) : (mkReq p h op [setBits w 7 0 k]).fld 1 15 8 = wbits w 15 8 := by
  show wbits (setBits w 7 0 k) 15 8 = wbits w 15 8
  exact wbits_setBits_other w (by omega) (Or.inl (by omega))

/-- A capture takes no reading of HOLDUP_SENSE. -/
theorem bodyCal_not_store {r : Req} {s : State} (h : r.op ≠ 0x42) : bodyCal r s = bodyCalSense 0 r s := by
  simp [bodyCal, drawSense, h]

/-- A calibration command whose parameters are legal, which nothing refuses, and whose CORE_STATE is right, runs. -/
theorem bodyCalSense_runs {r : Req} {s : State} {n : Nat} (hp : calParam r.op r.calKind (r.fld 1 15 8) = true)
    (hint : ¬(r.op = 0x40 ∧ r.calKind = 0x03 ∧ s.pins.interlock = true)) (hheld : ¬(r.op = 0x40 ∧ captureHeld r.calKind s = true))
    (hcore : calRuns r.op r.calKind s.core = true) :
    bodyCalSense n r s = runCal r.port r.tag r.op r.calKind (r.fld 1 15 8) n s := by
  rw [bodyCalSense]
  dsimp only
  rw [hp, if_neg (by decide), if_neg hint, if_neg hheld, if_pos hcore]

/-- A capture that finds the camera or the receivers taken is answered BUSY (log 82). -/
theorem bodyCalSense_held {r : Req} {s : State} {n : Nat} (hp : calParam r.op r.calKind (r.fld 1 15 8) = true)
    (hint : ¬(r.op = 0x40 ∧ r.calKind = 0x03 ∧ s.pins.interlock = true)) (hheld : r.op = 0x40 ∧ captureHeld r.calKind s = true) :
    bodyCalSense n r s = refuse r stBusy s := by
  rw [bodyCalSense]
  dsimp only
  rw [hp, if_neg (by decide), if_neg hint, if_pos hheld]

/-! CAL_CAPTURE (R422, R428, R435). -/

/-- The parameters of a capture of DARK, FLAT or BEAMS with a legal F. -/
theorem capture_param {k f : Nat} (hk : k = 0x01 ∨ k = 0x02 ∨ k = 0x03) (hf : 1 ≤ f) (hf' : f ≤ 64) : calParam 0x40 k f = true := by
  simp [calParam, hk, hf, hf']

section
variable {p : Port} {h : Hdr} {w : Word} {k : Nat} {s : State} (hs : Starts (mkReq p h 0x40 [setBits w 7 0 k]) s)
  (hk : k = 0x01 ∨ k = 0x02 ∨ k = 0x03) (hint : k = 0x03 → s.pins.interlock = false) (hf : 1 ≤ wbits w 15 8) (hf' : wbits w 15 8 ≤ 64)
include hs hk hint hf hf'

theorem capture_busy (hheld : captureHeld k s = true) :
    bodyCal (mkReq p h 0x40 [setBits w 7 0 k]) (s.taken (mkReq p h 0x40 [setBits w 7 0 k])) =
      answerNow (mkReq p h 0x40 [setBits w 7 0 k]) 0x01 s := by
  have hk256 : k < 256 := by omega
  rw [bodyCal_not_store (by simp), bodyCalSense_held]
  · exact refuse_taken stBusy hs.free
  · rw [calKind_setBits _ _ _ _ _ hk256, f_setBits]
    exact capture_param hk hf hf'
  · rw [calKind_setBits _ _ _ _ _ hk256]
    exact fun hx => Bool.false_ne_true ((hint hx.2.1).symm.trans hx.2.2)
  · rw [calKind_setBits _ _ _ _ _ hk256]
    exact ⟨rfl, hheld⟩

theorem capture_starts (hcore : s.core = .idle ∨ s.core = .job) (hon : s.pwr.clOn = 64) (hheld : captureHeld k s = false) :
    bodyCal (mkReq p h 0x40 [setBits w 7 0 k]) (s.taken (mkReq p h 0x40 [setBits w 7 0 k])) =
      (let c0 : Capt := { port := p, tag := h.tag, kind := k, want := wbits w 15 8, tried := 0, good := 0, first := none, seq := 0, sums := [],
                          spots := [], raised := k != 0x03 && !s.cal.trig, await := true, slice := 0, shots := 0, disc := false, lastQ := none }
       { s.taken (mkReq p h 0x40 [setBits w 7 0 k]) with cal := { s.cal with capt := some c0, trig := s.cal.trig || k != 0x03 } }) := by
  have hk256 : k < 256 := by omega
  have hkind := calKind_setBits p h 0x40 k w hk256
  rw [bodyCal_not_store (by simp), bodyCalSense_runs]
  · rw [hkind, f_setBits]
    have hrx : k ≠ 0x11 := by omega
    have hosc : k ≠ 0x14 := by omega
    simp only [mkReq_op, mkReq_port, mkReq_tag, runCal, if_true, hrx, hosc, if_false, startCapt, wakeCore_on (s := s.taken _) hon]
    rfl
  · rw [hkind, f_setBits]
    exact capture_param hk hf hf'
  · rw [hkind]
    exact fun hx => Bool.false_ne_true ((hint hx.2.1).symm.trans hx.2.2)
  · rw [hkind]
    exact fun hx => Bool.false_ne_true (hheld.symm.trans hx.2)
  · rw [hkind]
    rcases hcore with hc | hc <;> rcases hk with rfl | rfl | rfl <;> simp [calRuns, hc]

end

/-- A capture of RX_OFF begins at its first receiver. -/
theorem bodyCal_rxOff {p : Port} {h : Hdr} {w : Word} {s : State} (hf : wbits w 15 8 = 0) (hcore : s.core = .idle)
    (hheld : captureHeld 0x11 s = false) :
    bodyCal (mkReq p h 0x40 [setBits w 7 0 0x11]) s = { s with cal := { s.cal with rxoff := some (p, h.tag, 0) } } := by
  have hkind := calKind_setBits p h 0x40 0x11 w (by omega)
  rw [bodyCal_not_store (by simp), bodyCalSense_runs]
  · rw [hkind]
    rfl
  · rw [hkind, f_setBits, hf]
    rfl
  · rw [hkind]
    exact fun hx => absurd hx.2.1 (by decide)
  · rw [hkind]
    exact fun hx => Bool.false_ne_true (hheld.symm.trans hx.2)
  · rw [hkind, hcore]
    rfl

/-- A capture of OSC copies TUNE to CENTRE while LOCKED. -/
theorem bodyCal_osc {p : Port} {h : Hdr} {w : Word} {s : State} (hf : wbits w 15 8 = 0)
    (hcore : s.core = .idle ∨ s.core = .job ∨ s.core = .armed) (hlock : s.bit F.TB_PTP_STATUS_LOCKED = true) :
    bodyCal (mkReq p h 0x40 [setBits w 7 0 0x14]) s =
      (mkReq p h 0x40 [setBits w 7 0 0x14]).reply stOk [] (s.setFld F.TB_VCXO_CENTRE (s.fld F.TB_VCXO_TUNE)) := by
  have hkind := calKind_setBits p h 0x40 0x14 w (by omega)
  rw [bodyCal_not_store (by simp), bodyCalSense_runs]
  · rw [hkind]
    exact if_pos hlock
  · rw [hkind, f_setBits, hf]
    rfl
  · rw [hkind]
    exact fun hx => absurd hx.2.1 (by decide)
  · rw [hkind]
    exact fun hx => absurd hx.2 (by simp [captureHeld])
  · rw [hkind]
    rcases hcore with hc | hc | hc <;> rw [hc] <;> rfl

/-! CAL_APPLY (R434, R435). -/

/-- CAL_APPLY of a KIND it takes runs at once after the boot and out of RECOVERY. -/
theorem bodyCal_apply {p : Port} {h : Hdr} {w : Word} {s : State} (hk : wbits w 7 0 = 0x01 ∨ wbits w 7 0 = 0x02 ∨ wbits w 7 0 = 0x03)
    (hboot : s.core ≠ .boot) (hrec : s.core ≠ .recovery) :
    bodyCal (mkReq p h 0x41 [w]) s = applyCand p h.tag (wbits w 7 0) s := by
  have hkind : (mkReq p h 0x41 [w]).calKind = wbits w 7 0 := rfl
  rw [bodyCal_not_store (by simp), bodyCalSense_runs]
  · rfl
  · exact decide_eq_true hk
  · exact fun hx => absurd hx.1 (by simp)
  · exact fun hx => absurd hx.1 (by simp)
  · cases hc : s.core
    case boot => exact absurd hc hboot
    case recovery => exact absurd hc hrec
    all_goals rfl

/-- Settles O13: each row's KIND, its parameters and the state decide what its body does. -/
theorem capturesBeginAndCandidatesApply : Obligations.CapturesBeginAndCandidatesApply := by
  unfold Obligations.CapturesBeginAndCandidatesApply
  refine ⟨fun p h w k c s hl hkind hs hf hf' hcore hon => ?_, fun p h w s hl hs hf hcore hheld => ?_, fun p h w s hl hs hf hcore hlock => ?_,
    fun p h w s hl hs hrec => ?_⟩
  · have hk : k = 0x01 ∨ k = 0x02 ∨ k = 0x03 := by
      rcases hkind with ⟨hk, -⟩ | ⟨hk, -⟩ | ⟨hk, -⟩ <;> simp [hk]
    have hint : k = 0x03 → s.pins.interlock = false := by
      rcases hkind with ⟨rfl, -⟩ | ⟨rfl, -⟩ | ⟨-, -, hint⟩
      · exact fun hk => absurd hk (by decide)
      · exact fun hk => absurd hk (by decide)
      · exact fun _ => hint
    have hexec : exec c s = done s (takeReq bodyCal (mkReq p h 0x40 [setBits w 7 0 k]) s) := by
      rcases hkind with ⟨rfl, rfl⟩ | ⟨rfl, rfl⟩ | ⟨rfl, rfl, -⟩ <;> rfl
    rw [hexec]
    exact ⟨fun hheld => request_outcome hl hs (capture_busy hs hk hint hf hf' hheld),
      fun hheld => request_outcome hl hs (capture_starts hs hk hint hf hf' hcore hon hheld)⟩
  · exact request_outcome hl hs (bodyCal_rxOff (s := s.taken (mkReq p h 0x40 [setBits w 7 0 0x11])) hf hcore hheld)
  · refine request_outcome hl hs ((bodyCal_osc (s := s.taken (mkReq p h 0x40 [setBits w 7 0 0x14])) hf hcore hlock).trans ?_)
    exact reply_mkReq_taken (s := s.setFld F.TB_VCXO_CENTRE (s.fld F.TB_VCXO_TUNE)) stOk [] hs.free
  · have ⟨_, _, hfree, hboot, _⟩ := hs
    have run {t : State} (hk : wbits w 7 0 = 0x01 ∨ wbits w 7 0 = 0x02 ∨ wbits w 7 0 = 0x03)
        (ht : applyCand p h.tag (wbits w 7 0) (s.taken (mkReq p h 0x41 [w])) = t) : exec (.calApply p h [w]) s = .next (finish s t) :=
      request_outcome hl hs ((bodyCal_apply (s := s.taken (mkReq p h 0x41 [w])) hk hboot hrec).trans ht)
    refine ⟨fun d hk hd => run (.inl hk) ?_, fun d hk hd => run (.inr (.inl hk)) ?_, fun b hk hb => run (.inr (.inr hk)) ?_⟩
    · simp only [applyCand, hk, taken_cal, hd]
      exact reply_mkReq_taken (s := { s with cal := { s.cal with nextDark := some d, candDark := none } }) (op := 0x41) (w := [w]) stOk [] hfree
    · simp only [applyCand, hk, taken_cal, hd]
      exact reply_mkReq_taken (s := { s with cal := { s.cal with nextFlat := some d, candFlat := none } }) (op := 0x41) (w := [w]) stOk [] hfree
    · simp only [applyCand, hk, taken_cal, hb]
      exact reply_mkReq_taken (s := { s with cal := { s.cal with beams := b, candBeams := none } }) (op := 0x41) (w := [w]) stOk [] hfree

/-! NVM_STORE and NVM_LOAD (R442 to R444, R525). -/

/-- A KIND of NVM_STORE and NVM_LOAD (R434). -/
theorem nvm_param {op k : Nat} (hop : op = 0x42 ∨ op = 0x43) (hk : k = 0x03 ∨ (0x10 ≤ k ∧ k ≤ 0x15)) (f : Nat) : calParam op k f = true := by
  rcases hop with rfl | rfl <;> simp only [calParam] <;> simp <;> omega

theorem nvm_runs {op k : Nat} {c : CoreState} (hop : op = 0x42 ∨ op = 0x43) (hc : c = .idle ∨ c = .job ∨ c = .recovery) :
    calRuns op k c = true := by
  rcases hop with rfl | rfl <;> rcases hc with rfl | rfl | rfl <;> rfl

/-- A flash command in a CORE_STATE in which it runs queues its job. -/
theorem bodyCalSense_nvm {r : Req} {s : State} (n : Nat) (hop : r.op = 0x42 ∨ r.op = 0x43)
    (hp : calParam r.op r.calKind (r.fld 1 15 8) = true) (hc : s.core = .idle ∨ s.core = .job ∨ s.core = .recovery) :
    bodyCalSense n r s = queueJob (if r.op = 0x42 then (if r.calKind = 0xFE then .compact r.port r.tag none
      else .store r.port r.tag r.calKind none) else .load r.port r.tag r.calKind) n s := by
  have hcapt : r.op ≠ 0x40 := by omega
  have happly : r.op ≠ 0x41 := by omega
  rw [bodyCalSense_runs hp (fun hx => hcapt hx.1) (fun hx => hcapt hx.1) (nvm_runs hop hc), runCal, if_neg hcapt, if_neg happly]
  split <;> rfl

theorem queueJob_free {s : State} (j : FlashJob) (n : Nat) (h : s.nvm.jobs = []) :
    queueJob j n s = beginJobs n 1 { s with nvm := { s.nvm with jobs := [j] } } := by
  simp only [queueJob, h, List.nil_append, List.length_singleton]

/-- A job behind a READ of TST waits. -/
theorem queueJob_waits {s : State} (j : FlashJob) (n : Nat) {a : Nat} {l : List FlashJob} (h : s.nvm.jobs = .tst 1 a :: l) :
    queueJob j n s = { s with nvm := { s.nvm with jobs := s.nvm.jobs ++ [j] } } := by
  simp only [queueJob, h, List.cons_append, List.length_cons, beginJobs]

/-- Settles O14: each row queues its job, which begins on a free flash. -/
theorem flashCommandsQueue : Obligations.FlashCommandsQueue := by
  unfold Obligations.FlashCommandsQueue
  intro p h w n s hl hcore
  refine ⟨fun k hk hw hs => ?_, fun hs hjobs => request_outcome hl hs ?_, fun k hk hw hs hjobs => request_outcome hl hs ?_⟩
  · have hkind : (mkReq p h 0x42 [w]).calKind = k := hw
    have hcompact : k ≠ 0xFE := by omega
    have hstore := bodyCalSense_nvm (r := mkReq p h 0x42 [w]) (s := s.taken (mkReq p h 0x42 [w])) n (.inl rfl)
      (nvm_param (.inl rfl) (hkind ▸ hk) _) hcore
    rw [mkReq_op, if_pos rfl, hkind, if_neg hcompact] at hstore
    exact ⟨fun hjobs => request_outcome hl hs (hstore.trans (queueJob_free (s := s.taken _) _ n hjobs)),
      fun j l hjobs => request_outcome hl hs (hstore.trans (queueJob_waits (s := s.taken _) _ n hjobs))⟩
  · have hkind := calKind_setBits p h 0x42 0xFE w (by omega)
    have hstore := bodyCalSense_nvm (r := mkReq p h 0x42 [setBits w 7 0 0xFE]) (s := s.taken (mkReq p h 0x42 [setBits w 7 0 0xFE])) n
      (.inl rfl) (by rw [hkind]; rfl) hcore
    rw [mkReq_op, if_pos rfl, hkind, if_pos rfl] at hstore
    exact hstore.trans (queueJob_free (s := s.taken _) _ n hjobs)
  · have hkind : (mkReq p h 0x43 [w]).calKind = k := hw
    have hload := bodyCalSense_nvm (r := mkReq p h 0x43 [w]) (s := s.taken (mkReq p h 0x43 [w])) 0 (.inr rfl)
      (nvm_param (.inr rfl) (hkind ▸ hk) _) hcore
    rw [mkReq_op, if_neg (by decide), hkind] at hload
    exact ((bodyCal_not_store (by simp)).trans hload).trans (queueJob_free (s := s.taken _) _ 0 hjobs)

end Sys2Proof.Machine
end

section
/-!
PROOFS. The flash operations of TST (R524, R525, R527).
-/
namespace Sys2Proof.Machine

/-- TST_FLASH_CMD stands in this store of registers with two words, of which only the first is read; a write leaves one of them. -/
def twoWords : State := { State.reset with
  core := .idle, regs := [(A.TST_FLASH_CMD, 0), (A.TST_FLASH_CMD, 1)], pins := { State.reset.pins with resetN := false } }

/-- READ puts one word in the place of both. -/
theorem read_twoWords_regs :
    (finish twoWords (rowWrite .service A.TST_FLASH_CMD (flashOp 1) twoWords)).regs = [(A.TST_FLASH_CMD, 0x100000000)] := by decide +kernel

/-- Setting BUSY leaves the second word. -/
theorem busy_twoWords_regs : (finish twoWords { twoWords.setFld F.TST_FLASH_CMD_BUSY 1 with
    nvm := { twoWords.nvm with jobs := [.tst 1 0] } }).regs = [(A.TST_FLASH_CMD, 0x100000000), (A.TST_FLASH_CMD, 1)] := by decide +kernel

/-- Refutes O15: no premise says that the stores are canonical (`Memory.wf`), and in a store that holds the register twice READ leaves it once
where setting BUSY leaves it twice. -/
theorem not_flashOperationsRun : ¬ Obligations.FlashOperationsRun := by
  unfold Obligations.FlashOperationsRun
  rintro ⟨h, -⟩
  have hlive : twoWords.live := rfl
  have hread := h 1 (.read .service) .service twoWords hlive (.inl ⟨rfl, rfl⟩) rfl rfl (by decide) (by decide) (by decide) (.inl rfl)
  have hrun : exec (.read .service) twoWords = .next (finish twoWords (rowWrite .service A.TST_FLASH_CMD (flashOp 1) twoWords)) :=
    done_live hlive _
  have hstate := congrArg State.regs (Host.Outcome.next.inj (hrun.symm.trans hread))
  have haddr : twoWords.fld F.TST_FLASH_ADDR_ADDR = 0 := by decide
  rw [haddr, read_twoWords_regs, busy_twoWords_regs] at hstate
  exact absurd hstate (by decide)

end Sys2Proof.Machine
end

section
/-!
PROOFS. Camera frames and captures (R418 to R425, R432, R438), the assignment of lanes, and the drivers and phases of training (R342, R353 to
R355).
-/
namespace Sys2Proof.Machine

/-! Camera frames. -/

theorem takeSettings_capt (s : State) : (takeSettings s).cal.capt = s.cal.capt := by
  unfold takeSettings
  split <;> rfl

/-- A frame starts with no capture at work. -/
theorem exec_frameStart {s : State} (hl : s.live) (hdrop : s.cal.dropped = false) (hframe : s.cal.frame = none) (hcapt : s.cal.capt = none) :
    exec .frameStart s = .next (finish s
      (let t := takeSettings s
       { t with cal := { t.cal with
         frameNo := (t.cal.frameNo + 1) % 2 ^ 32
         frame := some { no := (t.cal.frameNo + 1) % 2 ^ 32, seq := t.cal.seq, mine := false, disc := false } } })) := by
  have hnone : (takeSettings s).cal.capt = none := (takeSettings_capt s).trans hcapt
  have hdisc : exposedDisc (takeSettings s) = false := by rw [exposedDisc, hnone]
  show execFrameStart s = _
  rw [execFrameStart, hdrop, hframe, if_neg (by decide)]
  refine done_outcome hl ?_
  dsimp only
  rw [hdisc, hnone]
  rfl

/-- The watchdog discards a frame that no capture owns. -/
theorem exec_frameWatchdog {f : CamFrame} {s : State} (hl : s.live) (hframe : s.cal.frame = some f) (hmine : f.mine = false) :
    exec .frameWatchdog s = .next (finish s
      (let t := setFstat 3 f.no f.seq (Config.freeNat s.fresh) (Config.freeNat (s.fresh + 1)) (Config.freeNat (s.fresh + 2))
         (Config.freeNat (s.fresh + 3)) { s with fresh := s.fresh + 4 }
       raise F.CAM_EVT_WDOG { t with cal := { t.cal with frame := none, dropped := true } })) := by
  show execFrameWatchdog s = _
  rw [execFrameWatchdog, hframe]
  exact done_outcome hl (if_neg (by rw [hmine]; decide))

/-- The pixels of a frame's lines, with their column and line (R424). -/
def pixelsOf (kept : List (List (BitVec 14))) : List (Nat × Nat × Nat) :=
  ((List.range kept.length).zip kept).flatMap fun r => ((List.range r.2.length).zip r.2).map fun c => (c.1, r.1, c.2.toNat)

/-- What the end of a frame that no capture owns shows, with its DISC and its mean. -/
def frameShown (f : CamFrame) (edges : List CamEdge) (disc : Bool) (mean : Nat) (s : State) : State :=
  let l := camLines edges s
  let w := (frameSize s).1
  let h := (frameSize s).2
  let px := pixelsOf ((l.take h).map (·.take w))
  let t := (s.bumpBy F.CAM_DROP_LINES (l.length - h)).bumpBy F.CAM_DROP_PIXELS ((l.take h).map fun x => x.length - w).sum
  let u := setFstat (frameClass w h disc l) f.no f.seq ((px.map (·.2.2)).foldl max 0) mean (px.countP fun p => p.2.2 == 16383) l.length
    { t with fresh := t.fresh + 1 }
  classFlag (frameClass w h disc l) { u with cal := { u.cal with frame := none } }

/-- A frame that no capture owns ends. -/
theorem exec_frameEnd {f : CamFrame} {s : State} (edges : List CamEdge) (hl : s.live) (hframe : s.cal.frame = some f) (hmine : f.mine = false)
    (hpx : pixelsOf (((camLines edges s).take (frameSize s).2).map (·.take (frameSize s).1)) ≠ []) :
    exec (.frameEnd edges) s = .next (finish s (frameShown f edges f.disc
      (let px := pixelsOf (((camLines edges s).take (frameSize s).2).map (·.take (frameSize s).1))
       (px.map fun p => correct s.cal.dark s.cal.flat p.1 p.2.1 p.2.2).sum / px.length) s)) := by
  have shown {d : Bool} {m n : Nat} (hd : d = f.disc) (hm : m = n) : frameShown f edges d m s = frameShown f edges f.disc n s := by rw [hd, hm]
  show execFrameEnd edges s = _
  rw [execFrameEnd, hframe]
  refine done_outcome hl ?_
  refine (if_neg (by rw [hmine]; decide)).trans ?_
  refine (if_neg (by rw [hmine]; exact Bool.false_ne_true)).trans ?_
  refine shown ?_ (if_neg fun hx => hpx (List.isEmpty_iff.1 hx))
  cases s.cal.capt with
  | none => rfl
  | some c =>
    show (f.disc || (f.mine && c.disc)) = f.disc
    rw [hmine, Bool.false_and, Bool.or_false]

/-- Settles O16: each event's meaning in the case of its frame. -/
theorem framesStartEndAndAreCounted : Obligations.FramesStartEndAndAreCounted := by
  unfold Obligations.FramesStartEndAndAreCounted
  exact ⟨fun s hl hdrop hframe hcapt => exec_frameStart hl hdrop hframe hcapt,
    fun f s hl hframe hmine => ⟨_, _, _, _, exec_frameWatchdog hl hframe hmine⟩,
    fun edges s hl hframe => by
      show execFrameEnd edges s = _
      rw [execFrameEnd, hframe]
      exact done_live hl _,
    fun edges s => rfl,
    fun edges f s hl hframe hmine hpx => exec_frameEnd edges hl hframe hmine hpx⟩

/-! Captures. -/

/-- The offset of a measured receiver is written, and the next one follows (R438). -/
theorem exec_rxOffMeasurementDone {p : Port} {tag : BitVec 10} {i : Nat} {s : State} (hl : s.live) (hrx : s.cal.rxoff = some (p, tag, i)) :
    exec .rxOffMeasurementDone s = .next (finish s (
      let t := { s with fresh := s.fresh + 1 }.setTrim 0x11 i (BitVec.ofNat 36 (Config.freeNat s.fresh % 2 ^ 9 * 2 ^ 27))
      if i < 10 then { t with cal := { t.cal with rxoff := some (p, tag, i + 1) } }
      else answer p tag 0x00 [] { t with cal := { t.cal with rxoff := none } })) := by
  show execRxOffMeasurementDone s = _
  rw [execRxOffMeasurementDone, hrx]
  exact done_live hl _

/-- No frame has come: the attempt counts, and the next one begins (R422, R432). -/
theorem exec_noFrameTimeout {c : Capt} {s : State} (hl : s.live) (hcapt : s.cal.capt = some c) (hawait : c.await = true)
    (hraised : c.raised = true) (htrig : s.cal.trig = false) (hkind : c.kind = 0x01 ∨ c.kind = 0x02) (hgood : c.good < c.want)
    (htried : c.tried + 1 < 4 * c.want) :
    exec .noFrameTimeout s = .next (finish s
      (let t := raise F.CAM_EVT_WDOG s
       { t with cal := { t.cal with
         trig := true, capt := some { c with tried := c.tried + 1, await := true, raised := true, shots := 0, disc := false } } })) := by
  have hdue : (c.await && !s.cal.trig && c.raised) = true := by rw [hawait, hraised, htrig]; rfl
  have hup : (c.kind != 0x03) = true := by rcases hkind with h | h <;> simp [h]
  have hcapt' : (raise F.CAM_EVT_WDOG s).cal.capt = some c := by rw [raise_cal, hcapt]
  have htrig' : (raise F.CAM_EVT_WDOG s).cal.trig = false := by rw [raise_cal, htrig]
  show execNoFrameTimeout s = _
  rw [execNoFrameTimeout, hcapt]
  refine done_outcome hl ((if_pos hdue).trans ?_)
  rw [attemptEnd, hcapt']
  simp only [Bool.not_true, Bool.false_eq_true, if_false, Bool.toNat_false, Nat.add_zero, htrig', nextAttempt, hup, Nat.ne_of_lt hgood,
    Nat.ne_of_lt htried]

/-- The fall of CAM_TRIG ends the exposure of an attempt that awaits its frame (R422). -/
theorem exec_camTrigFall {s : State} (hl : s.live) (htrig : s.cal.trig = true)
    (hcapt : ∀ c, s.cal.capt = some c → c.raised = true ∧ c.await = true) :
    exec .camTrigFall s = .next (finish s { s with cal := { s.cal with trig := false } }) := by
  show execCamTrigFall s = _
  rw [execCamTrigFall, htrig, if_neg (by decide)]
  refine done_outcome hl ?_
  dsimp only
  cases hc : s.cal.capt with
  | none => rfl
  | some c =>
    obtain ⟨hraised, hawait⟩ := hcapt c hc
    dsimp only
    rw [hraised, hawait]
    rfl

/-- Settles O17: each event finds the capture or the receiver at work. -/
theorem captureAttemptsGoOn : Obligations.CaptureAttemptsGoOn := by
  unfold Obligations.CaptureAttemptsGoOn
  exact ⟨fun s hl htrig hcapt => exec_camTrigFall hl htrig hcapt,
    fun c s hl hcapt hawait hraised htrig hkind hgood htried => exec_noFrameTimeout hl hcapt hawait hraised htrig hkind hgood htried,
    fun p tag i s hl hrx => ⟨_, exec_rxOffMeasurementDone hl hrx⟩⟩

/-! Lanes (R342, R355). -/

/-- The first lane that failed. -/
theorem head_filter_range {p : Nat → Bool} {n m : Nat} (hm : m < n) :
    ((List.range n).filter p).head? = some m ↔ p m = true ∧ ∀ k, k < m → p k = false := by
  rw [List.head?_filter, List.find?_range_eq_some]
  simp [hm]

theorem nth_map_range {α : Type} (d : α) (f : Nat → α) {n m : Nat} (hm : m < n) : nth d ((List.range n).map f) m = f m := by
  simp [nth, hm]

/-- Settles O19: an active lane finds its place in the assignment by its own failure, that of lane 8 and those below it. -/
theorem laneAssignmentAfterTraining : Obligations.LaneAssignmentAfterTraining := by
  unfold Obligations.LaneAssignmentAfterTraining
  intro failed m hm
  rw [assignLanes, nth_map_range _ _ hm]
  cases hf : failed.testBit m with
  | false => simp
  | true => simp [hm, hf]

/-! Drivers and the phases of a group's training (R353 to R355, R492). -/

theorem grp_updGrp (s : State) (g : Nat) (f : Grp → Grp) : (s.updGrp g f).grp g = f (s.grp g) := by
  simp [State.grp, State.updGrp]

/-- A change of a group depends on what it makes of the group alone. -/
theorem updGrp_congr {s : State} {g : Nat} {f f' : Grp → Grp} (h : f (s.grp g) = f' (s.grp g)) : s.updGrp g f = s.updGrp g f' := by
  simp only [State.updGrp, h]

theorem emit_all_drivers (l : List DriverLane) (s : State) : (l.foldl (fun s l => emit (.driver l) s) s).lnk = s.lnk := by
  induction l generalizing s with
  | nil => rfl
  | cons x r ih => exact ih _

/-- The last driver set begins every training. -/
theorem afterDriverSet {t : State} {c : Prop} [Decidable c] (h : t.lnk.drivers = 12 ↔ c) :
    (if t.lnk.drivers = 12 then startPairTraining ([0, 1, 2, 3].foldl (fun s g => startTraining g s) t) else t) =
      if c then startPairTraining (startTraining 3 (startTraining 2 (startTraining 1 (startTraining 0 t)))) else t := by
  simp only [h, List.foldl_cons, List.foldl_nil]

/-- The boot switches the next driver set on. -/
theorem exec_laneDriverSetOn {s : State} (hl : s.live) (hboot : s.pwr.booting = true) (hen : s.pwr.enabling = false) (hon : s.pwr.clOn = 64)
    (hmore : s.lnk.drivers < 12) :
    let t := (driverSet s.lnk.drivers).foldl (fun s l => emit (.driver l) s) { s with lnk := { s.lnk with drivers := s.lnk.drivers + 1 } }
    exec .laneDriverSetOn s = .next (finish s (if s.lnk.drivers = 11 then
      startPairTraining (startTraining 3 (startTraining 2 (startTraining 1 (startTraining 0 t)))) else t)) := by
  intro t
  have hdue : (!s.pwr.booting || s.pwr.enabling || decide (s.pwr.clOn < 64) || decide (12 ≤ s.lnk.drivers)) = false := by
    simp [hboot, hen, hon, hmore]
  have hcount : t.lnk.drivers = s.lnk.drivers + 1 := congrArg Lnk.drivers (emit_all_drivers _ _)
  have hlast : t.lnk.drivers = 12 ↔ s.lnk.drivers = 11 := by omega
  refine done_outcome hl ((if_neg (by rw [hdue]; decide)).trans ?_)
  exact afterDriverSet hlast

/-- A phase ends in an output group. -/
theorem exec_trainingPhaseEnd {g : Fin 5} {m : BitVec 9} {s t : State} (hl : s.live) (hg : g.val < 4) (ht : groupPhase g.val m.toNat s = t) :
    exec (.trainingPhaseEnd g m) s = .next (finish s t) :=
  done_outcome hl ((if_neg (by omega)).trans ht)

theorem exec_trainingPhaseTimeout {g : Fin 5} {m : BitVec 9} {s t : State} (hl : s.live) (hg : g.val < 4)
    (ht : (match (s.grp g.val).phase with
      | 1 | 2 => failTraining g.val s
      | 3 | 4 => groupPhase g.val m.toNat s
      | _ => s) = t) : exec (.trainingPhaseTimeout g m) s = .next (finish s t) :=
  done_outcome hl ((if_neg (by omega)).trans ht)

section
variable {g : Nat} {s : State}

theorem groupPhase_one (m : Nat) (h : (s.grp g).phase = 1) : groupPhase g m s = s.updGrp g fun x => { x with phase := 2, clkOn := true } := by
  simp only [groupPhase, h]

theorem groupPhase_two (m : Nat) (h : (s.grp g).phase = 2) : groupPhase g m s = s.updGrp g fun x => { x with phase := 3, clkLock := true } := by
  simp only [groupPhase, h]

theorem groupPhase_four (m : BitVec 9) (h : (s.grp g).phase = 4) :
    groupPhase g m.toNat s = s.updGrp g fun x => { x with phase := 5, failed := x.failed ||| m.toNat } := by
  simp only [groupPhase, h, Nat.mod_eq_of_lt m.isLt]

theorem groupPhase_five (m : BitVec 9) (h : (s.grp g).phase = 5) :
    groupPhase g m.toNat s = finishTraining g (s.updGrp g fun x => { x with phase := 5, failed := x.failed ||| m.toNat }) := by
  simp only [groupPhase, h, Nat.mod_eq_of_lt m.isLt]

/-- A training in which no lane has failed ends with lanes 0 to 7 carried and all nine trained. -/
theorem finishTraining_none_failed (h : (s.grp g).failed = 0) :
    finishTraining g s = trainDone g (s.updGrp g fun x =>
      { x with phase := 0, up := x.clkLock, named := 0, trained := 511, map := [0, 1, 2, 3, 4, 5, 6, 7], dead := 0 }) := by
  rw [finishTraining, h]
  rfl

end

/-- Settles O20: the driver sets one after the other, and each phase by the number that the group shows. -/
theorem driversSwitchOnAndGroupsTrain : Obligations.DriversSwitchOnAndGroupsTrain := by
  unfold Obligations.DriversSwitchOnAndGroupsTrain
  refine ⟨fun s hl hboot hen hon hmore => exec_laneDriverSetOn hl hboot hen hon hmore, by decide, fun g m s hl hg => ?_⟩
  refine ⟨fun h1 => ⟨exec_trainingPhaseEnd hl hg (groupPhase_one _ h1), exec_trainingPhaseTimeout hl hg (by rw [h1]; rfl)⟩,
    fun h2 => exec_trainingPhaseEnd hl hg (groupPhase_two _ h2),
    fun h4 => ⟨exec_trainingPhaseEnd hl hg (groupPhase_four m h4), exec_trainingPhaseTimeout hl hg (by rw [h4]; exact groupPhase_four m h4)⟩,
    fun h5 hnone => exec_trainingPhaseEnd hl hg ?_⟩
  have hstart : s.updGrp g.val (fun x => { x with phase := 5, failed := x.failed ||| m.toNat }) =
      s.updGrp g.val (fun x => { x with phase := 5, failed := 0 }) := updGrp_congr (by rw [hnone])
  rw [groupPhase_five m h5, hstart, finishTraining_none_failed (by rw [grp_updGrp])]

end Sys2Proof.Machine
end

section
/-!
PROOFS. The memory controller: transactions, bus slots, refreshes and errors (R184 to R208), training and self-refresh (R211 to R223).
-/
namespace Sys2Proof.Machine

/-! A pseudo-channel that is changed, and what leaves it. -/

@[simp] theorem pc_updPc (p : Nat) (f : Pc → Pc) (s : State) : (updPc p f s).pc p = f (s.pc p) := amGet_put_same _ _ _ _

theorem pc_of_mem {s t : State} (h : t.mem = s.mem) (p : Nat) : t.pc p = s.pc p := by rw [State.pc, State.pc, h]

theorem writeRing_mem (p : Nat) (l : List Word) (s : State) : (writeRing p l s).mem = s.mem := by
  induction p, l, s using writeRing.induct with
  | case1 => rfl
  | case2 => rfl
  | case3 p s e o r ih => exact ih

theorem sendMsix_mem (v : Nat) (s : State) : (sendMsix v s).mem = s.mem := by
  unfold sendMsix
  split
  · split <;> rfl
  · rfl

theorem vector0_mem (s : State) : (vector0 s).mem = s.mem := by
  unfold vector0
  split
  · exact sendMsix_mem _ _
  · rfl

theorem sendReply_mem (p : Port) (tag : BitVec 10) (op st : Nat) (w : List Word) (s : State) : (sendReply p tag op st w s).mem = s.mem := by
  cases p
  · simp [sendReply, vector0_mem, writeRing_mem]
  · rfl
  · rfl

theorem answer_mem (p : Port) (tag : BitVec 10) (st : Nat) (w : List Word) (s : State) : (answer p tag st w s).mem = s.mem := by
  unfold answer
  split
  · rfl
  · exact (sendReply_mem _ _ _ _ _ _).trans rfl

/-! Transactions (R184 to R191, R206). -/

section accept
variable {pc port a n d : Nat} {wr : Bool} {s : State} (hsr : s.mem.sr = .awake)
include hsr

theorem acceptTxn_retired (hret : (s.pc pc).retired = true) : acceptTxn pc port a n d wr s = s := by
  unfold acceptTxn
  rw [wakeMemory_awake hsr]
  dsimp only
  split
  · exact if_pos (by rw [hret]; rfl)
  · exact if_pos hret

theorem acceptTxn_posted {y : TxnPost} (hret : (s.pc pc).retired = false)
    (hfree : entryFree (s.pc pc) port (s.fld F.MEM_CTL_RT_RESERVE) = true)
    (hy : s.mem.posts.find? (fun x => x.gives pc port a n wr) = some y) :
    acceptTxn pc port a n d wr s = noteWrite y.use (enterTxn pc port a n d wr y.again y.use
      { s with mem := { s.mem with posts := takePost (fun x => x.gives pc port a n wr) n s.mem.posts } }) := by
  unfold acceptTxn
  rw [wakeMemory_awake hsr]
  dsimp only
  rw [hy]
  exact if_neg (by rw [hret, hfree]; decide)

theorem acceptTxn_free (hret : (s.pc pc).retired = false) (hfree : entryFree (s.pc pc) port (s.fld F.MEM_CTL_RT_RESERVE) = true)
    (hnone : s.mem.posts.find? (fun x => x.gives pc port a n wr) = none) :
    acceptTxn pc port a n d wr s = enterTxn pc port a n d wr false (useAt pc port a s) s := by
  unfold acceptTxn
  rw [wakeMemory_awake hsr]
  dsimp only
  rw [hnone]
  exact (if_neg (by rw [hret]; decide)).trans (if_pos hfree)

end accept

/-- A transaction whose bursts are done, and which is not late, leaves; the bus goes on with what waits. -/
theorem exec_transactionComplete {pc : Fin 64} {x : Txn} {s : State} (hl : s.live) (hx : (s.pc pc.val).finished = some x)
    (hlate : x.port ≠ 0 ∨ s.ns ≤ x.deadline) {t : State}
    (ht : t = updPc pc.val (fun c => { c with txns := removeFirst (·.id == x.id) c.txns,
                                              holder := if c.holder = some x.id then none else c.holder }) s)
    (hidle : (t.pc pc.val).idle = false) : exec (.transactionComplete pc) s = .next (finish s t) := by
  show execTransactionComplete pc s = _
  rw [execTransactionComplete, hx]
  refine done_outcome hl ?_
  have hnot : ¬(x.port = 0 ∧ x.deadline < s.ns) := fun ⟨hp, hd⟩ => hlate.elim (· hp) (fun h => absurd hd (Nat.not_lt.2 h))
  dsimp only
  rw [if_neg hnot, ← ht, hidle]
  rfl

/-- Settles O21: a transaction is accepted with what its posted access carries, refused, or ends. -/
theorem transactionsAreAcceptedAndComplete : Obligations.TransactionsAreAcceptedAndComplete := by
  unfold Obligations.TransactionsAreAcceptedAndComplete
  refine ⟨fun pc port a n d wr s hl hok hsr => ⟨fun hret hfree => ⟨fun hnone => ?_, fun y hy => ?_⟩, fun hret => ?_⟩,
    fun pc port a n d wr s hno => execTransactionAccept_not_ok pc d s hno,
    fun pc x s hl hx hlate hidle => exec_transactionComplete hl hx hlate rfl hidle⟩
  · exact (execTransactionAccept_ok pc d s hok).trans (done_outcome hl (acceptTxn_free hsr hret hfree hnone))
  · exact (execTransactionAccept_ok pc d s hok).trans (done_outcome hl (acceptTxn_posted hsr hret hfree hy))
  · exact (execTransactionAccept_ok pc d s hok).trans (done_outcome hl (acceptTxn_retired hsr hret))

/-! Slots, refreshes and errors (R194, R200 to R208). -/

/-- What a break point leaves of its pseudo-channel that a refresh in progress shows. -/
theorem breakPoint_refreshing (pc : Nat) (s : State) :
    ((breakPoint pc s).pc pc).refreshing = ((s.pc pc).refreshing || refreshNow s (s.pc pc)) := by
  unfold breakPoint
  dsimp only
  rw [pc_updPc]
  split
  · rw [pc_of_mem (s := s) (by rw [raise_mem, bump_mem, bumpBy_mem])]
  · rw [pc_of_mem (s := s) (bumpBy_mem _ _ _)]

theorem exec_busSlotStart {pc : Fin 64} {s : State} (hl : s.live) (hruns : busRuns pc.val s = true) (htrain : (s.pc pc.val).training = false)
    (hnow : refreshNow s (s.pc pc.val) = false) :
    exec (.busSlotStart pc) s = .next (finish s (beginSlot pc.val (breakPoint pc.val s))) := by
  have hrest : (s.pc pc.val).refreshing = false := by
    simp only [busRuns, Bool.and_eq_true, Bool.not_eq_true'] at hruns
    exact hruns.2
  have hnone : ((breakPoint pc.val s).pc pc.val).refreshing = false := by rw [breakPoint_refreshing, hrest, hnow]; rfl
  show execBusSlotStart pc s = _
  rw [execBusSlotStart]
  refine done_outcome hl ((if_neg (by rw [hruns, htrain]; decide)).trans ?_)
  exact if_neg (by rw [hnone]; decide)

theorem exec_refreshDue_early {pc : Fin 64} {s : State} (hl : s.live) (hearly : 2 * s.ns < (s.pc pc.val).refAt) :
    exec (.refreshDue pc) s = .next (finish s s) := by
  show execRefreshDue pc s = _
  rw [execRefreshDue]
  exact done_outcome hl (if_pos (.inr hearly))

theorem exec_refreshDue {pc : Fin 64} {s : State} (hl : s.live) (hsr : s.mem.sr = .awake) (hdue : (s.pc pc.val).refAt ≤ 2 * s.ns)
    (hwait : ((s.pc pc.val).idle = false ∧ (s.pc pc.val).aside = false) ∨ (s.pc pc.val).refreshing = true) :
    exec (.refreshDue pc) s = .next (finish s
      (updPc pc.val (fun c => { c with postponed := min 5 (c.postponed + 1), refAt := nextRef pc.val s }) s)) := by
  show execRefreshDue pc s = _
  rw [execRefreshDue]
  refine done_outcome hl ((if_neg ?_).trans (if_neg ?_))
  · rintro (h | h)
    · exact h hsr
    · omega
  · rw [pc_updPc]
    show ¬(((s.pc pc.val).idle || (s.pc pc.val).aside) && !(s.pc pc.val).refreshing) = true
    rcases hwait with ⟨hi, ha⟩ | hr
    · simp [hi, ha]
    · rw [hr]; simp

theorem exec_refreshDone {pc : Fin 64} {s : State} (hl : s.live) (href : (s.pc pc.val).refreshing = true)
    (htrain : (s.pc pc.val).training = false) (hret : (s.pc pc.val).retired = false) (hidle : (s.pc pc.val).idle = false) :
    exec (.refreshDone pc) s = .next (finish s (beginSlot pc.val (updPc pc.val (fun c => { c with refreshing := false }) s))) := by
  show execRefreshDone pc s = _
  rw [execRefreshDone]
  refine done_outcome hl ((if_neg (by rw [href]; decide)).trans (if_neg ?_))
  rw [pc_updPc]
  show ¬(((s.pc pc.val).training || (s.pc pc.val).retired) || (s.pc pc.val).idle) = true
  rw [htrain, hret, hidle]
  decide

theorem exec_errorSeverityReport {pc : Fin 64} {x : Txn} {s : State} (hl : s.live) (hx : (s.pc pc.val).held = some x) (hread : x.write = false) :
    exec (.errorSeverityReport pc false) s = .next (finish s
      (if s.fld (F.MEM_PC_ECC_CE_CNT pc.val) < s.fld F.MEM_CTL_CE_LIMIT ∧
          s.fld F.MEM_CTL_CE_LIMIT ≤ (s.bump (F.MEM_PC_ECC_CE_CNT pc.val)).fld (F.MEM_PC_ECC_CE_CNT pc.val) then
        raise (F.MEM_PC_EVT_CE_LIMIT pc.val) (updPc pc.val (fun c => { c with due := true }) (s.bump (F.MEM_PC_ECC_CE_CNT pc.val)))
      else s.bump (F.MEM_PC_ECC_CE_CNT pc.val))) := by
  show execErrorSeverityReport pc false s = _
  rw [execErrorSeverityReport, hx]
  exact done_outcome hl ((if_neg (by rw [hread]; decide)).trans (if_neg (by decide)))

theorem exec_parityError {pc : Fin 64} {x : Txn} {s : State} (hl : s.live) (hx : (s.pc pc.val).held = some x) (hrep : x.repeats < 2) :
    exec (.parityError pc) s = .next (finish s (updPc pc.val (fun c =>
      { c with txns := updateFirst (·.id == x.id) (fun x => { x with repeats := x.repeats + 1 }) c.txns }) s)) := by
  show execParityError pc s = _
  rw [execParityError, hx]
  exact done_outcome hl (if_pos hrep)

/-- Settles O22: each event's meaning in the state of its pseudo-channel. -/
theorem busSlotsRefreshesAndErrors : Obligations.BusSlotsRefreshesAndErrors := by
  unfold Obligations.BusSlotsRefreshesAndErrors
  exact ⟨fun pc s hl hruns htrain hnow => exec_busSlotStart hl hruns htrain hnow,
    fun pc s hl => ⟨exec_refreshDue_early hl, exec_refreshDue hl⟩,
    fun pc s hl href htrain hret hidle => exec_refreshDone hl href htrain hret hidle,
    fun pc x s hl hx hread => exec_errorSeverityReport hl hx hread,
    fun pc x s hl hx hrep => exec_parityError hl hx hrep⟩

/-! Self-refresh (R219 to R221). -/

theorem exec_selfRefreshEntry {s : State} (hl : s.live) (hen : s.bit F.MEM_CTL_SR_EN = true) (hcore : s.core = .idle)
    (hfree : ∀ p, p < 64 → (s.pc p).txns = [] ∧ (s.pc p).training = false) (hposts : s.mem.posts = []) (hsr : s.mem.sr = .awake)
    (hjob : flightsOp .host 0x10 s = []) :
    exec .selfRefreshEntry s = .next (finish s
      (let t := (List.range 64).foldl (fun s p => updPc p (fun c => { c with postponed := 0, passed := 0, refreshing := false, openRow := none }) s) s
       { t with mem := { t.mem with sr := .asleep } })) := by
  have hbusy : (!s.mem.posts.isEmpty || (List.range 64).any fun p => !(s.pc p).txns.isEmpty || (s.pc p).training) = false := by
    rw [hposts, Bool.or_eq_false_iff]
    refine ⟨rfl, List.any_eq_false.2 fun p hp => ?_⟩
    obtain ⟨htxns, htrain⟩ := hfree p (List.mem_range.1 hp)
    rw [htxns, htrain]
    decide
  show execSelfRefreshEntry s = _
  rw [execSelfRefreshEntry]
  refine done_outcome hl (if_neg ?_)
  rw [hen, hbusy]
  simp [hcore, hsr, hjob]

/-- Two folds agree whose steps agree wherever what `g` reads stands unchanged, which no step changes. -/
theorem foldl_agrees {α β : Type} {f h : State → α → State} (g : State → β) {s : State} (hfh : ∀ t x, g t = g s → f t x = h t x)
    (hg : ∀ t x, g (h t x) = g t) (l : List α) (t : State) (ht : g t = g s) : l.foldl f t = l.foldl h t := by
  induction l generalizing t with
  | nil => rfl
  | cons x r ih =>
    rw [List.foldl_cons, List.foldl_cons, hfh t x ht]
    exact ih _ ((hg t x).trans ht)

theorem refInterval_of_regs {s t : State} (p : Nat) (h : t.regs = s.regs) : refInterval p t = refInterval p s := by
  unfold refInterval State.fld State.getReg
  rw [h]

theorem foldl_refAt {s t : State} (hregs : t.regs = s.regs) (htb : t.tb = s.tb) (l : List Nat) :
    l.foldl (fun s p => updPc p (fun c => { c with refAt := 2 * s.ns + refInterval p s }) s) t =
      l.foldl (fun t p => updPc p (fun c => { c with refAt := 2 * s.ns + refInterval p s }) t) t := by
  refine foldl_agrees (s := s) (h := fun t p => updPc p (fun c => { c with refAt := 2 * s.ns + refInterval p s }) t)
    (fun t => (t.regs, t.tb)) (fun t p h => ?_) (fun _ _ => rfl) l t (Prod.ext hregs htb)
  obtain ⟨hr, hb⟩ := Prod.mk.inj h
  rw [refInterval_of_regs p hr, State.ns, hb]
  rfl

theorem foldl_updPc_cmd (f : State → Nat → Pc → Pc) (l : List Nat) (t : State) : (l.foldl (fun t p => updPc p (f t p) t) t).cmd = t.cmd :=
  foldl_same (f := fun t p => updPc p (f t p) t) (fun t => t.cmd) (fun _ _ => rfl) l t

theorem foldl_updPc_pwr (f : State → Nat → Pc → Pc) (l : List Nat) (t : State) : (l.foldl (fun t p => updPc p (f t p) t) t).pwr = t.pwr :=
  foldl_same (f := fun t p => updPc p (f t p) t) (fun t => t.pwr) (fun _ _ => rfl) l t

theorem tryOpenJob_none {s : State} (h : flightsOp .host 0x10 s = []) : tryOpenJob s = s := by
  unfold tryOpenJob
  rw [h]
  rfl

/-- At the exit every pseudo-channel's next refresh is an interval away (R221). -/
theorem exec_selfRefreshExitDone {s : State} (hl : s.live) (hsr : s.mem.sr = .leaving) (hon : s.pwr.clOn = 64)
    (hjob : flightsOp .host 0x10 s = []) :
    exec (.selfRefreshExitDone 0) s = .next (finish s ((List.range 64).foldl
      (fun t p => updPc p (fun c => { c with refAt := 2 * s.ns + refInterval p s }) t) { s with mem := { s.mem with sr := .awake } })) := by
  have hbits : bitsSet 64 (0 : BitVec 64).toNat = [] := by decide
  show execSelfRefreshExitDone 0 s = _
  rw [execSelfRefreshExitDone, hsr]
  refine done_outcome hl ?_
  dsimp only
  rw [hbits, List.foldl_nil, foldl_refAt (s := s) (t := { s with mem := { s.mem with sr := .awake } }) rfl rfl]
  have hcmd := foldl_updPc_cmd (fun _ p c => { c with refAt := 2 * s.ns + refInterval p s }) (List.range 64)
    { s with mem := { s.mem with sr := .awake } }
  have hpwr := foldl_updPc_pwr (fun _ p c => { c with refAt := 2 * s.ns + refInterval p s }) (List.range 64)
    { s with mem := { s.mem with sr := .awake } }
  generalize List.foldl _ _ _ = u at hcmd hpwr ⊢
  rw [wakeCore_on (by rw [hpwr]; exact hon), tryOpenJob_none (by rw [flightsOp, hcmd]; exact hjob)]

/-! Training (R211 to R218, R223). -/

theorem head_find_range {p : Nat → Bool} {n m : Nat} (hm : m < n) (hp : p m = true) (hlow : ∀ k, k < m → p k = false) :
    (List.range n).find? p = some m := by
  rw [List.find?_range_eq_some]
  simp [hm, hp]
  exact hlow

theorem exec_memRetrain {p : Port} {h : Hdr} {v w : Word} {s : State} (hl : s.live) (hs : Starts (mkReq p h 0x58 [v, w]) s)
    (hjob : s.job = none) (hsr : s.mem.sr = .awake) (hpcs : bitsSet 32 (wbits v 31 0) ++ (bitsSet 32 (wbits w 31 0)).map (· + 32) ≠ []) :
    exec (.memRetrain p h [v, w]) s = .next (finish s
      (let pcs := bitsSet 32 (wbits v 31 0) ++ (bitsSet 32 (wbits w 31 0)).map (· + 32)
       let t := pcs.foldl (fun s p => updPc p (fun c => { c with due := true }) s) (s.taken (mkReq p h 0x58 [v, w]))
       { t with mem := { t.mem with retrains := t.mem.retrains ++ [{ port := p, tag := h.tag, pcs := pcs, anyRetired := false }] } })) := by
  refine request_outcome hl hs ?_
  unfold bodyMemRetrain
  refine (if_neg fun hx => hpcs (List.isEmpty_iff.1 hx)).trans ((if_neg ?_).trans ?_)
  · rw [taken_job, hjob]; simp
  · rw [wakeMemory_awake (by rw [taken_mem]; exact hsr)]
    rfl

theorem exec_retrainingStart {p : Nat} {s : State} (hl : s.live) (hgap : s.core = .idle ∨ s.core = .job ∨ s.core = .armed)
    (hnone : retraining s = false) (hstart : s.mem.startHold = none) (hsr : s.mem.sr = .awake) (hp : p < 64) (hdue : (s.pc p).due = true)
    (hlow : ∀ q, q < p → (s.pc q).due = false) :
    exec .retrainingStart s = .next (finish s (updPc p (fun c => { c with training := true }) s)) := by
  have hin : inGap s = true := by rcases hgap with h | h | h <;> rw [inGap, h] <;> rfl
  have hready : (!inGap s || retraining s || s.mem.startHold.isSome || decide (s.mem.sr ≠ .awake)) = false := by
    rw [hin, hnone, hstart, hsr]
    rfl
  show execRetrainingStart s = _
  rw [execRetrainingStart, head_find_range hp hdue hlow]
  refine done_outcome hl ?_
  dsimp only
  rw [hready]
  exact if_neg Bool.false_ne_true

theorem retrainReplies_startHold (p : Nat) (retired : Bool) (s : State) : (retrainReplies p retired s).mem.startHold = s.mem.startHold := by
  unfold retrainReplies
  exact (foldl_same (fun t : State => t.mem.startHold) (fun t r => congrArg (·.startHold) (answer_mem _ _ _ _ t)) _ _).trans rfl

theorem updPc_startHold (p : Nat) (f : Pc → Pc) (s : State) : (updPc p f s).mem.startHold = s.mem.startHold := (rfl)

theorem pc_updPc_retired {f : Pc → Pc} (hf : ∀ c, (f c).retired = c.retired) (p : Nat) (s : State) :
    ((updPc p f s).pc p).retired = (s.pc p).retired := by rw [pc_updPc, hf]

theorem recordTraining_pc_retired (p : Nat) (ok : Bool) (t : Int) (s : State) : ((recordTraining p ok t s).pc p).retired = (s.pc p).retired := by
  unfold recordTraining State.draw
  dsimp only
  rw [pc_updPc_retired (hf := ?_), pc_of_mem (s := s)]
  · rw [bump_mem, setFld_mem, setFld_mem]
  · exact fun _ => rfl

theorem recordTraining_startHold (p : Nat) (ok : Bool) (t : Int) (s : State) : (recordTraining p ok t s).mem.startHold = s.mem.startHold := by
  unfold recordTraining State.draw
  dsimp only
  rw [updPc_startHold, bump_mem, setFld_mem, setFld_mem]

/-- A training that passes leaves its pseudo-channel in service (R213, R218). -/
theorem exec_retrainingDone {p : Nat} {s : State} (hl : s.live) (hp : p < 64) (htrain : (s.pc p).training = true)
    (hlow : ∀ q, q < p → (s.pc q).training = false) (hret : (s.pc p).retired = false) (hstart : s.mem.startHold = none) :
    exec (.retrainingDone true) s = .next (finish s (retrainReplies p false
      (updPc p (fun c => { c with training := false, due := false }) ((recordTraining p true (stackTemp p s) s).setFld (F.MEM_PC_ECC_CE_CNT p) 0)))) := by
  have hkept : ((updPc p (fun c => { c with training := false, due := false })
      ((recordTraining p true (stackTemp p s) s).setFld (F.MEM_PC_ECC_CE_CNT p) 0)).pc p).retired = false := by
    rw [pc_updPc]
    exact (congrArg Pc.retired (pc_of_mem (setFld_mem _ _ _) p)).trans ((recordTraining_pc_retired _ _ _ _).trans hret)
  have hnone : (retrainReplies p false (updPc p (fun c => { c with training := false, due := false })
      ((recordTraining p true (stackTemp p s) s).setFld (F.MEM_PC_ECC_CE_CNT p) 0))).mem.startHold = none :=
    by rw [retrainReplies_startHold, updPc_startHold, setFld_mem, recordTraining_startHold, hstart]
  show execRetrainingDone true s = _
  rw [execRetrainingDone, head_find_range (p := fun p => (s.pc p).training) hp htrain hlow]
  refine done_outcome hl ?_
  dsimp only
  rw [if_pos rfl, if_neg (by rw [hkept]; exact Bool.false_ne_true), hkept, hnone]

theorem foldl_unchanged {α β : Type} {f : α → β → α} {l : List β} {a : α} (h : ∀ u, ∀ x ∈ l, f u x = u) : l.foldl f a = a := by
  induction l with
  | nil => rfl
  | cons x r ih =>
    rw [List.foldl_cons, h a x List.mem_cons_self]
    exact ih fun u y hy => h u y (List.mem_cons_of_mem x hy)

/-- A readout near the temperature of the last training queues no pseudo-channel (R212, R223). -/
theorem exec_stackTemperatureReadout {k : Fin 2} {t : BitVec 9} {s : State} (hl : s.live)
    (hnear : ∀ i, i < 32 → (t.toInt - (s.pc (32 * k.val + i)).temp).natAbs ≤ s.fld F.MEM_CTL_RETRAIN_DT) :
    exec (.stackTemperatureReadout k t) s = .next (finish s
      (let was := (s.fld F.MEM_STATUS_HOT).testBit k.val
       let hot := decide (85 ≤ t.toInt)
       let h := s.fld F.MEM_STATUS_HOT
       raiseIf (hot && !was) F.MEM_EVT_HOT
        ((s.setFld (if k.val = 0 then F.MEM_STK_TEMP_TEMP0 else F.MEM_STK_TEMP_TEMP1) t.toNat).setFld F.MEM_STATUS_HOT
          (if hot = was then h else if hot then h + 2 ^ k.val else h - 2 ^ k.val)))) := by
  show execStackTemperatureReadout k t s = _
  rw [execStackTemperatureReadout]
  refine done_outcome hl ?_
  dsimp only
  refine foldl_unchanged fun u i hi => if_neg ?_
  rw [pc_of_mem (s := s) (by rw [raiseIf_mem, setFld_mem, setFld_mem]), decide_eq_false (Nat.not_lt.2 (hnear i (List.mem_range.1 hi)))]
  exact Bool.false_ne_true

/-- Settles O23: each event in the phase of its memory. -/
theorem selfRefreshAndRetraining : Obligations.SelfRefreshAndRetraining := by
  unfold Obligations.SelfRefreshAndRetraining
  exact ⟨fun s hl hen hcore hfree hposts hsr hjob => exec_selfRefreshEntry hl hen hcore hfree hposts hsr hjob,
    fun s hl hsr hon hjob => exec_selfRefreshExitDone hl hsr hon hjob,
    fun p h v w s hl hs hjob hsr hpcs => exec_memRetrain hl hs hjob hsr hpcs,
    fun p s hl hgap hnone hstart hsr hp hdue hlow => exec_retrainingStart hl hgap hnone hstart hsr hp hdue hlow,
    fun p s hl hp htrain hlow hret hstart => exec_retrainingDone hl hp htrain hlow hret hstart,
    fun k t s hl hnear => exec_stackTemperatureReadout hl hnear⟩

/-! The lanes of the pair link (R372, R456, R474). -/

/-- A pair link that was up stays up while its clock runs and lanes are live in both directions. -/
theorem updPairLink_up {f : PairPhy → PairPhy} {s : State} (hphase : (f s.lnk.pair).phase = 0) (hclk : (f s.lnk.pair).clkOn = true)
    (hup : (f s.lnk.pair).up = true) (htx : (f s.lnk.pair).tx ≠ 0) (hrx : (f s.lnk.pair).rx ≠ 0) :
    updPairLink f s = { s with lnk := { s.lnk with pair := f s.lnk.pair } } := by
  unfold updPairLink
  dsimp only
  have hstay : ((f s.lnk.pair).phase == 0 && (f s.lnk.pair).clkOn && decide ((f s.lnk.pair).tx ≠ 0 ∧ (f s.lnk.pair).rx ≠ 0)) = true := by
    simp [hphase, hclk, htx, hrx]
  rw [hstay, ← hup]
  exact if_neg (by simp [hup])

/-- Settles O24: a change of the pair link keeps it up, or brings it down. -/
theorem pairLanesFollowTheirReports : Obligations.PairLanesFollowTheirReports := by
  unfold Obligations.PairLanesFollowTheirReports
  intro s hl hphase hclk hup
  refine ⟨fun m hm hrx => ?_, fun k => ?_, ?_⟩
  · have hm' : m.toNat ≠ 0 := fun h => hm (BitVec.eq_of_toNat_eq h)
    show execPairLink m true s = _
    rw [execPairLink]
    exact done_outcome hl ((if_pos (.inr ⟨hphase, hclk⟩)).trans (updPairLink_up hphase hclk hup hm' hrx))
  · intro rx htx hrx
    exact done_outcome hl (updPairLink_up hphase hclk hup htx hrx)
  · refine done_outcome hl ?_
    unfold updPairLink
    dsimp only
    rw [hup]
    exact if_pos (by simp)

end Sys2Proof.Machine
end

section
/-!
PROOFS. The frames of the back channel (R361 to R365), the count of DISCARD frames and the loss of a forwarded clock.
-/
namespace Sys2Proof.Machine

/-! Frames (R362). -/

theorem bcBody_data (b : List Byte) : bcBody (b.map BcChar.d ++ [BcChar.k 29 7]) = some b := by
  induction b with
  | nil => rfl
  | cons x r ih =>
    show (bcBody (r.map BcChar.d ++ [BcChar.k 29 7])).map (x :: ·) = _
    rw [ih]
    rfl

theorem bcBytes_data (b : List Byte) : bcBytes ([BcChar.k 27 7] ++ b.map BcChar.d ++ [BcChar.k 29 7]) = some b := bcBody_data b

section frame
variable {g type len : Nat} {chars : List BcChar} {act : List Byte → State → State} {s : State}

theorem bcFrame_no_bytes (h : bcBytes chars = none) : bcFrame g type len chars act s = s.bump (F.LNK_GRP_BC_BAD g) := by rw [bcFrame, h]

theorem bcFrame_bad {b : List Byte} (h : bcBytes chars = some b) (hbad : bcFrameOk type len b = false) :
    bcFrame g type len chars act s = s.bump (F.LNK_GRP_BC_BAD g) := by
  rw [bcFrame, h]
  exact if_neg (by rw [hbad]; exact Bool.false_ne_true)

theorem bcFrame_sound {b : List Byte} (h : bcBytes chars = some b) (hok : bcFrameOk type len b = true) :
    bcFrame g type len chars act s = act b ((s.bump (F.LNK_GRP_BC_GOOD g)).updGrp g fun x => { x with bcAt := some s.tb.ticks }) := by
  rw [bcFrame, h]
  exact if_pos hok

end frame

/-- The effect of a sound frame of each TYPE (R363). -/
def bcEffect (g : Fin 4) (type : Nat) (b : List Byte) (s : State) : State :=
  if type = 0x01 then takeStatus g.val b s
  else if type = 0x02 then takeDiscard g.val b s
  else if type = 0x03 then failLanes g.val (if bcField b 0 1 ≤ 8 then 2 ^ bcField b 0 1 else 0) s
  else if s.pair.st < 2 then s else takeTokenFrame (bcField b 1 2) (bcField b 3 4) s

/-- Each command of a back-channel frame takes the frame of its TYPE and length. -/
theorem exec_bcFrame {g : Fin 4} {chars : List BcChar} {type len : Nat} {c : Instr} {s : State} (hl : s.live)
    (hc : type = 0x01 ∧ len = 16 ∧ c = .status g chars ∨ type = 0x02 ∧ len = 13 ∧ c = .discard g chars ∨
      type = 0x03 ∧ len = 2 ∧ c = .laneFault g chars ∨ type = 0x04 ∧ len = 7 ∧ c = .token g chars) :
    exec c s = .next (finish s (bcFrame g.val type len chars (bcEffect g type) s)) := by
  obtain ⟨rfl, rfl, rfl⟩ | ⟨rfl, rfl, rfl⟩ | ⟨rfl, rfl, rfl⟩ | ⟨rfl, rfl, rfl⟩ := hc <;> exact done_live hl _

theorem activeGroups_of_job {s t : State} (h : t.job = s.job) : activeGroups t = activeGroups s := by
  simp only [activeGroups, jobLanes, jobBeams, h]

/-- The silence of a group whose reading is not stale makes it stale (R250, R254). -/
theorem exec_backChannelSilent {g : Fin 4} {s : State} (hl : s.live) (hfresh : (plateOf g.val s).stale = false) :
    exec (.backChannelSilent g) s = .next (finish s
      (let t := { s with slc := { s.slc with
         plates := amPut (fun _ => Plate.reset) s.slc.plates g.val { plateOf g.val s with stale := true } } }
       thermal (plateMax s) (raiseIf (decide (g.val ∈ activeGroups s)) F.SLC_EVT_PLATE_STALE (raise F.LNK_EVT_BC_LOST t)))) := by
  have hgroups (t : State) (ht : t.job = s.job) : activeGroups (raise F.LNK_EVT_BC_LOST t) = activeGroups s :=
    activeGroups_of_job ((raise_job _ t).trans ht)
  show execBackChannelSilent g s = _
  rw [execBackChannelSilent]
  refine done_outcome hl ((if_neg (by rw [hfresh]; exact Bool.false_ne_true)).trans ?_)
  dsimp only
  exact congrArg (fun l => thermal (plateMax s) (raiseIf (decide (g.val ∈ l)) F.SLC_EVT_PLATE_STALE (raise F.LNK_EVT_BC_LOST _))) (hgroups _ rfl)

/-- Settles O25: a frame is bad or sound, and a sound one has the effect of its TYPE. -/
theorem backChannelFramesAreTaken : Obligations.BackChannelFramesAreTaken := by
  unfold Obligations.BackChannelFramesAreTaken
  refine ⟨bcBytes_data, fun g chars s hl => ⟨fun type len c hc => ⟨fun hnone => ?_, fun b hb hbad => ?_, fun b hb hok => ?_⟩,
    exec_backChannelSilent hl⟩⟩
  · rw [exec_bcFrame hl hc, bcFrame_no_bytes hnone]
  · rw [exec_bcFrame hl hc, bcFrame_bad hb hbad]
  · rw [exec_bcFrame hl hc, bcFrame_sound hb hok]
    rfl

/-! DISCARD and the loss of a clock (R286, R357, R361, R365). -/

/-- A reason that does not point to the lane is counted alone. -/
theorem countLane_counts {g phys reason : Nat} {s : State} (hphys : phys ≤ 8) (hphase : (s.grp g).phase ≠ 5)
    (hreason : lanePoints reason = false) : countLane g phys reason s = s.bump (discFld g phys) := by
  unfold countLane
  refine (if_neg (Nat.not_lt.2 hphys)).trans ?_
  have hstay : ((s.bump (discFld g phys)).grp g).phase ≠ 5 := hphase
  dsimp only
  rw [if_neg hstay, hreason]
  rfl

/-- A DISCARD outside a job, of a reason that is not the lane's. -/
theorem takeDiscard_no_job {g : Nat} {b : List Byte} {s : State} (hord : bcField b 2 2 ≠ 0xFFFF) (hjob : s.job = none)
    (hphys : bcField b 0 1 ≤ 8) (hreason : bcField b 12 1 = 0 ∨ bcField b 12 1 = 2) (hphase : (s.grp g).phase = 0) :
    takeDiscard g b s = ((((raise F.LNK_EVT_DISCARD s).setFld (F.LNK_GRP_DISC_DISC_RX g)
      (((raise F.LNK_EVT_DISCARD s).fld (F.LNK_GRP_DISC_DISC_RX g) + 1) % 65536)).updGrp g fun x =>
        { x with disc := (x.disc + 1) % 65536 }).bump (discFld g (bcField b 0 1))) := by
  have hpoints : lanePoints (bcField b 12 1) = false := by rcases hreason with h | h <;> rw [h] <;> rfl
  have hother : bcField b 12 1 ≠ 5 := by rcases hreason with h | h <;> rw [h] <;> decide
  have hdisc (t : State) (ht : t.lnk = s.lnk) : ((t.updGrp g fun x => { x with disc := (x.disc + 1) % 65536 }).grp g).phase ≠ 5 := by
    have hgrp : t.grp g = s.grp g := by rw [State.grp, State.grp, ht]
    rw [grp_updGrp, hgrp]
    show (s.grp g).phase ≠ 5
    rw [hphase]
    decide
  unfold takeDiscard
  dsimp only
  rw [if_neg hother, if_neg hord]
  split
  · next hopen =>
    have hnone : (some _ : Option _) = none := hopen.symm.trans ((updGrp_job _ _ _).trans ((setFld_job _ _ _).trans ((raise_job _ _).trans hjob)))
    exact absurd hnone (Option.some_ne_none _)
  · exact countLane_counts hphys (hdisc _ ((setFld_lnk _ _ _).trans (raise_lnk _ _))) hpoints

/-- Without an eligible standby a stopping event hands nothing over (R470). -/
theorem stopHand_alone {cause : Nat} {stop : State → State} {host : Option (BitVec 10)} {s : State} (h : pairOwner s = false) :
    stopHand cause stop host s = stop s := by
  unfold stopHand
  dsimp only
  rw [h]
  split
  · rfl
  · rfl

/-- Settles O26: the count of a DISCARD, and the stop that a lost clock decides. -/
theorem discardsCountAndClockLossStops : Obligations.DiscardsCountAndClockLossStops := by
  unfold Obligations.DiscardsCountAndClockLossStops
  refine ⟨fun g b s _ hord hjob hphys hreason hphase => takeDiscard_no_job hord hjob hphys hreason hphase,
    fun c s hl hloss hrun howner => ⟨fun hreports => ?_, fun hreports => ?_⟩⟩
  · have hsome : (c.reports.isEmpty || !running s) = false := by
      rw [hrun, List.isEmpty_eq_false_iff.2 hreports]; rfl
    show execClkFirstDecide s = _
    rw [execClkFirstDecide, hloss]
    exact done_outcome hl ((if_neg (by rw [hsome]; exact Bool.false_ne_true)).trans (stopHand_alone howner))
  · show execClkReportTimeout s = _
    rw [execClkReportTimeout, hloss]
    exact done_outcome hl ((if_neg (by rw [hrun, hreports]; decide)).trans (congrArg _ (stopHand_alone howner)))

end Sys2Proof.Machine
end

section
/-!
PROOFS. Forming and leaving the pair (R458, R459, R466) and the partner's messages (R460 to R468).
-/
namespace Sys2Proof.Machine

/-! The requests of the pair link. -/

/-- What remains of a state without its trace, registers and ports. -/
def State.apart (s : State) : State := { s with out := [], regs := [], cmd := Cmd.reset }

theorem writeRing_apart (p : Nat) (l : List Word) (s : State) : (writeRing p l s).apart = s.apart := by
  induction p, l, s using writeRing.induct with
  | case1 => rfl
  | case2 => rfl
  | case3 p s e o r ih => exact ih

theorem sendMsix_apart (v : Nat) (s : State) : (sendMsix v s).apart = s.apart := by
  unfold sendMsix
  split
  · split <;> rfl
  · rfl

theorem vector0_apart (s : State) : (vector0 s).apart = s.apart := by
  unfold vector0
  split
  · exact sendMsix_apart _ _
  · rfl

theorem sendReply_apart (p : Port) (tag : BitVec 10) (op st : Nat) (w : List Word) (s : State) :
    (sendReply p tag op st w s).apart = s.apart := by
  cases p
  · exact (vector0_apart _).trans (writeRing_apart _ _ _)
  · rfl
  · rfl

theorem sendReply_pair (p : Port) (tag : BitVec 10) (op st : Nat) (w : List Word) (s : State) : (sendReply p tag op st w s).pair = s.pair :=
  congrArg (·.pair) (sendReply_apart p tag op st w s)

theorem sendReply_lnk (p : Port) (tag : BitVec 10) (op st : Nat) (w : List Word) (s : State) : (sendReply p tag op st w s).lnk = s.lnk :=
  congrArg (·.lnk) (sendReply_apart p tag op st w s)

theorem checkElig_lnk (s : State) : (checkElig s).lnk = s.lnk := raiseIf_lnk _ _ _

theorem setPairSt_lnk (n : Nat) (s : State) : (setPairSt n s).lnk = s.lnk := checkElig_lnk _

theorem fn_withFn {p : Port} {h : Hdr} {v : Word} {w : List Word} {n : Nat} (hn : n < 16) :
    (mkReq p h 0x60 (withFn n (v :: w))).fn = n := by
  show wbits (setBits v 35 32 n) 35 32 = n
  rw [wbits_setBits_same _ _ _ _ (by decide) (by decide)]
  exact Nat.mod_eq_of_lt hn

/-- A PAIR_SYNC whose FN comes from its port. -/
theorem bodyPairSync_from {r : Req} (s : State) (h : fnFrom r = true) : bodyPairSync r s = (match r.fn with
    | 0 => if r.port = .host then hostJoin r s else peerJoin r s
    | 1 => pairMsg takeBeat r s
    | 2 => pairMsg takeTraj r s
    | 3 => pairMsg takeMark r s
    | 4 => pairMsg takeTile r s
    | 5 => pairMsg takeSlice r s
    | 6 => pairMsg takeJnl r s
    | 7 => bodyLeave r s
    | _ => bodyHandover r s) := by
  rw [bodyPairSync, h]
  rfl

/-! Forming the pair. -/

theorem tryJoin_none_kept {s : State} (h : s.pair.kept = none) : tryJoin s = s := by
  unfold tryJoin
  rw [h]
  split
  · next hk => cases hk
  · rfl

theorem tryJoin_none_waits {s : State} (h : s.pair.join = none) : tryJoin s = s := by
  unfold tryJoin
  rw [h]

theorem checkElig_kept (s : State) : (checkElig s).pair.kept = s.pair.kept :=
  show (checkElig s).inner.pair.kept = s.inner.pair.kept by rw [inner_checkElig]

theorem digestOf_taken (s : State) (r : Req) : digestOf (s.taken r) = digestOf s := by
  have hwords : digestWords (s.taken r) = digestWords s := by
    unfold digestWords
    rfl
  rw [digestOf, digestOf, hwords]

/-- JOIN of HOST waits where the partner has not joined and the link is down. -/
theorem hostJoin_waits {r : Req} {s : State} (hloaves : s.loaves = []) (hup : s.lnk.pair.up = false) (hkept : s.pair.kept = none) :
    hostJoin r s = setPairSt 1 { s with pair := { s.pair with join := some (r.tag, digestOf s, s.pair.st) } } := by
  have hdown : (setPairSt 1 { s with pair := { s.pair with join := some (r.tag, digestOf s, s.pair.st) } }).lnk.pair.up = false := by
    rw [setPairSt_lnk, hup]
  have hnone : (setPairSt 1 { s with pair := { s.pair with join := some (r.tag, digestOf s, s.pair.st) } }).pair.kept = none :=
    (checkElig_kept _).trans hkept
  unfold hostJoin
  refine (if_neg (by rw [hloaves]; decide)).trans ?_
  dsimp only
  rw [if_neg (by rw [hdown]; exact Bool.false_ne_true)]
  exact tryJoin_none_kept hnone

theorem peerJoin_kept {h : Hdr} {v w : Word} {s : State} (hfree : inFlight .partner h.tag s = false) (hjoin : s.pair.join = none) :
    peerJoin (mkReq .partner h 0x60 [v, w]) (s.taken (mkReq .partner h 0x60 [v, w])) =
      (let t := sendReply .partner h.tag 0x60 0x00 [] s
       { t with pair := { t.pair with kept := some (wbits w 31 0) } }) := by
  unfold peerJoin
  rw [reply_mkReq_taken (s := s) stOk [] hfree]
  exact tryJoin_none_waits hjoin

theorem unfollow_not_standby {s : State} (h : pairStandby s = false) : unfollow s = s := by
  unfold unfollow
  rw [h]
  rfl

theorem leavePair_alone {s : State} (hstand : pairStandby s = false) (hjoin : s.pair.join = none) :
    leavePair s = setPairSt 0 { s with pair := { s.pair with unacked := [], kept := none, handing := none, taking := none } } := by
  unfold leavePair
  rw [unfollow_not_standby hstand]
  dsimp only
  rw [hjoin]
  congr 3

theorem bodyLeave_host {h : Hdr} {w : List Word} {s : State} (hfree : inFlight .host h.tag s = false) (hstand : pairStandby s = false)
    (hup : s.lnk.pair.up = false) (hjoin : s.pair.join = none) :
    bodyLeave (mkReq .host h 0x60 w) (s.taken (mkReq .host h 0x60 w)) =
      (let t := sendReply .host h.tag 0x60 0x00 [] s
       setPairSt 0 { t with pair := { t.pair with unacked := [], kept := none, handing := none, taking := none } }) := by
  unfold bodyLeave
  rw [reply_mkReq_taken (s := s) stOk [] hfree]
  dsimp only
  have hpair := sendReply_pair .host h.tag 0x60 stOk [] s
  have hlnk := sendReply_lnk .host h.tag 0x60 stOk [] s
  have halone : pairStandby (sendReply .host h.tag 0x60 stOk [] s) = false :=
    (pairStandby_of_inner (inner_sendReply _ _ _ _ _ _)).trans hstand
  rw [leavePair_alone halone (by rw [hpair, hjoin]), setPairSt_lnk]
  refine if_neg fun hsend => Bool.false_ne_true (hup.symm.trans ?_)
  rw [← hlnk]
  exact hsend.2

/-- Settles O27: each row reaches its body, and the body leaves the state that waits, is kept or is left. -/
theorem pairFormsAndParts : Obligations.PairFormsAndParts := by
  unfold Obligations.PairFormsAndParts
  refine ⟨fun h w s hl hs hloaves hup hkept => ?_, fun h v w s hl hs hjoin => ?_, fun tag d st s hl hjoin => ?_,
    fun h w s hl hs hstand hup hjoin => ?_⟩
  · refine request_outcome hl hs ((bodyPairSync_from _ (by rw [fnFrom, fn_withFn (by decide)]; rfl)).trans ?_)
    rw [fn_withFn (by decide)]
    refine (hostJoin_waits (s := s.taken _) hloaves hup hkept).trans ?_
    rw [digestOf_taken]
    rfl
  · refine request_outcome hl hs ((bodyPairSync_from _ (by rw [fnFrom, fn_withFn (by decide)]; rfl)).trans ?_)
    rw [fn_withFn (by decide)]
    exact peerJoin_kept hs.free hjoin
  · show execJoinTimeout s = _
    rw [execJoinTimeout, hjoin]
    exact done_live hl _
  · refine request_outcome hl hs ((bodyPairSync_from _ (by rw [fnFrom, fn_withFn (by decide)]; rfl)).trans ?_)
    rw [fn_withFn (by decide)]
    exact bodyLeave_host hs.free hstand hup hjoin

/-! The partner's messages. -/

/-- What a message of each FN does in a formed pair (R465). -/
def pairAct : Nat → Req → State → State
  | 1 => takeBeat
  | 2 => takeTraj
  | 3 => takeMark
  | 4 => takeTile
  | 5 => takeSlice
  | _ => takeJnl

theorem bodyPairSync_message {r : Req} {n : Nat} (s : State) (hp : r.port = .partner) (hfn : r.fn = n) (h1 : 1 ≤ n) (h6 : n ≤ 6) :
    bodyPairSync r s = pairMsg (pairAct n) r s := by
  have hfrom : fnFrom r = true := by
    rw [fnFrom, hfn, hp]
    interval_cases n <;> rfl
  rw [bodyPairSync_from s hfrom, hfn]
  interval_cases n <;> rfl

/-- A message of the partner is acknowledged, and acts in a formed pair (R466). -/
theorem message_outcome {h : Hdr} {v : Word} {w : List Word} {n : Nat} {s u : State} (h1 : 1 ≤ n) (h6 : n ≤ 6) (hl : s.live)
    (hs : Starts (mkReq .partner h 0x60 (withFn n (v :: w))) s)
    (hu : (if s.pair.st < 2 then sendReply .partner h.tag 0x60 0x00 [] s
      else pairAct n (mkReq .partner h 0x60 (withFn n (v :: w))) (sendReply .partner h.tag 0x60 0x00 [] s)) = u) :
    done s (takeReq bodyPairSync (mkReq .partner h 0x60 (withFn n (v :: w))) s) = .next (finish s u) := by
  refine request_outcome hl hs ((bodyPairSync_message _ rfl (fn_withFn (by omega)) h1 h6).trans (Eq.trans ?_ hu))
  unfold pairMsg
  rw [reply_mkReq_taken (s := s) stOk [] hs.free]
  rfl

/-- In a formed pair the message acts on the state that has acknowledged it. -/
theorem message_acts {h : Hdr} {v : Word} {w : List Word} {n : Nat} {s u : State} (h1 : 1 ≤ n) (h6 : n ≤ 6) (hl : s.live)
    (hs : Starts (mkReq .partner h 0x60 (withFn n (v :: w))) s) (hst : 2 ≤ s.pair.st)
    (hu : pairAct n (mkReq .partner h 0x60 (withFn n (v :: w))) (sendReply .partner h.tag 0x60 0x00 [] s) = u) :
    done s (takeReq bodyPairSync (mkReq .partner h 0x60 (withFn n (v :: w))) s) = .next (finish s u) :=
  message_outcome h1 h6 hl hs ((if_neg (Nat.not_lt.2 hst)).trans hu)

theorem st_of_standby {s : State} (h : pairStandby s = true) : s.pair.st = 2 := by
  simp only [pairStandby, Bool.and_eq_true, beq_iff_eq] at h
  exact h.1.1

theorem checkElig_waits (s : State) : (checkElig s).pair.armWait = s.pair.armWait ∧ (checkElig s).pair.startWait = s.pair.startWait := by
  have shown {α : Type} (f : State → α) : f (checkElig s).inner = f s.inner := congrArg f (inner_checkElig s)
  exact ⟨shown (·.pair.armWait), shown (·.pair.startWait)⟩

theorem followArm_none_waits {s : State} (h : s.pair.armWait = none) : followArm s = s := by
  unfold followArm
  rw [h]

theorem followStart_none_waits {s : State} (h : s.pair.startWait = none) : followStart s = s := by
  unfold followStart
  rw [h]

/-- With no command that follows the owner, a BEAT is kept and shown. -/
theorem takeBeat_alone {r : Req} {s : State} (harm : s.pair.armWait = none) (hstart : s.pair.startWait = none) :
    takeBeat r s =
      (let b : Beat := { ready := r.fld 2 35 19, core := r.fld 2 18 16, ord := r.fld 2 15 0, launched := r.fld 3 31 0,
                         gm := r.fld 4 35 0 + r.fld 5 27 0 * 2 ^ 36, locked := r.fld 6 0 0 == 1, expHeld := r.fld 6 1 1 == 1,
                         tick := s.tb.ticks }
       checkElig (checkElig (({ s with pair := { s.pair with beat := some b } }.setReg A.PAIR_PEER (r.word 2)).setFld
         F.PAIR_PEER_LNCH_LAUNCHED b.launched))) := by
  refine congrArg checkElig ((congrArg followStart (followArm_none_waits ?_)).trans (followStart_none_waits ?_))
  · exact (checkElig_waits _).1.trans harm
  · exact (checkElig_waits _).2.trans hstart

theorem takeMark_epoch {r : Req} {s : State} (hstand : pairStandby s = true) (hkind : r.markKind = 1) :
    takeMark r s = { s with pair := { s.pair with markEpochs := s.pair.markEpochs ++ [(r.fld 3 31 0, r.fld 4 31 0)] } } :=
  (if_neg (by rw [hstand]; decide)).trans (if_pos hkind)

theorem takePeerTile_waits {x : PeerTile} {s : State} (h : s.pair.ownTiles = []) :
    takePeerTile x s = { s with pair := { s.pair with peerTiles := s.pair.peerTiles ++ [x] } } := by
  unfold takePeerTile
  rw [h]
  rfl

theorem takePeerSlice_waits {x : PeerSlice} {s : State} (h : s.pair.ownSlices = []) :
    takePeerSlice x s = { s with pair := { s.pair with peerSlices := s.pair.peerSlices ++ [x] } } := by
  unfold takePeerSlice
  rw [h]
  rfl

theorem takeTile_waits {r : Req} {b : Beat} {s : State} (hbeat : s.pair.beat = some b) (hown : s.pair.ownTiles = []) :
    takeTile r s = { s with pair := { s.pair with peerTiles := s.pair.peerTiles ++
      [{ ord := b.ord, row := r.fld 2 31 16, col := r.fld 2 4 0, k := (r.word 3).toNat, a := (r.word 4).toNat }] } } := by
  rw [takeTile, peerOrd, hbeat]
  exact takePeerTile_waits hown

theorem takeSlice_waits {r : Req} {b : Beat} {s : State} (hbeat : s.pair.beat = some b) (hown : s.pair.ownSlices = []) :
    takeSlice r s = { s with pair := { s.pair with peerSlices := s.pair.peerSlices ++
      [{ ord := b.ord, n := r.fld 2 31 0, clean := r.fld 2 35 35 == 1, pcrc := (r.w.drop 2).map BitVec.toNat }] } } := by
  rw [takeSlice, peerOrd, hbeat]
  exact takePeerSlice_waits hown

theorem mirrorEnt_not_range {e : JEnt} {s : State} (h : e.isRange = false) : mirrorEnt e s = commitEnt e s :=
  if_pos (by rw [h]; rfl)

/-- Settles O28: each message reaches its act by its FN. -/
theorem pairMessagesAreTaken : Obligations.PairMessagesAreTaken := by
  unfold Obligations.PairMessagesAreTaken
  intro h v w s hl rq t f
  refine ⟨fun fn c hc hs hst => ?_, fun hs hst harm hstart => ?_, fun hs hstand => ?_, fun hs hstand hkind => ?_, fun b hs hst hbeat hown => ?_,
    fun b hs hst hbeat hown => ?_, fun hs hst hown hrange => ?_⟩
  · have single (n : Nat) (h1 : 1 ≤ n) (h6 : n ≤ 6) (hs : Starts (rq n) s) :
        done s (takeReq bodyPairSync (mkReq .partner h 0x60 (withFn n (v :: w))) s) = .next (finish s t) :=
      message_outcome h1 h6 hl hs (if_pos hst)
    obtain ⟨rfl, rfl⟩ | ⟨rfl, rfl⟩ | ⟨rfl, rfl⟩ | ⟨rfl, rfl⟩ | ⟨rfl, rfl⟩ | ⟨rfl, rfl⟩ := hc <;> exact single _ (by decide) (by decide) hs
  · exact message_acts (n := 1) (by decide) (by decide) hl hs hst (takeBeat_alone (s := t) harm hstart)
  · exact message_acts (n := 2) (by decide) (by decide) hl hs (st_of_standby hstand).ge
      (if_neg (show ¬(!pairStandby s) = true by rw [hstand]; decide))
  · exact message_acts (n := 3) (by decide) (by decide) hl hs (st_of_standby hstand).ge (takeMark_epoch (s := t) hstand hkind)
  · exact message_acts (n := 4) (by decide) (by decide) hl hs hst (takeTile_waits (s := t) hbeat hown)
  · exact message_acts (n := 5) (by decide) (by decide) hl hs hst (takeSlice_waits (s := t) hbeat hown)
  · exact message_acts (n := 6) (by decide) (by decide) hl hs hst
      ((if_neg (show ¬s.pair.own = true by rw [hown]; exact Bool.false_ne_true)).trans (mirrorEnt_not_range hrange))

end Sys2Proof.Machine
end

section
/-!
PROOFS. The token of the pair: handed over (R466, R470, R471), and taken (R471 to R473).
-/
namespace Sys2Proof.Machine

/-! Handed over. -/

theorem bodyHandover_of_job {r : Req} {s : State} (hcore : s.core = .job) :
    bodyHandover r s = (if !pairOwner s || s.pair.handing.isSome then refuse r stBadState s
      else if followReady s then sendTakeover 0xFFFFFFFF s.draw.2.quarter cTakeover (s.draw.1 % 2 ^ 16) (some r.tag) true s.draw.2
      else refuse r stBadState s) := by
  rw [bodyHandover, hcore]

/-- HANDOVER in JOB asks a partner that follows (R466). -/
theorem bodyHandover_job {r : Req} {s : State} (howner : pairOwner s = true) (hnone : s.pair.handing = none) (hcore : s.core = .job)
    (hready : followReady s = true) :
    bodyHandover r s = sendTakeover 0xFFFFFFFF s.quarter cTakeover (Config.freeNat s.fresh % 2 ^ 16) (some r.tag) true
      { s with fresh := s.fresh + 1 } := by
  refine (bodyHandover_of_job hcore).trans ((if_neg ?_).trans (if_pos hready))
  rw [howner, hnone]
  decide

/-- A PAIR_TAKEOVER outside JOB that an eligible standby agrees to (R471). -/
theorem bodyPairTakeover_agrees {r : Req} {s : State} (hstand : pairStandby s = true) (hnone : s.pair.taking = none)
    (helig : eligible s = true) (hfirst : r.fld 1 31 0 ≠ 0xFFFFFFFF) :
    bodyPairTakeover r s = r.reply stOk [] { s with pair := { s.pair with taking := some {
      first := r.fld 1 31 0, lFirst := (r.word 2).toNat + r.fld 3 29 0 * 2 ^ 36, cause := r.fld 4 19 16, ord := r.fld 4 15 0,
      seen := !s.pins.peerOwn, taken := false, unasked := false, inJob := false } } } := by
  have hjob : decide (r.fld 1 31 0 = 0xFFFFFFFF ∧ r.fld 4 19 16 = cTakeover) = false := decide_eq_false fun h => hfirst h.1
  unfold bodyPairTakeover
  dsimp only
  rw [hjob]
  exact if_neg (by simp [hstand, hnone, helig])

theorem setTko_lch (cause : Nat) (took unasked : Bool) (first : Nat) (s : State) : (setTko cause took unasked first s).lch = s.lch := by
  simp only [setTko, setFld_lch]

/-- A takeover that is due passes the token: with a loaf that still ends, the old owner keeps its record (R471). -/
theorem passIfDue_loaf {x : Handing} {s : State} (hx : s.pair.handing = some x) (hpassed : x.passed = false) (hok : x.ok = true)
    (hdue : x.lFirst ≤ s.quarter) (hjob : x.inJob = false) (hhost : x.host = none) (hrun : s.lch.run ≠ none) :
    passIfDue s = checkElig (setTko x.cause false false x.first (raise F.PAIR_EVT_HANDED
      { s with pair := { s.pair with own := false, handing := some { x with passed := true } } })) := by
  unfold passIfDue
  rw [hx]
  refine (if_pos (by rw [hok, decide_eq_true hdue]; rfl)).trans ?_
  unfold passToken
  rw [hx]
  refine (if_neg (by rw [hpassed]; exact Bool.false_ne_true)).trans ?_
  dsimp only
  rw [hjob, hhost]
  refine congrArg checkElig (if_neg ?_)
  simp [setTko_lch, Option.isNone_iff_eq_none, hrun]

theorem keepToken_asked {status : Nat} {x : Handing} {s : State} (hx : s.pair.handing = some x) (hpassed : x.passed = false) :
    keepToken status s = setPairSt 3 (match x.host with
      | some tag => answer .host tag status [] { s with pair := { s.pair with handing := none } }
      | none => { s with pair := { s.pair with handing := none } }) := by
  unfold keepToken
  rw [hx]
  exact if_neg (by rw [hpassed]; exact Bool.false_ne_true)

/-- Settles O29: what is asked, agreed, acknowledged, passed or kept. -/
theorem tokenIsHandedOver : Obligations.TokenIsHandedOver := by
  unfold Obligations.TokenIsHandedOver
  refine ⟨fun h w s hl hs howner hnone hcore hready => ⟨Config.freeNat s.fresh % 2 ^ 16, ?_⟩, fun h a b c d s hl hs hstand hnone helig hfirst => ?_, fun tag s hl => ?_,
    fun x s hl hx hpassed => ⟨fun hok hdue hjob hhost hrun => ?_, fun hok hhost => ?_, fun tag hok hhost => ?_⟩⟩
  · refine request_outcome hl hs ((bodyPairSync_from _ (by rw [fnFrom, fn_withFn (n := 8) (by decide)]; rfl)).trans ?_)
    rw [fn_withFn (n := 8) (by decide)]
    exact bodyHandover_job (s := s.taken _) howner hnone hcore hready
  · refine request_outcome hl hs ((bodyPairTakeover_agrees (r := mkReq .partner h 0x61 [a, b, c, d]) (s := s.taken _) hstand hnone helig hfirst).trans ?_)
    exact reply_mkReq_taken (s := { s with pair := { s.pair with taking := some {
        first := wbits a 31 0, lFirst := b.toNat + wbits c 29 0 * 2 ^ 36, cause := wbits d 19 16, ord := wbits d 15 0,
        seen := !s.pins.peerOwn, taken := false, unasked := false, inJob := false } } }) stOk [] hs.free
  · exact done_outcome hl ((if_neg fun h => absurd h.1 (by decide)).trans (if_pos ⟨rfl, rfl⟩))
  · exact done_outcome hl (passIfDue_loaf hx hpassed hok hdue hjob hhost hrun)
  · show execTakeoverReplyTimeout s = _
    rw [execTakeoverReplyTimeout, hx]
    refine done_outcome hl ((if_neg (by simp [hok, hhost])).trans ?_)
    rw [keepToken_asked hx hpassed, hhost]
  · show execHandoverTimeout s = _
    rw [execHandoverTimeout, hx]
    refine done_outcome hl ((if_neg (by simp [hok, hhost])).trans ?_)
    rw [keepToken_asked hx hpassed, hhost]
    rfl

/-! Taken. -/

theorem quietEnd_no_run {s : State} (h : s.lch.run = none) :
    quietEnd s = { s with pair := { s.pair with mirror := [] }, lch := { s.lch with openEnts := [] } } := by
  unfold quietEnd
  dsimp only
  rw [h]

/-- A standby that waits for nothing and runs no loaf stops following (R474). -/
theorem unfollow_standby {s : State} (hstand : pairStandby s = true) (harm : s.pair.armWait = none) (hstart : s.pair.startWait = none)
    (hrun : s.lch.run = none) :
    unfollow s = { s with pair := { s.pair with mirror := [] }, lch := { s.lch with openEnts := [] } } := by
  unfold unfollow
  refine (if_neg (by rw [hstand]; decide)).trans ?_
  dsimp only
  rw [if_neg (show ¬s.pair.armWait.isSome = true by rw [harm]; decide), if_neg (show ¬s.pair.startWait.isSome = true by rw [hstart]; decide)]
  exact quietEnd_no_run hrun

theorem taking_map_none {x : Pair} (h : x.taking = none) (f : Taking → Taking) : { x with taking := x.taking.map f } = x := by
  cases x
  subst h
  rfl

/-- PEER_OWN_N is followed, held in reset or not. -/
theorem exec_peerOwnNChange {b : Bool} {s : State} (hnone : s.pair.taking = none) :
    exec (.peerOwnNChange b) s = .next (finish s { s with pins := { s.pins with peerOwn := b } }) := by
  show execPeerOwnNChange b s = _
  unfold execPeerOwnNChange donePin
  dsimp only
  rw [taking_map_none hnone, ite_self]

/-- Settles O30: each event in the phase of the takeover. -/
theorem tokenIsTaken : Obligations.TokenIsTaken := by
  unfold Obligations.TokenIsTaken
  refine ⟨fun b s hl hnone => exec_peerOwnNChange hnone, fun x s hl hx htaken => ⟨fun hseen hjob hpeer => ?_,
    fun hpeer hstand harm hstart hrun => ?_⟩, fun s hl hstand hold hnone => ⟨fun hpeer harm hstart hrun => ?_, fun hpeer => ?_⟩,
    fun x s hl hx htaken hseen => ?_, fun tag s hl htag hstand => ?_, fun o s hl hup hord => ?_⟩
  · show execTokenGapExpire s = _
    rw [execTokenGapExpire, hx]
    refine done_outcome hl ((if_pos (by rw [hseen, htaken, hpeer]; rfl)).trans ?_)
    unfold takeToken
    exact (if_pos hjob).trans (by rw [hjob]; rfl)
  · show execStandbyTakeTimeout s = _
    rw [execStandbyTakeTimeout, hx]
    refine done_outcome hl ((if_neg (by rw [htaken, hpeer]; decide)).trans (congrArg (setPairSt 3) ?_))
    exact unfollow_standby (s := { s with pair := { s.pair with taking := none } }) hstand harm hstart hrun
  · exact done_outcome hl ((if_neg (by rw [hstand, hold, hnone]; decide)).trans ((if_pos hpeer).trans (congrArg (setPairSt 3)
      (unfollow_standby hstand harm hstart hrun))))
  · intro n x
    exact done_outcome hl ((if_neg (by rw [hstand, hold, hnone]; decide)).trans (if_neg (by rw [hpeer]; exact Bool.false_ne_true)))
  · have hawaits : awaitsToken s = true := by
      rw [awaitsToken, hx]
      exact (congrArg₂ and htaken hseen).trans rfl
    show execTokenFrameTimeout s = _
    rw [execTokenFrameTimeout, hx]
    exact done_outcome hl (if_pos hawaits)
  · show execLoafStartHoldTimeout s = _
    rw [execLoafStartHoldTimeout, htag]
    exact done_outcome hl (if_neg (by rw [hstand]; exact Bool.false_ne_true))
  · show execBeatSend s = _
    rw [execBeatSend, hord]
    refine done_outcome hl ((if_pos hup).trans ?_)
    rw [if_pos (show (some o).isSome = true from rfl)]
    dsimp only
    rw [beatWords, hord]
    rfl

end Sys2Proof.Machine
end

section
/-!
PROOFS. The resets (R485 to R488), the journal's dump (R299, R446) and the boot (R489 to R492).
-/
namespace Sys2Proof.Machine

/-! Resets. -/

theorem next_finish {s t u : State} (h : t = u) : (.next (finish s t) : Host.Outcome State Fault Refusal) = .next (finish s u) := by rw [h]

/-- The reset state with what the rules keep: the model's own fields, the flash, PWR_RST_CAUSE and the inputs. -/
def resetKeeping (u : State) (regs : AMap Word) (pin : Bool) : State :=
  { State.reset with
    pending := u.pending, out := u.out, fresh := u.fresh, epoch := u.epoch, regs := regs, tap := u.tap,
    boundary := u.boundary,
    nvm := { State.reset.nvm with flash := u.nvm.flash },
    pins := { State.reset.pins with
      resetN := pin, interlock := u.pins.interlock, recovery := u.pins.recovery, sideB := u.pins.sideB, peerOwn := u.pins.peerOwn } }

theorem deviceReset_keeps (cause : Nat) (s : State) : deviceReset cause s =
    resetKeeping (tearFlash s) (amPut resetWord [] A.PWR_RST_CAUSE (rstCauseWord cause (tearFlash s)))
      ((tearFlash s).pins.resetN || cause == rstPin) := rfl

theorem deviceReset_pin (s : State) : deviceReset rstPin s =
    resetKeeping (tearFlash s) (amPut resetWord [] A.PWR_RST_CAUSE (rstCauseWord rstPin (tearFlash s))) true := by
  rw [deviceReset_keeps, beq_self_eq_true, Bool.or_true]

theorem deviceReset_not_pin {cause : Nat} (h : (cause == rstPin) = false) (s : State) : deviceReset cause s =
    resetKeeping (tearFlash s) (amPut resetWord [] A.PWR_RST_CAUSE (rstCauseWord cause (tearFlash s))) (tearFlash s).pins.resetN := by
  rw [deviceReset_keeps, h, Bool.or_false]

/-- POWER resets PWR_RST_CAUSE too. -/
theorem deviceReset_power (s : State) : deviceReset rstPower s = resetKeeping (tearFlash s) [] (tearFlash s).pins.resetN := by
  rw [deviceReset_not_pin rfl, rstCauseWord, if_pos rfl, amPut, if_pos rfl]
  rfl

theorem sendReply_nvm (p : Port) (tag : BitVec 10) (op st : Nat) (w : List Word) (s : State) : (sendReply p tag op st w s).nvm = s.nvm :=
  congrArg (·.nvm) (sendReply_apart p tag op st w s)

/-- RESET_SOFT with nothing exposed replies and begins the dump. -/
theorem bodyResetSoft_dumps {p : Port} {h : Hdr} {w : List Word} {s : State} (hfree : inFlight p h.tag s = false) (harmed : s.core ≠ .armed)
    (hexp : s.core ≠ .exposing) (her : s.nvm.jnlErased = true) :
    bodyResetSoft (mkReq p h 0x7F w) (s.taken (mkReq p h 0x7F w)) =
      (let t := sendReply p h.tag 0x7F 0x00 [] s
       { t with pwr := { t.pwr with dump := some .soft } }) := by
  unfold bodyResetSoft
  refine (if_neg ?_).trans ((if_neg ?_).trans ?_)
  · rintro ⟨hc, -⟩
    exact hc.elim harmed hexp
  · rw [taken_nvm, her]
    decide
  · dsimp only
    rw [if_neg (show ¬(s.taken _).core = .exposing from hexp), reply_mkReq_taken (s := s) stOk [] hfree]
    exact if_pos ((congrArg (·.jnlErased) (sendReply_nvm _ _ _ _ _ _)).trans her)

/-- Settles O31: each source resets at once, or begins or ends a dump. -/
theorem resetsLeaveTheResetState : Obligations.ResetsLeaveTheResetState := by
  unfold Obligations.ResetsLeaveTheResetState
  intro s u left kept
  refine ⟨fun hpin => ?_, next_finish (deviceReset_power s), fun hl hfail hdump => ⟨fun her => ?_, fun her => ?_,
    fun p h w hs harmed hexp her => ?_⟩, fun hl hfail hdump => ?_⟩
  · show donePin s (if s.pins.resetN then s else deviceReset rstPin s) = _
    rw [hpin, if_neg Bool.false_ne_true, deviceReset_pin]
    rfl
  · exact done_outcome hl ((if_neg (by rw [hfail, hdump]; decide)).trans (if_pos her))
  · exact done_outcome hl ((if_neg (by rw [hfail, hdump]; decide)).trans ((if_neg (by rw [her]; decide)).trans (deviceReset_not_pin rfl s)))
  · exact request_outcome hl hs (bodyResetSoft_dumps hs.free harmed hexp her)
  · have hcause : dumpCause s = some rstSoft := by rw [dumpCause, hfail, hdump]; rfl
    show execJournalDumpEnd s = _
    rw [execJournalDumpEnd, hcause]
    exact done_outcome hl (deviceReset_not_pin rfl s)

/-! The journal's dump. -/

theorem chunks_flatten (fuel : Nat) (l : List JEnt) (h : l.length ≤ fuel) : (chunks fuel l).flatten = l := by
  induction fuel generalizing l with
  | zero => exact (List.length_eq_zero_iff.1 (Nat.le_zero.1 h)).symm
  | succ n ih =>
    unfold chunks
    split
    · next hl => exact (List.isEmpty_iff.1 hl).symm
    · rw [List.flatten_cons, ih _ (by rw [List.length_drop]; omega), List.take_append_drop]

theorem chunks_length (fuel : Nat) (l : List JEnt) : ∀ c ∈ chunks fuel l, c.length ≤ 256 := by
  induction fuel generalizing l with
  | zero => intro c hc; cases hc
  | succ n ih =>
    unfold chunks
    split
    · intro c hc; cases hc
    · intro c hc
      rcases List.mem_cons.1 hc with rfl | hc
      · exact List.length_take_le _ _
      · exact ih _ c hc

theorem chunks_ne_nil {l : List JEnt} (n : Nat) (h : l ≠ []) : chunks (n + 1) l ≠ [] := by
  unfold chunks
  rw [if_neg (by simpa using h)]
  exact List.cons_ne_nil _ _

/-- With nothing dropped before, a dump writes the journal alone. -/
theorem dumpJournal_alone {h : Nat} {s : State} (her : s.nvm.jnlErased = true) (hhalf : dumpHalf s.nvm.flash = some h)
    (hdrop : s.fld F.TB_JNL_DROP_DROPPED = 0) :
    dumpJournal s = (let t := writeDump s.jnl.length (dumpStart h) (highSeq s.nvm.flash + 1) 0 (chunks (s.jnl.length + 1) s.jnl) s
      if (chunks (s.jnl.length + 1) s.jnl).isEmpty then t else { t with nvm := { t.nvm with jnlErased := false } }) := by
  unfold dumpJournal
  rw [her, hhalf]
  dsimp only
  rw [hdrop, if_pos rfl, if_pos rfl, List.append_nil]
  rfl

/-- Settles O32: the entries stand in the records in their order. -/
theorem journalDumpWritesTheEntries : Obligations.JournalDumpWritesTheEntries := by
  unfold Obligations.JournalDumpWritesTheEntries
  intro h s hl hdump her hhalf hdrop
  have hruns : (s.pwr.dump.isSome || s.pwr.failing) = true := by
    obtain ⟨f, hf⟩ := Option.ne_none_iff_exists'.1 hdump
    rw [hf]
    rfl
  have hexec : exec .journalDump s = .next (finish s (dumpJournal s)) := done_outcome hl (if_pos hruns)
  refine ⟨fun hnil => ?_, fun hsome => ⟨chunks_flatten _ _ (Nat.le_succ _), chunks_length _ _, ?_⟩⟩
  · rw [hexec, dumpJournal_alone her hhalf hdrop, hnil]
    rfl
  · rw [hexec, dumpJournal_alone her hhalf hdrop]
    exact next_finish (if_neg (by simpa using chunks_ne_nil s.jnl.length hsome))

/-! The boot. -/

/-- The boot of a device that nothing else holds, with INTERLOCK_N deasserted. -/
theorem exec_boot {v : Option (BitVec 8)} {ack : Bool} {m : BitVec 64} {s : State} (hcore : s.core = .boot) (hdrive : s.pwr.driving = false)
    (hint : s.pins.interlock = false) (htap : s.tap = .idcode ∨ s.tap = .bypass ∨ s.tap = .sample) :
    exec (.boot v ack m) s = .next (finish s
      (let t := { s with pins := { s.pins with resetN := false }, pwr := { s.pwr with driving := true }, cmd := { s.cmd with uart := true } }
       let x := selectSlot (bootPmbus v ack t)
       let u := bootJournal (bootHbm m.toNat (bootTrims x.2))
       if x.1 then { u with pwr := { u.pwr with booting := true, enabling := true } } else { u with core := .recovery })) := by
  have hfree : ¬(s.core ≠ .boot ∨ s.pwr.driving = true ∨ heldInReset { s with pins := { s.pins with resetN := false } } = true) := by
    rintro (h | h | h)
    · exact h hcore
    · rw [hdrive] at h; cases h
    · rcases htap with ht | ht | ht <;> simp [heldInReset, ht] at h
  show execBoot v ack m s = _
  unfold execBoot donePin
  dsimp only
  rw [if_neg hfree]
  refine next_finish ?_
  unfold bootDevice
  dsimp only
  rw [if_neg (show ¬s.pins.interlock = true by rw [hint]; exact Bool.false_ne_true)]

theorem exec_clusterEnableStep {s : State} (hl : s.live) (hen : s.pwr.enabling = true) (hjob : flightsOp .host 0x10 s = []) :
    exec .clusterEnableStep s = .next (finish s
      { s with pwr := { s.pwr with clOn := s.pwr.clOn + 1, enabling := decide (s.pwr.clOn + 1 < 64) } }) :=
  done_outcome hl ((if_neg (by rw [hen]; decide)).trans (tryOpenJob_none (s := { s with pwr := _ }) hjob))

/-- A half of `n` sectors, erased. -/
def halfErased (n h : Nat) (s : State) : State := (List.range n).foldl (fun s i => eraseSector (jnlArea.half h + 4096 * i) s) s

theorem halfErased_ns (n h : Nat) (s : State) : (halfErased n h s).ns = s.ns :=
  foldl_same (f := fun s i => eraseSector (jnlArea.half h + 4096 * i) s) State.ns (fun _ _ => rfl) _ s

/-- A half erased and marked with an instant. -/
def halfMarked (n h ns : Nat) (s : State) : State :=
  let u := programFlash (jnlArea.half h) (recordBytes 0x21 (highSeq s.nvm.flash + 1) (ns % 2 ^ 36) []) (halfErased n h s)
  { u with nvm := { u.nvm with jnlErased := true } }

/-- The half that the next dump takes, beside the present one (R446). -/
def otherHalf : Option Nat → Nat
  | some h => 1 - h
  | none => 0

/-- The other half is erased and marked where none is ready (R446). -/
theorem exec_journalMarkDone {s : State} (hl : s.live) (her : s.nvm.jnlErased = false) (hdrive : s.pwr.driving = true)
    (hfail : s.pwr.failing = false) (hdump : s.pwr.dump = none) :
    exec .journalMarkDone s = .next (finish s (halfMarked 512 (otherHalf (dumpHalf s.nvm.flash)) s.ns s)) := by
  have hready : (s.nvm.jnlErased || !s.pwr.driving || s.pwr.failing || s.pwr.dump.isSome) = false := by
    rw [her, hdrive, hfail, hdump]
    rfl
  rw [← halfErased_ns 512 (otherHalf (dumpHalf s.nvm.flash)) s]
  show execJournalMarkDone s = _
  unfold execJournalMarkDone halfMarked halfErased
  refine done_outcome hl ((if_neg (by rw [hready]; exact Bool.false_ne_true)).trans ?_)
  cases dumpHalf s.nvm.flash <;> dsimp only [otherHalf] <;> rw [show jnlArea.size / 4096 = 512 from rfl]

/-- Settles O33: the boot, the clusters' steps and the mark of a half. -/
theorem bootStartsTheDevice : Obligations.BootStartsTheDevice := by
  unfold Obligations.BootStartsTheDevice
  refine ⟨fun v ack m s hcore hdrive hint htap => exec_boot hcore hdrive hint htap, fun s hl hen hjob => exec_clusterEnableStep hl hen hjob,
    fun s hl her hdrive hfail hdump => ?_⟩
  have h := exec_journalMarkDone hl her hdrive hfail hdump
  unfold halfMarked halfErased at h
  cases hd : dumpHalf s.nvm.flash <;> rw [hd] at h <;> dsimp only [otherHalf] at h ⊢ <;> rw [h]

end Sys2Proof.Machine
end

section
/-!
PROOFS. Writes of registers that store nothing, SAFE (R316, R481 to R483, R498 to R502), voltage and temperature (R493 to R497).
-/
namespace Sys2Proof.Machine

/-! A register whose fields a write leaves alone. -/

/-- Does a register stand at an address, with no field that a write stores? -/
def storesNone (addr : Nat) : Bool :=
  match regRow addr with
  | some r => r.fields.all fun f => f.acc == .ro || f.acc == .wo
  | none => false

theorem storesNone_iff {addr : Nat} : storesNone addr = true ↔ ∃ r, regRow addr = some r ∧ ∀ f ∈ r.fields, f.acc = .ro ∨ f.acc = .wo := by
  unfold storesNone
  split
  · next r h => simp [h]
  · simp [*]

/-- A write that its register does not refuse does what the register's write does (R42). -/
theorem rowWrite_stores_none {p : Port} {addr : Nat} {v : Word} {s : State} (ha : addr % 8 = 0) (hw : writeRight p addr s = none)
    (hrow : storesNone addr = true) (hx : 4 ≤ faultAxis addr) (hr : refusesWhole addr v s = false)
    (hk : relationOk addr (s.getReg addr) s = true) (hne : addr ≠ A.CAL_TRIM_DATA) :
    rowWrite p addr v s = wrote addr v s (s.setReg addr (s.getReg addr)) := by
  obtain ⟨r, hreg, hf⟩ := storesNone_iff.1 hrow
  rw [rowWrite_register _ ha hw hreg, applyWrite_taken (heeded_no_axis _ _ hx) hr (takeFields_read_only _ _ hf) hk hne]

/-! SAFE. -/

theorem disarm_not_armed {s : State} (h : s.core ≠ .armed) : disarm s = s := by
  unfold disarm
  split
  · exact absurd ‹_› h
  · rfl

/-- Every move of a device that neither homes nor arms stops. -/
theorem armBroken_stopAllMotion {s : State} (hhome : s.mot.home = none) (harm : s.mot.arm = none) :
    armBroken (stopAllMotion s) = stopMoves (fun _ => true) s := by
  rw [stopAllMotion_no_home hhome, armBroken_no_arm (show (stopMoves (fun _ => true) s).mot.arm = none from harm)]

/-- SAFE is entered from IDLE or JOB with every move stopped (R482). -/
theorem enterSafe_at_rest {cause : Nat} {s : State} (hcore : s.core = .idle ∨ s.core = .job) (hhome : s.mot.home = none) (harm : s.mot.arm = none)
    (hmem : s.mem.startHold = none) (hpair : s.pair.startWait = none) :
    enterSafe cause s = checkElig (stopMoves (fun _ => true) { s with core := .safe }) := by
  have hexp : s.core ≠ .exposing := by rcases hcore with h | h <;> rw [h] <;> decide
  have harmed : s.core ≠ .armed := by rcases hcore with h | h <;> rw [h] <;> decide
  have hsafe : enterSafe cause s = checkElig (armBroken (stopAllMotion
      { (if s.core = .exposing then stopLoaf cause true s else failStart (disarm s)) with core := .safe })) := by
    unfold enterSafe
    rcases hcore with h | h <;> rw [h]
  rw [hsafe, if_neg hexp, disarm_not_armed harmed, failStart_no_start hmem hpair]
  exact congrArg checkElig (armBroken_stopAllMotion hhome harm)

theorem stopBeams_no_capture {s : State} (h : s.cal.capt = none) : stopBeams s = s := by
  unfold stopBeams
  rw [h]

theorem causeClears_present {b : Nat} {s : State} (h : hasCause b s = true) :
    causeClears b s = { s with pwr := { s.pwr with causes := s.pwr.causes - b } } := if_pos h

theorem causeFlag_present {b stop : Nat} {f : Fld} {s : State} (h : hasCause b s = true) : causeFlag b stop f s = s := if_pos h

/-- A cause that was absent is shown, enters SAFE and is flagged. -/
theorem causeFlag_arises {b stop : Nat} {f : Fld} {s : State} (h : hasCause b s = false) (hcore : s.core = .idle ∨ s.core = .job)
    (hhome : s.mot.home = none) (harm : s.mot.arm = none) (hmem : s.mem.startHold = none) (hpair : s.pair.startWait = none) :
    causeFlag b stop f s = raise f (checkElig (stopMoves (fun _ => true)
      { s with pwr := { s.pwr with causes := s.pwr.causes ||| b }, core := .safe })) := by
  refine (if_neg (by rw [h]; exact Bool.false_ne_true)).trans (congrArg (raise f) ?_)
  exact enterSafe_at_rest (s := { s with pwr := { s.pwr with causes := s.pwr.causes ||| b } }) hcore hhome harm hmem hpair

/-- The level of INTERLOCK_N, asserted or not. -/
def State.interlock (s : State) (b : Bool) : State := { s with pins := { s.pins with interlock := b } }

theorem execInterlockN_drives {s : State} (hl : s.live) (hdrive : s.pwr.driving = true) : execInterlockN s =
    donePin s (armBroken (stopAllMotion (causeFlag causeInterlock cInterlock F.PWR_EVT_INTERLOCK (stopBeams (s.interlock true))))) := by
  have hlive : heldInReset s = false := hl
  have hacts : ¬(heldInReset s || !s.pwr.driving) = true := by rw [hlive, hdrive]; decide
  exact congrArg (donePin s) (if_neg hacts)

/-- INTERLOCK_N of a device that drives its outputs and captures nothing stops every move, whatever it is about. -/
theorem exec_interlockN {s u : State} (hl : s.live) (hdrive : s.pwr.driving = true) (hcapt : s.cal.capt = none)
    (hu : causeFlag causeInterlock cInterlock F.PWR_EVT_INTERLOCK (s.interlock true) = u) (hhome : u.mot.home = none) (harm : u.mot.arm = none) :
    exec .interlockN s = .next (finish s (stopMoves (fun _ => true) u)) := by
  show execInterlockN s = _
  rw [execInterlockN_drives hl hdrive, stopBeams_no_capture (s := s.interlock true) hcapt, hu, armBroken_stopAllMotion hhome harm]
  rfl

theorem checkElig_mot (s : State) : (checkElig s).mot = s.mot := raiseIf_mot _ _ _

theorem refusesWhole_release (v : Word) (s : State) : refusesWhole A.PWR_SAFE v s = false := by
  unfold refusesWhole
  rw [if_neg (by decide), if_neg (by decide), if_neg (by decide), if_neg (by decide), if_neg (by decide)]

theorem wrote_safe (v : Word) (old s : State) : wrote A.PWR_SAFE v old s = if v.getLsbD 35 then releaseSafe s else s := by
  unfold wrote
  rw [if_neg (by decide), if_neg (by decide), if_neg (by decide), if_pos rfl]

/-- RELEASE in SAFE with no cause left (R483). -/
theorem exec_release {v : Word} {s : State} (hl : s.live) (hcore : s.core = .safe) (hcauses : s.pwr.causes = 0) :
    exec (.release .host v) s = .next (finish s
      (let t := s.setReg A.PWR_SAFE (s.getReg A.PWR_SAFE)
       checkElig { t with core := if s.job.isSome then .job else .idle })) := by
  have hright : writeRight .host A.PWR_SAFE s = none := rfl
  have hrel : relationOk A.PWR_SAFE (s.getReg A.PWR_SAFE) s = true := rfl
  have hwrite := rowWrite_stores_none (p := .host) (v := withTop true v) (s := s) (addr := A.PWR_SAFE) (by decide) hright (by decide +kernel) (by decide)
    (refusesWhole_release _ s) hrel (by decide)
  refine done_outcome hl (hwrite.trans ?_)
  rw [wrote_safe, if_pos (withTop_top v)]
  exact if_pos ⟨hcore, hcauses⟩

/-- Settles O34: the causes arise, are shown and clear, RELEASE leaves SAFE, and a power failure ends the device's work. -/
theorem safeIsEnteredAndLeft : Obligations.SafeIsEnteredAndLeft := by
  unfold Obligations.SafeIsEnteredAndLeft
  refine ⟨fun s hl => ?_, fun s hl hfail => ?_⟩
  · intro all enter pin v vdd
    refine ⟨fun hcore hhome harm hmem hpair => ⟨fun hdrive hcapt hnone => ?_, fun raw hlow hnone => ?_⟩,
      fun hcore hdrive hcapt hcause hhome harm => ?_, fun hcause => ?_, fun raw hhigh hcause => ?_, fun v hcore hcauses => exec_release hl hcore hcauses⟩
    · refine exec_interlockN hl hdrive hcapt (causeFlag_arises (s := s.interlock true) hnone hcore hhome harm hmem hpair) ?_ ?_
      · rw [raise_mot, checkElig_mot]; exact hhome
      · rw [raise_mot, checkElig_mot]; exact harm
    · exact done_outcome hl ((if_pos hlow).trans (causeFlag_arises (s := vdd raw) hnone hcore hhome harm hmem hpair))
    · exact exec_interlockN hl hdrive hcapt (causeFlag_present (s := s.interlock true) hcause) hhome harm
    · exact next_finish (causeClears_present (s := pin false) hcause)
    · exact done_outcome hl ((if_pos hhigh).trans (causeClears_present (s := vdd raw) hcause))
  · intro e t u
    have ht : abandonFlash (armBroken (stopAllMotion (causeArises causePwrFail cPwrFail s))) = t := rfl
    show execPwrFail s = _
    unfold execPwrFail
    rw [if_neg (by rw [hfail]; exact Bool.false_ne_true), ht]
    have hu : wakeMemory (sleepCore (stopPorts (abandonBist
      (raise F.PWR_EVT_PWR_FAIL { t with pwr := { t.pwr with failing := true, booting := false } })))) = u := rfl
    clear_value u t
    dsimp only at hu ⊢
    rw [hu]
    exact done_live hl _

/-! Voltage and temperature. -/

/-- A junction well below WARN_C and TRIP_C clears HOT (R497). -/
theorem judgeJunction_cool {t : State} (hwarn : junction t < (t.fld F.PWR_THERM_WARN_C : Int) - 5)
    (htrip : junction t < (t.fld F.PWR_THERM_TRIP_C : Int)) (hcause : hasCause causeTherm t = false) :
    judgeJunction t = { t with pwr := { t.pwr with hot := false } } := by
  have hcool : (if t.pwr.hot = false ∧ (t.fld F.PWR_THERM_WARN_C : Int) ≤ junction t then
        raise F.PWR_EVT_HOT { t with pwr := { t.pwr with hot := true } }
      else if junction t < (t.fld F.PWR_THERM_WARN_C : Int) - 5 then { t with pwr := { t.pwr with hot := false } } else t) =
      { t with pwr := { t.pwr with hot := false } } := by
    rw [if_neg (by omega), if_pos hwarn]
  unfold judgeJunction
  dsimp only
  rw [hcool]
  refine (if_neg ?_).trans (if_neg ?_)
  · rintro ⟨h, -⟩
    exact absurd htrip (not_lt.2 h)
  · rintro ⟨-, h⟩
    exact Bool.false_ne_true (hcause.symm.trans h)

theorem exec_bankSensorReading {b : Fin 4} {raw : Int} {s t : State} (hl : s.live)
    (ht : s.setFld (nth F.PWR_TEMP_T0 [F.PWR_TEMP_T0, F.PWR_TEMP_T1, F.PWR_TEMP_T2, F.PWR_TEMP_T3] b.val)
      (twos 9 (satS 9 ((senseOf s b.val raw).fdiv 16))) = t)
    (hwarn : junction t < (t.fld F.PWR_THERM_WARN_C : Int) - 5) (htrip : junction t < (t.fld F.PWR_THERM_TRIP_C : Int))
    (hcause : hasCause causeTherm t = false) :
    exec (.bankSensorReading b raw) s = .next (finish s { t with pwr := { t.pwr with hot := false } }) := by
  have hf : (if b.val = 0 then F.PWR_TEMP_T0 else if b.val = 1 then F.PWR_TEMP_T1 else if b.val = 2 then F.PWR_TEMP_T2 else F.PWR_TEMP_T3) =
      nth F.PWR_TEMP_T0 [F.PWR_TEMP_T0, F.PWR_TEMP_T1, F.PWR_TEMP_T2, F.PWR_TEMP_T3] b.val := by
    match b with | 0 | 1 | 2 | 3 => rfl
  show execBankSensorReading b raw s = _
  unfold execBankSensorReading
  dsimp only
  rw [hf, ht]
  exact done_outcome hl (judgeJunction_cool hwarn htrip hcause)

theorem clampI_bounds {x lo hi : Int} (h : lo ≤ hi) : lo ≤ clampI x lo hi ∧ clampI x lo hi ≤ hi := by
  unfold clampI
  split
  · exact ⟨le_refl _, h⟩
  · split
    · exact ⟨h, le_refl _⟩
    · omega

/-- The law's voltage lies between VMIN_MV and the highest voltage (R495). -/
theorem avsNext_bounds {l : List Nat} {s : State} (h : s.fld F.PWR_AVS_CTL_VMIN_MV ≤ avsTop s) :
    s.fld F.PWR_AVS_CTL_VMIN_MV ≤ avsNext l s ∧ avsNext l s ≤ avsTop s := by
  have hbounds (x : Int) := clampI_bounds (x := x) (Int.ofNat_le.2 h)
  unfold avsNext
  dsimp only
  constructor
  · exact Int.ofNat_le.1 ((hbounds _).1.trans (Int.self_le_toNat _))
  · exact Int.toNat_le.2 (hbounds _).2

theorem commandVdd_free {mv : Nat} {s : State} (h : s.pwr.avsHold = false) : commandVdd mv s =
    emit (.pmbus (s.fld F.PWR_PMB_ADDR) 0x21 (linear16 mv (s.sfld F.PWR_PMB_VOUT_N))) { s with pwr := { s.pwr with vset := mv } } :=
  if_neg (by rw [h]; exact Bool.false_ne_true)

theorem exec_avsPeriod {l : List Nat} {s : State} (hl : s.live) (hen : s.bit F.PWR_AVS_CTL_EN = true) (hhold : s.pwr.avsHold = false)
    (hon : coreOff s = false) (htherm : hasCause causeTherm s = false) (hboot : s.pwr.booting = false) (hne : avsNext l s ≠ s.pwr.vset) :
    exec (.avsPeriod l true) s = .next (finish s (emit
      (.pmbus (s.fld F.PWR_PMB_ADDR) 0x21 (linear16 (avsNext l s) (s.sfld F.PWR_PMB_VOUT_N)))
      { s with pwr := { s.pwr with vset := avsNext l s } })) :=
  done_outcome hl ((if_neg (by rw [hen, hhold, hon, htherm, hboot]; decide)).trans ((if_neg hne).trans ((if_pos rfl).trans
    (commandVdd_free hhold))))

/-- IDLE_OFF of an idle device (R496). -/
theorem exec_idleOff {s : State} (hl : s.live) (hcore : s.core = .idle) (hms : s.fld F.PWR_IDLE_OFF_MS ≠ 0) (hon : 64 ≤ s.pwr.clOn)
    (htiles : ∀ t ∈ s.plc.tiles, t.inFlight = false) (hcapt : s.cal.capt = none) (hhold : s.pwr.avsHold = false) :
    exec .idleOff s = .next (finish s (
      let v := s.fld F.PWR_AVS_CTL_VMIN_MV
      let t := emit (.pmbus (s.fld F.PWR_PMB_ADDR) 0x21 (linear16 v (s.sfld F.PWR_PMB_VOUT_N))) s
      { t with pwr := { t.pwr with clOn := 0, enabling := false, vset := v, idleOff := true } })) := by
  have hnone : s.plc.tiles.any (·.inFlight) = false := List.any_eq_false.2 fun t ht => by rw [htiles t ht]; exact Bool.false_ne_true
  refine done_outcome hl ((if_neg ?_).trans ?_)
  · rintro (h | h | h | h | h)
    · exact h hcore
    · exact hms h
    · omega
    · rw [hnone] at h; cases h
    · rw [capturing, hcapt] at h; cases h
  · dsimp only
    rw [sleepCore, commandVdd_free (s := { s with pwr := { s.pwr with clOn := 0, enabling := false } }) hhold]
    rfl

/-- Settles O35: the readings and the voltages that they command. -/
theorem voltageAndTemperature : Obligations.VoltageAndTemperature := by
  unfold Obligations.VoltageAndTemperature
  refine ⟨fun b raw s hl hwarn htrip hcause => exec_bankSensorReading hl rfl hwarn htrip hcause,
    fun l s hl hen hhold hon htherm hboot hne hmin => ?_, fun w s hl hw => ?_,
    fun s hl hcore hms hon htiles hcapt hhold => exec_idleOff hl hcore hms hon htiles hcapt hhold⟩
  · obtain ⟨hlow, hhigh⟩ := avsNext_bounds (l := l) hmin
    exact ⟨hlow, hhigh, exec_avsPeriod hl hen hhold hon htherm hboot hne⟩
  · exact done_outcome hl (if_pos hw)

end Sys2Proof.Machine
end

section
/-!
PROOFS. The registers whose fields are stored (R14, R117, R265, R385, R404, R439), and those that act (R42, R129, R267, R389, R417, R423, R526).
-/
namespace Sys2Proof.Machine

/-! Rows of the map. -/

theorem regRow_trimData : ∃ r, regRow A.CAL_TRIM_DATA = some r ∧ r.fields = [{ hi := 35, lo := 0, acc := .rw, reset := 0, rng := .any }] :=
  ⟨_, rfl, rfl⟩

theorem regRow_cqHead : ∃ r, regRow A.CMD_CQ_HEAD = some r ∧ r.fields = [{ hi := 20, lo := 0, acc := .rw, reset := 0, rng := .any }] :=
  ⟨_, rfl, rfl⟩

theorem regRow_grant : ∃ r, regRow A.CMD_GRANT = some r ∧ r.fields = [{ hi := 0, lo := 0, acc := .rw, reset := 0, rng := .any }] :=
  ⟨_, rfl, rfl⟩

theorem regRow_clOut (hi : Bool) : ∃ r, regRow (if hi then A.PLC_CL_OUT_HI else A.PLC_CL_OUT_LO) = some r ∧
    r.fields = [{ hi := 31, lo := 0, acc := .w1c, reset := 0, rng := .any }] := by
  cases hi <;> exact ⟨_, rfl, rfl⟩

/-- A field that takes any value in any state takes what is written. -/
theorem takeFields_any {ok : FieldRow → Bool} {hi lo n : Nat} (v old : Word) (hok : ∀ f, ok f = true) :
    takeFields ok [{ hi := hi, lo := lo, acc := .rw, reset := n, rng := .any }] v old = (setBits old hi lo (wbits v hi lo), false) := by
  rw [takeFields, List.foldl_cons, List.foldl_nil]
  exact if_pos (by rw [hok]; rfl)

theorem takeFields_w1c {ok : FieldRow → Bool} {hi lo n : Nat} (v old : Word) :
    takeFields ok [{ hi := hi, lo := lo, acc := .w1c, reset := n, rng := .any }] v old =
      (setBits old hi lo (wbits old hi lo - (wbits old hi lo &&& wbits v hi lo)), false) := rfl

/-! What the registers that act do. -/

theorem wrote_ring (v : Word) (old s : State) : wrote A.CMD_Q_CTL v old s = ringWritten (old.bit F.CMD_Q_CTL_EN) s := if_pos rfl

theorem wrote_cqHead (v : Word) (old s : State) : wrote A.CMD_CQ_HEAD v old s = { s with cmd := { s.cmd with v0Sent := false } } := by
  unfold wrote
  rw [if_neg (by decide), if_pos rfl]

theorem wrote_grant (v : Word) (old s : State) : wrote A.CMD_GRANT v old s =
    if old.bit F.CMD_GRANT_HOST_CAL && !s.bit F.CMD_GRANT_HOST_CAL && holds .host 1 s then endLease 1 false s else s := by
  unfold wrote
  rw [if_neg (by decide), if_neg (by decide), if_pos rfl]

theorem wrote_step (v : Word) (old s : State) : wrote A.TB_STEP v old s =
    (let x := askStep (4 * v.toInt) s
     if x.1 then x.2 else badAccess 3 A.TB_STEP x.2) := by
  unfold wrote
  rw [if_neg (by decide), if_neg (by decide), if_neg (by decide), if_neg (by decide), if_neg (by decide), if_pos rfl]

theorem wrote_commit (v : Word) (old s : State) : wrote A.CAM_COMMIT v old s =
    if v.getLsbD 35 then { s with cal := { s.cal with commits := s.cal.commits + 1 } } else s := by
  unfold wrote
  rw [if_neg (by decide), if_neg (by decide), if_neg (by decide), if_neg (by decide), if_neg (by decide), if_neg (by decide), if_pos rfl]

theorem wrote_trimData (v : Word) (old s : State) : wrote A.CAL_TRIM_DATA v old s =
    s.setTrim (s.fld F.CAL_TRIM_SEL_KIND) (s.fld F.CAL_TRIM_SEL_INDEX) v := by
  unfold wrote
  rw [if_neg (by decide), if_neg (by decide), if_neg (by decide), if_neg (by decide), if_neg (by decide), if_neg (by decide),
    if_neg (by decide), if_pos rfl]

theorem wrote_clOut (hi : Bool) (v : Word) (old s : State) : wrote (if hi then A.PLC_CL_OUT_HI else A.PLC_CL_OUT_LO) v old s =
    returnClusters (if hi then 32 else 0) v s := by
  cases hi
  · unfold wrote
    rw [if_neg (by decide), if_neg (by decide), if_neg (by decide), if_neg (by decide), if_neg (by decide), if_neg (by decide),
      if_neg (by decide), if_neg (by decide), if_pos (by decide)]
    rfl
  · unfold wrote
    rw [if_neg (by decide), if_neg (by decide), if_neg (by decide), if_neg (by decide), if_neg (by decide), if_neg (by decide),
      if_neg (by decide), if_neg (by decide), if_neg (by decide), if_pos (by decide)]
    rfl

theorem wrote_bist (v : Word) (old s : State) : wrote A.TST_BIST v old s =
    if v.getLsbD 35 then { s with tst := { s.tst with bist := true } } else s := by
  unfold wrote
  rw [if_neg (by decide), if_neg (by decide), if_neg (by decide), if_neg (by decide), if_neg (by decide), if_neg (by decide),
    if_neg (by decide), if_neg (by decide), if_neg (by decide), if_neg (by decide), if_neg (by decide), if_neg (by decide), if_pos rfl]

/-! Registers that refuse nothing as a whole. -/

theorem refusesWhole_none {addr : Nat} (v : Word) (s : State) (hlow : addr < 0x70100) (haddr : addr ≠ A.TST_FLASH_ADDR)
    (hcmd : addr ≠ A.TST_FLASH_CMD) (hbist : addr ≠ A.TST_BIST) (htrim : addr ≠ A.CAL_TRIM_DATA) : refusesWhole addr v s = false := by
  unfold refusesWhole
  rw [if_neg haddr, if_neg hcmd, if_neg (by omega), if_neg hbist, if_neg htrim]

theorem refusesWhole_bist (v : Word) (s : State) : refusesWhole A.TST_BIST v s = (v.getLsbD 35 && s.core != .idle) := by
  unfold refusesWhole
  rw [if_neg (by decide), if_neg (by decide), if_neg (by decide), if_pos rfl]

theorem refusesWhole_trimData (v : Word) (s : State) :
    refusesWhole A.CAL_TRIM_DATA v s = decide (trimCount (s.fld F.CAL_TRIM_SEL_KIND) ≤ s.fld F.CAL_TRIM_SEL_INDEX) := by
  unfold refusesWhole
  rw [if_neg (by decide), if_neg (by decide), if_neg (by decide), if_neg (by decide), if_pos rfl]

/-- The registers whose fields stand in a relation (R262, R301, R339, R476, R501). -/
def relates (addr : Nat) : Bool :=
  [A.SLC_THERM, A.TB_LAUNCH_CTL, A.MOT_CTL, A.MOT_AX_JERK 0, A.MOT_AX_JERK 1, A.MOT_AX_JERK 2, A.MOT_AX_JERK 3, A.MOT_SCAN_LIM, A.PWR_AVS_CTL,
   A.PWR_THERM, A.PAIR_CTL].contains addr

theorem relationOk_none {addr : Nat} (w : Word) (s : State) (h : relates addr = false) : relationOk addr w s = true := by
  simp only [relates, List.contains_cons, List.contains_nil, Bool.or_eq_false_iff, beq_eq_false_iff_ne, ne_eq] at h
  simp only [relationOk, h, or_self, if_false]

/-- The registers whose values are judged by the present state (R265, R417, R439). -/
def judges (addr : Nat) : Bool :=
  [A.CMD_SQ_LO, A.CMD_CQ_LO, A.CMD_SQ_HI, A.CMD_CQ_HI, A.CMD_Q_CTL, A.TB_INC, A.CAL_TRIM_SEL].contains addr

theorem valueOk_none {addr : Nat} (f : FieldRow) (w : Word) (s : State) (h : judges addr = false) : valueOk addr f w s = true := by
  simp only [judges, List.contains_cons, List.contains_nil, Bool.or_eq_false_iff, beq_eq_false_iff_ne, ne_eq] at h
  simp only [valueOk, h, or_self, if_false]

/-- A register of one field that takes any value stores it, and does what it does. -/
theorem rowWrite_any {p : Port} {addr hi lo n : Nat} {r : RegRow} {v : Word} {s : State} (ha : addr % 8 = 0) (hw : writeRight p addr s = none)
    (hrow : regRow addr = some r) (hf : r.fields = [{ hi := hi, lo := lo, acc := .rw, reset := n, rng := .any }]) (hx : 4 ≤ faultAxis addr)
    (hr : refusesWhole addr v s = false) (hk : relates addr = false) (hj : judges addr = false) (hne : addr ≠ A.CAL_TRIM_DATA) :
    rowWrite p addr v s = wrote addr v s (s.setReg addr (setBits (s.getReg addr) hi lo (wbits v hi lo))) := by
  have htake : takeFields (fun f => valueOk addr f v s) r.fields v (s.getReg addr) = (setBits (s.getReg addr) hi lo (wbits v hi lo), false) := by
    rw [hf]
    exact takeFields_any _ _ fun f => valueOk_none f v s hj
  rw [rowWrite_register _ ha hw hrow, applyWrite_taken (heeded_no_axis _ _ hx) hr htake (relationOk_none _ _ hk) hne]

/-! Fields that are stored (R14, R117, R265, R385, R404, R439). -/

/-- CAL_TRIM_DATA writes the entry that CAL_TRIM_SEL names (R439). -/
theorem rowWrite_trimData {p : Port} {s : State} (v : Word) (hw : writeRight p A.CAL_TRIM_DATA s = none) :
    rowWrite p A.CAL_TRIM_DATA v s = if s.fld F.CAL_TRIM_SEL_INDEX < trimCount (s.fld F.CAL_TRIM_SEL_KIND) then
      s.setTrim (s.fld F.CAL_TRIM_SEL_KIND) (s.fld F.CAL_TRIM_SEL_INDEX) v else badAccess 3 A.CAL_TRIM_DATA s := by
  obtain ⟨r, hrow, hf⟩ := regRow_trimData
  have htake : takeFields (fun f => valueOk A.CAL_TRIM_DATA f v s) r.fields v (s.getReg A.CAL_TRIM_DATA) =
      (setBits (s.getReg A.CAL_TRIM_DATA) 35 0 (wbits v 35 0), false) := by
    rw [hf]
    exact takeFields_any _ _ fun f => valueOk_none f v s (by decide)
  rw [rowWrite_register _ (by decide) hw hrow, applyWrite]
  dsimp only
  rw [heeded_no_axis v s (by decide), refusesWhole_trimData, htake]
  by_cases hi : s.fld F.CAL_TRIM_SEL_INDEX < trimCount (s.fld F.CAL_TRIM_SEL_KIND)
  · rw [decide_eq_false (Nat.not_le.2 hi), if_neg Bool.false_ne_true, if_pos hi, relationOk_none _ _ (by decide)]
    exact wrote_trimData v s s
  · rw [decide_eq_true (Nat.not_lt.1 hi), if_pos rfl, if_neg hi]

theorem rowWrite_cqHead (v : Word) (s : State) : rowWrite .host A.CMD_CQ_HEAD v s =
    (let t := s.setReg A.CMD_CQ_HEAD (setBits (s.getReg A.CMD_CQ_HEAD) 20 0 (wbits v 20 0))
     { t with cmd := { t.cmd with v0Sent := false } }) := by
  obtain ⟨r, hrow, hf⟩ := regRow_cqHead
  have hright : writeRight .host A.CMD_CQ_HEAD s = none := rfl
  rw [rowWrite_any (by decide) hright hrow hf (by decide) (refusesWhole_none v s (by decide) (by decide) (by decide) (by decide) (by decide))
    (by decide) (by decide) (by decide), wrote_cqHead]

/-- CMD_GRANT of SERVICE with no lock of HOST that it would end (R404). -/
theorem rowWrite_grant {s : State} (v : Word) (hlock : holds .host 1 s = false) : rowWrite .service A.CMD_GRANT v s =
    s.setReg A.CMD_GRANT (setBits (s.getReg A.CMD_GRANT) 0 0 (wbits v 0 0)) := by
  obtain ⟨r, hrow, hf⟩ := regRow_grant
  have hright : writeRight .service A.CMD_GRANT s = none := rfl
  have hkept (w : Word) : holds .host 1 (s.setReg A.CMD_GRANT w) = false := hlock
  rw [rowWrite_any (by decide) hright hrow hf (by decide) (refusesWhole_none v s (by decide) (by decide) (by decide) (by decide) (by decide))
    (by decide) (by decide) (by decide), wrote_grant, hkept, Bool.and_false, if_neg Bool.false_ne_true]

theorem clCtl_aligned (c : Fin 64) : A.KNX_CL_CTL c.val % 8 = 0 := by
  revert c
  decide

/-- Settles O37: each row is a write that is taken, and what the epoch adds. -/
theorem rowsThatStoreFields : Obligations.RowsThatStoreFields := by
  unfold Obligations.RowsThatStoreFields
  refine ⟨fun p c r v s hl hw => ?_, fun p r v s hl hw => ?_, fun p a r v hw s hl ha hv => ?_, fun p v s hl hw => ?_, fun v s hl => ?_,
    fun v s hl hlock => ⟨setBits (s.getReg A.CMD_GRANT) 0 0 (wbits v 0 0), ?_, done_outcome hl (rowWrite_grant v hlock)⟩⟩
  · obtain ⟨w, hstored, he⟩ := rowWrite_taken (clCtl_aligned c) hw
    exact ⟨w, hstored, done_outcome hl he⟩
  · obtain ⟨w, hstored, he⟩ := rowWrite_taken (by decide) hw
    exact ⟨w, hstored, done_outcome hl he⟩
  · obtain ⟨w, hstored, he⟩ := rowWrite_taken ha hv
    exact ⟨w, hstored, done_outcome hl (congrArg (raiseAll (flagsIn a.toNat hw)) he)⟩
  · exact done_outcome hl (rowWrite_trimData v hw)
  · exact done_outcome hl (rowWrite_cqHead v s)
  · rw [wbits_setBits_same _ _ _ _ (by decide) (by decide)]
    exact Nat.mod_eq_of_lt (wbits_lt v 0 0)

/-! Registers that act (R42, R129, R267, R389, R417, R423, R526). -/

/-- T is asked to step (R267). -/
theorem rowWrite_step {p : Port} {s : State} (v : Word) (hw : writeRight p A.TB_STEP s = none) :
    rowWrite p A.TB_STEP v s =
      (let t := s.setReg A.TB_STEP (s.getReg A.TB_STEP)
       if s.core = .idle ∨ s.core = .job then { t with tb := { s.tb with step := s.tb.step + 4 * v.toInt } }
       else badAccess 3 A.TB_STEP (raise F.TB_EVT_STEP_REFUSED t)) := by
  rw [rowWrite_stores_none (by decide) hw (by decide +kernel) (by decide)
    (refusesWhole_none v s (by decide) (by decide) (by decide) (by decide) (by decide)) (relationOk_none _ _ (by decide)) (by decide), wrote_step]
  dsimp only [askStep]
  by_cases hfree : s.core = .idle ∨ s.core = .job
  · have hclock : clockFree (s.setReg A.TB_STEP (s.getReg A.TB_STEP)) = true := by
      rw [clockFree, setReg_core]
      rcases hfree with h | h <;> rw [h] <;> rfl
    rw [if_pos hfree, if_pos hclock]
    rfl
  · have hclock : clockFree (s.setReg A.TB_STEP (s.getReg A.TB_STEP)) = false := by
      rw [clockFree, setReg_core]
      simpa using hfree
    rw [if_neg hfree, hclock]
    rfl

theorem rowWrite_commit {p : Port} {s : State} (v : Word) (hw : writeRight p A.CAM_COMMIT s = none) :
    rowWrite p A.CAM_COMMIT (withTop true v) s =
      (let t := s.setReg A.CAM_COMMIT (s.getReg A.CAM_COMMIT)
       { t with cal := { s.cal with commits := s.cal.commits + 1 } }) := by
  rw [rowWrite_stores_none (by decide) hw (by decide +kernel) (by decide)
    (refusesWhole_none _ s (by decide) (by decide) (by decide) (by decide) (by decide)) (relationOk_none _ _ (by decide)) (by decide), wrote_commit,
    if_pos (withTop_top v)]
  rfl

/-- The memory test begins in IDLE alone (R526). -/
theorem rowWrite_bist {p : Port} {s : State} (v : Word) (hw : writeRight p A.TST_BIST s = none) :
    rowWrite p A.TST_BIST (withTop true v) s =
      if s.core = .idle then { s.setReg A.TST_BIST (s.getReg A.TST_BIST) with tst := { bist := true } } else badAccess 3 A.TST_BIST s := by
  by_cases hidle : s.core = .idle
  · have hr : refusesWhole A.TST_BIST (withTop true v) s = false := by rw [refusesWhole_bist, hidle, Bool.and_eq_false_iff]; exact .inr rfl
    rw [rowWrite_stores_none (by decide) hw (by decide +kernel) (by decide) hr (relationOk_none _ _ (by decide)) (by decide), wrote_bist,
      if_pos (withTop_top v), if_pos hidle]
  · have hr : refusesWhole A.TST_BIST (withTop true v) s = true := by
      rw [refusesWhole_bist, withTop_top]
      simpa using hidle
    obtain ⟨r, hrow, -⟩ := storesNone_iff.1 (show storesNone A.TST_BIST = true by decide +kernel)
    rw [rowWrite_register _ (by decide) hw hrow, applyWrite, heeded_no_axis _ _ (by decide), if_neg hidle]
    exact if_pos hr

/-! Clusters return (R129). -/

/-- What a W1C field keeps: the bits set and not written 1. -/
theorem testBit_sub_and (a b i : Nat) : (a - (a &&& b)).testBit i = (a.testBit i && !b.testBit i) := by
  induction i generalizing a b with
  | zero =>
    have hle : a &&& b ≤ a := Nat.and_le_left
    have hbit : (a &&& b) % 2 = a % 2 * (b % 2) := by
      have h := Nat.testBit_and a b 0
      rw [Nat.testBit_zero, Nat.testBit_zero, Nat.testBit_zero] at h
      rcases Nat.mod_two_eq_zero_or_one a with ha | ha <;> rcases Nat.mod_two_eq_zero_or_one b with hb | hb <;>
        rcases Nat.mod_two_eq_zero_or_one (a &&& b) with hab | hab <;> simp [ha, hb, hab] at h ⊢
    rw [Nat.testBit_zero, Nat.testBit_zero, Nat.testBit_zero]
    rcases Nat.mod_two_eq_zero_or_one a with ha | ha <;> rcases Nat.mod_two_eq_zero_or_one b with hb | hb <;>
      rw [ha, hb] at hbit <;> simp [ha, hb] <;> omega
  | succ i ih =>
    have hle : a &&& b ≤ a := Nat.and_le_left
    have hlow : (a &&& b) % 2 ≤ a % 2 := by
      rw [Nat.and_mod_two_pow (n := 1)]
      exact Nat.and_le_left
    have hhalf : (a &&& b) / 2 = a / 2 &&& b / 2 := Nat.and_div_two
    have hsub : (a - (a &&& b)) / 2 = a / 2 - (a / 2 &&& b / 2) := by
      rw [← hhalf]
      omega
    rw [Nat.testBit_succ, hsub, ih, Nat.testBit_succ, Nat.testBit_succ]

theorem amGet_foldl_put (m : AMap Nat) (first : Nat) (l : List Nat) (c : Nat) :
    amGet (fun _ => 0) (l.foldl (fun m x => amPut (fun _ => 0) m (first + x) 0) m) c =
      if ∃ x ∈ l, first + x = c then 0 else amGet (fun _ => 0) m c := by
  induction l generalizing m with
  | nil => simp
  | cons y l ih =>
    rw [List.foldl_cons, ih]
    by_cases hl : ∃ x ∈ l, first + x = c
    · rw [if_pos hl, if_pos (by obtain ⟨x, hx, he⟩ := hl; exact ⟨x, List.mem_cons_of_mem _ hx, he⟩)]
    · rw [if_neg hl]
      by_cases hy : first + y = c
      · rw [if_pos ⟨y, List.mem_cons_self, hy⟩, ← hy, amGet_put_same]
      · rw [if_neg, amGet_put_ne _ _ _ (Ne.symm hy)]
        rintro ⟨x, hx, he⟩
        rcases List.mem_cons.1 hx with rfl | hx
        · exact hy he
        · exact hl ⟨x, hx, he⟩

/-- Clusters lose their strikes and nothing else. -/
theorem returnClusters_strikes (first : Nat) (v : Word) (s : State) : returnClusters first v s =
    { s with plc := { s.plc with
      strikes := (bitsSet 32 v.toNat).foldl (fun m x => amPut (fun _ => 0) m (first + x) 0) s.plc.strikes } } := by
  unfold returnClusters
  induction bitsSet 32 v.toNat generalizing s with
  | nil => rfl
  | cons x l ih => rw [List.foldl_cons, ih]; rfl

/-- The field of the clusters that are out, in one half. -/
def clOutFld (hi : Bool) : Fld := if hi then F.PLC_CL_OUT_HI_OUT else F.PLC_CL_OUT_LO_OUT

/-- The word of the clusters that are out, in one half. -/
def clOutReg (hi : Bool) : Nat := if hi then A.PLC_CL_OUT_HI else A.PLC_CL_OUT_LO

/-- Is a cluster of this half written 1? -/
def returned (hi : Bool) (v : Word) (c : Nat) : Bool := decide (c / 32 = if hi then 1 else 0) && v.getLsbD (c % 32)

theorem mem_returned {hi : Bool} {v : Word} {c : Nat} (hc : c < 64) :
    (∃ x ∈ bitsSet 32 v.toNat, (if hi then 32 else 0) + x = c) ↔ returned hi v c = true := by
  have hbits (x : Nat) : x ∈ bitsSet 32 v.toNat ↔ x < 32 ∧ v.getLsbD x = true := by
    rw [bitsSet, List.mem_filter, List.mem_range, BitVec.testBit_toNat]
  simp only [hbits, returned, Bool.and_eq_true, decide_eq_true_eq]
  constructor
  · rintro ⟨x, ⟨hx, hv⟩, rfl⟩
    cases hi
    · exact ⟨by simp; omega, by simpa [Nat.mod_eq_of_lt hx] using hv⟩
    · refine ⟨by simp; omega, ?_⟩
      have hmod : (32 + x) % 32 = x := by omega
      simpa [hmod] using hv
  · rintro ⟨hhalf, hv⟩
    refine ⟨c % 32, ⟨by omega, hv⟩, ?_⟩
    cases hi <;> simp at hhalf ⊢ <;> omega

/-- The state after a write of the clusters that return. -/
def clustersBack (hi : Bool) (v : Word) (s : State) : State :=
  returnClusters (if hi then 32 else 0) v (s.setReg (clOutReg hi) (setBits (s.getReg (clOutReg hi)) 31 0
    (wbits (s.getReg (clOutReg hi)) 31 0 - (wbits (s.getReg (clOutReg hi)) 31 0 &&& wbits v 31 0))))

theorem rowWrite_clOut {p : Port} {hi : Bool} {v : Word} {s : State} (hw : writeRight p (clOutReg hi) s = none) :
    rowWrite p (clOutReg hi) v s = clustersBack hi v s := by
  obtain ⟨r, hrow, hf⟩ := regRow_clOut hi
  have htake : takeFields (fun f => valueOk (clOutReg hi) f v s) r.fields v (s.getReg (clOutReg hi)) =
      (setBits (s.getReg (clOutReg hi)) 31 0 (wbits (s.getReg (clOutReg hi)) 31 0 -
        (wbits (s.getReg (clOutReg hi)) 31 0 &&& wbits v 31 0)), false) := by
    rw [hf]
    exact takeFields_w1c _ _
  have hplain : clOutReg hi % 8 = 0 ∧ 4 ≤ faultAxis (clOutReg hi) ∧ clOutReg hi < 0x70100 ∧ clOutReg hi ≠ A.TST_FLASH_ADDR ∧
      clOutReg hi ≠ A.TST_FLASH_CMD ∧ clOutReg hi ≠ A.TST_BIST ∧ clOutReg hi ≠ A.CAL_TRIM_DATA ∧ relates (clOutReg hi) = false := by
    cases hi <;> decide
  obtain ⟨ha, hx, hlow, haddr, hcmd, hbist, htrim, hrel⟩ := hplain
  rw [rowWrite_register _ ha hw hrow, applyWrite_taken (heeded_no_axis _ _ hx) (refusesWhole_none v s hlow haddr hcmd hbist htrim) htake
    (relationOk_none _ _ hrel) htrim]
  exact wrote_clOut hi v s _

theorem clOut_half (c : Nat) (s : State) (hc : c < 64) : clOut c s = (s.fld (clOutFld (decide (c / 32 = 1)))).testBit (c % 32) := by
  unfold clOut clOutFld
  by_cases h : c < 32
  · rw [if_pos h, if_neg (by simp; omega)]
  · rw [if_neg h, if_pos (by simp; omega)]

/-- The clusters of the half written 1 are out no more. -/
theorem clOut_clustersBack {hi : Bool} {v : Word} {s : State} {c : Nat} (hc : c < 64) :
    clOut c (clustersBack hi v s) = (clOut c s && !returned hi v c) := by
  rw [clOut_half c _ hc, clOut_half c _ hc, clustersBack, returnClusters_strikes]
  show ((s.setReg _ _).fld (clOutFld (decide (c / 32 = 1)))).testBit _ = _
  by_cases hhalf : decide (c / 32 = 1) = hi
  · have hret : returned hi v c = (wbits v 31 0).testBit (c % 32) := by
      have hlow : c % 32 < 31 + 1 - 0 := by omega
      rw [returned, ← hhalf, wbits, bitsOf_testBit, decide_eq_true hlow]
      have hsides : c / 32 = 0 ∨ c / 32 = 1 := by omega
      rcases hsides with h | h <;> simp [h, BitVec.testBit_toNat]
    have hfld : (s.setReg (clOutReg hi) (setBits (s.getReg (clOutReg hi)) 31 0 (wbits (s.getReg (clOutReg hi)) 31 0 -
        (wbits (s.getReg (clOutReg hi)) 31 0 &&& wbits v 31 0)))).fld (clOutFld hi) =
        s.fld (clOutFld hi) - (s.fld (clOutFld hi) &&& wbits v 31 0) := by
      have hshape : clOutFld hi = { addr := clOutReg hi, hi := 31, lo := 0 } := by cases hi <;> rfl
      have hlt := wbits_lt (s.getReg (clOutReg hi)) 31 0
      rw [hshape, State.fld, State.fld, getReg_setReg, wbits_setBits_same _ _ _ _ (by decide) (by decide)]
      exact Nat.mod_eq_of_lt (by omega)
    rw [hhalf, hfld, testBit_sub_and, hret]
  · have hne : (clOutFld (decide (c / 32 = 1))).addr ≠ clOutReg hi := by
      revert hhalf
      cases decide (c / 32 = 1) <;> cases hi <;> decide
    have hret : returned hi v c = false := by
      rw [returned, Bool.and_eq_false_iff]
      left
      cases hi
      · simp at hhalf ⊢; omega
      · simp at hhalf ⊢; omega
    rw [State.fld, getReg_setReg_ne _ _ hne, hret, Bool.not_false, Bool.and_true]
    rfl

theorem strikes_clustersBack {hi : Bool} {v : Word} {s : State} {c : Nat} (hc : c < 64) :
    amGet (fun _ => 0) (clustersBack hi v s).plc.strikes c = if returned hi v c then 0 else amGet (fun _ => 0) s.plc.strikes c := by
  rw [clustersBack, returnClusters_strikes]
  refine (amGet_foldl_put _ _ _ _).trans ?_
  simp only [mem_returned hc]
  rfl

theorem clustersBack_rest (hi : Bool) (v : Word) (s : State) : clustersBack hi v s =
    { s with regs := (clustersBack hi v s).regs, plc := { s.plc with strikes := (clustersBack hi v s).plc.strikes } } := by
  rw [clustersBack, returnClusters_strikes]
  rfl

/-! The ring (R389, R417). -/

theorem ring_row {r : RegRow} (h : regRow A.CMD_Q_CTL = some r) :
    ({ hi := 35, lo := 35, acc := .rw, reset := 0, rng := .any } : FieldRow) ∈ r.fields := by
  have hmap : ∃ q, regRow A.CMD_Q_CTL = some q ∧ ({ hi := 35, lo := 35, acc := .rw, reset := 0, rng := .any } : FieldRow) ∈ q.fields :=
    ⟨_, rfl, by decide⟩
  obtain ⟨q, hq, hmem⟩ := hmap
  rwa [← Option.some.inj (hq.symm.trans h)]

theorem rowWrite_ring {p : Port} {r : RegRow} {u : Word} {s : State} (hw : writeRight p A.CMD_Q_CTL s = none)
    (hrow : regRow A.CMD_Q_CTL = some r) (ht : AllTaken r A.CMD_Q_CTL u s) : ∃ w, StoredWord r (s.getReg A.CMD_Q_CTL) u w ∧
      wbits w 35 35 = wbits u 35 35 ∧ rowWrite p A.CMD_Q_CTL u s = ringWritten (s.bit F.CMD_Q_CTL_EN) (s.setReg A.CMD_Q_CTL w) := by
  obtain ⟨w, hstored, he⟩ := applyWrite_stores hrow (heeded_no_axis u s (by decide))
    (refusesWhole_none u s (by decide) (by decide) (by decide) (by decide) (by decide)) ht (fun w _ => relationOk_none w s (by decide)) (by decide)
  refine ⟨w, hstored, hstored _ (ring_row hrow), ?_⟩
  rw [rowWrite_register _ (by decide) hw hrow, he, wrote_ring]

theorem ring_enabled {w : Word} {s : State} {b : Bool} (h : wbits w 35 35 = bitN b) : (s.setReg A.CMD_Q_CTL w).bit F.CMD_Q_CTL_EN = b := by
  rw [State.bit, State.fld, show F.CMD_Q_CTL_EN.addr = A.CMD_Q_CTL from rfl, getReg_setReg]
  show decide (wbits w 35 35 ≠ 0) = b
  rw [h]
  cases b <;> rfl

theorem wbits_withTop (b : Bool) (v : Word) : wbits (withTop b v) 35 35 = bitN b := by
  rw [withTop, wbits_setBits_same _ _ _ _ (by decide) (by decide)]
  cases b <;> rfl

/-- Settles O39: each write does what its register does. -/
theorem writesThatAct : Obligations.WritesThatAct := by
  unfold Obligations.WritesThatAct
  refine ⟨fun p v s hl hw => ⟨s.setReg A.TB_STEP (s.getReg A.TB_STEP), getReg_setReg_self s _, rfl, done_outcome hl (rowWrite_step v hw)⟩,
    fun p v s hl hw => ⟨s.setReg A.CAM_COMMIT (s.getReg A.CAM_COMMIT), getReg_setReg_self s _, rfl, done_outcome hl (rowWrite_commit v hw)⟩,
    fun p hi v out s hl hw => ⟨clustersBack hi v s, fun c hc => clOut_clustersBack hc, fun c hc => strikes_clustersBack hc, fun b hb => ?_,
      clustersBack_rest hi v s, done_outcome hl (congrArg (takeOut (clOutFld hi) out) (rowWrite_clOut hw))⟩,
    fun p v s hl hw => ⟨s.setReg A.TST_BIST (s.getReg A.TST_BIST), getReg_setReg_self s _, rfl, done_outcome hl (rowWrite_bist v hw)⟩,
    fun b c s hl => ?_, fun p r v s hl hw hrow => ⟨fun ht => ?_, fun ht => ?_⟩⟩
  · rw [clustersBack, returnClusters_strikes]
    exact getReg_setReg_ne s _ hb
  · refine done_outcome hl ?_
    cases s.tst.bist <;> rfl
  · obtain ⟨w, hstored, htop, he⟩ := rowWrite_ring hw hrow ht
    refine ⟨w, hstored, done_outcome hl (he.trans ?_)⟩
    rw [ringWritten, ring_enabled (htop.trans (wbits_withTop true v))]
    cases s.bit F.CMD_Q_CTL_EN <;> rfl
  · obtain ⟨w, hstored, htop, he⟩ := rowWrite_ring hw hrow ht
    refine ⟨w, hstored, done_outcome hl (he.trans ?_)⟩
    rw [ringWritten, ring_enabled (htop.trans (wbits_withTop false v))]
    cases s.bit F.CMD_Q_CTL_EN <;> rfl

end Sys2Proof.Machine
end

section
/-!
PROOFS. The shares of a dose (R232) and the beam order (R228, R229).
-/
namespace Sys2Proof.Machine

/-- Of `n` consecutive numbers, `r ≤ n` leave a remainder below `r`. -/
theorem card_rotated_below (n c r : Nat) (hr : r ≤ n) :
    ∑ i ∈ Finset.range n, (if (c + i) % n < r then 1 else 0) = r := by
  have periodic : Function.Periodic (fun i => i % n < r) n := fun i => by simp
  have shifted := Nat.filter_Ico_card_eq_of_periodic c n (fun i => i % n < r) periodic
  rw [Finset.card_filter, Finset.sum_Ico_eq_sum_range, Nat.add_sub_cancel_left] at shifted
  rw [shifted, Nat.count_eq_card_filter_range]
  have below : (Finset.range n).filter (fun i => i % n < r) = Finset.range r := by
    ext i
    simp only [Finset.mem_filter, Finset.mem_range]
    constructor
    · rintro ⟨hi, hir⟩
      rwa [Nat.mod_eq_of_lt hi] at hir
    · intro hir
      exact ⟨by omega, by rwa [Nat.mod_eq_of_lt (by omega)]⟩
  rw [below, Finset.card_range]

/-- Each share is the quotient of the dose, or one more. -/
theorem splitShare_bounds (t n x y kb : Nat) : t / n ≤ splitShare t n x y kb ∧ splitShare t n x y kb ≤ t / n + 1 := by
  unfold splitShare
  split <;> omega

/-- The shares of all ranks make up the dose. -/
theorem splitShare_sum (t n x y : Nat) (hn : 0 < n) : ((List.range n).map (splitShare t n x y)).sum = t := by
  have start : (x + y) % n < n := Nat.mod_lt _ hn
  have turned : ∀ i, splitShare t n x y i = t / n + (if (n - (x + y) % n + i) % n < t % n then 1 else 0) := by
    intro i
    unfold splitShare
    rw [show i + n - (x + y) % n = n - (x + y) % n + i by omega]
  calc ((List.range n).map (splitShare t n x y)).sum
      = ∑ i ∈ Finset.range n, splitShare t n x y i := rfl
    _ = n * (t / n) + t % n := by
        simp only [turned, Finset.sum_add_distrib, Finset.sum_const, Finset.card_range, smul_eq_mul]
        rw [card_rotated_below n _ _ (Nat.mod_lt _ hn).le]
    _ = t := Nat.div_add_mod t n

/-- Settles O45: the ranks that take one more are as many as the remainder, since the ranks turn around the group. -/
theorem sharesAddUpToTheDose : Obligations.SharesAddUpToTheDose := by
  intro t n x y hn
  refine ⟨splitShare_sum t n x y hn, fun i j _ _ => ?_⟩
  have hi := splitShare_bounds t n x y i
  have hj := splitShare_bounds t n x y j
  omega

/-- Settles O46: for each of the three lane counts the two maps are linear in remainders and quotients by powers of two. -/
theorem beamOrderIsOneToOne : Obligations.BeamOrderIsOneToOne := by
  intro nl lam j hnl hlam hj
  unfold beamOf laneOfBeam beamJ
  obtain rfl | rfl | rfl := hnl
  · refine ⟨?_, ?_, ?_, ?_⟩ <;> dsimp only [Nat.reduceDiv] <;> omega
  · refine ⟨?_, ?_, ?_, ?_⟩ <;> dsimp only [Nat.reduceDiv] <;> omega
  · refine ⟨?_, ?_, ?_, ?_⟩ <;> dsimp only [Nat.reduceDiv] <;> omega

end Sys2Proof.Machine
end

section
/-!
PROOFS. The planner's steps (R331 to R335, R337, R338), and the limits and ends of moves (R313, R319, R320, R324).
-/
namespace Sys2Proof.Machine

/-! The planner. -/

/-- A commit extends the plan to its instant. -/
theorem commitScan_e (prof : List Phase) (e : Rat) (vt bind : Nat) (s : State) : (commitScan prof e vt bind s).mot.scan.e = e := (rfl)

/-- A planner step that the horizon has passed commits the plan up to the horizon, whichever way it goes on. -/
theorem ownerStep_e (l : Loaf) (s : State) (h : s.mot.scan.e < tickNs (s.ns / 10000) + 1000 * (s.fld F.MOT_CTL_HORIZON_US : Rat)) :
    (ownerStep l s).mot.scan.e = tickNs (s.ns / 10000) + 1000 * (s.fld F.MOT_CTL_HORIZON_US : Rat) := by
  unfold ownerStep
  dsimp only
  rw [if_neg (not_le.mpr h)]
  split_ifs
  all_goals exact commitScan_e _ _ _ _ _

theorem endMove_registers (m : Mv) (s : State) : (endMove m s).regs = s.regs :=
  foldl_same (f := fun s (e : Nat × Rat) => s.updAxis e.1 fun x => { x with rest := e.2 }) State.regs (fun _ _ => rfl) m.ends s

/-- Settles O49: each event takes its one branch, and a step past the horizon commits up to it. -/
theorem plannerSteps : Obligations.PlannerSteps := by
  refine ⟨fun r l s hl hr hh hp hst => ⟨done_outcome hl ?_, ownerStep_e l s⟩, fun s hl => done_outcome hl rfl, fun m s hl hm => done_outcome hl ?_⟩
  · have hc : currentLoaf s = some l := hh
    rw [hr, hc]
    dsimp only
    rw [if_neg (by rw [hp]; exact Bool.false_ne_true)]
    obtain h | h := hst <;> rw [h]
  · rw [hm]
    dsimp only
    have same {α} (f : State → α) : f (endMove m s).motionless = f s.motionless := congrArg f (endMove_motionless m s)
    have ns : (endMove m s).ns = s.ns := same State.ns
    have fld (x : Fld) : (endMove m s).fld x = s.fld x := congrArg (fun g => wbits (amGet resetWord g x.addr) x.hi x.lo) (endMove_registers m s)
    have scan : (endMove m s).mot.scan = s.mot.scan := same fun s => s.mot.scan
    rw [ns, fld, scan]

/-! Limits and the ends of moves. -/

/-- Two changes of an axis that agree on it are one. -/
theorem updAxis_congr {f g : Axis → Axis} {a : Nat} {s : State} (h : f (s.axis a) = g (s.axis a)) : s.updAxis a f = s.updAxis a g := by
  rw [State.updAxis, State.updAxis, h]

/-- Without a homing no axis is being homed. -/
theorem homingNow_none (a : Nat) {s : State} (h : s.mot.home = none) : homingNow a s = false := by
  rw [homingNow, h]

/-- Outside homing a limit that asserts is a fault of its axis. -/
theorem limitTrip_fault (a : Nat) {s : State} (h : s.mot.home = none) :
    limitTrip a true s = gainFault a (F.MOT_AX_FAULT_LIMIT_P a) s := by
  unfold limitTrip
  dsimp only
  rw [homingNow_none a h, Bool.false_and, if_neg Bool.false_ne_true, if_pos rfl]

/-- Settles O50: each event takes its one branch. -/
theorem limitsAndEndsOfMoves : Obligations.LimitsAndEndsOfMoves := by
  refine ⟨fun a pos on s hl hraw => done_outcome hl (if_neg hraw), fun a pos s hl hs => done_outcome hl (if_pos (by rw [hs]; rfl)),
    ?_, fun h s hl hh ha hs => done_outcome hl ?_, fun m s hl hm hk => done_outcome hl ?_, fun m s hl hm hst hk hsc => done_outcome hl ?_⟩
  · intro a s hl hhome l hset hraw hdeb hmoves
    refine done_outcome hl ?_
    have moved : (s.updAxis a.val fun x => x.updLimit true fun l => { l with deb := l.raw, moves := [s.tb.ticks] }) =
        s.updAxis a.val fun x => { x with limP := { x.limP with deb := true, moves := [s.tb.ticks] } } :=
      updAxis_congr (congrArg (fun on => { s.axis a.val with limP := { (s.axis a.val).limP with deb := on, moves := [s.tb.ticks] } }) hraw)
    dsimp only
    rw [show (s.axis a.val).limit true = l from rfl, hset, hraw, hdeb, hmoves, Bool.not_true, if_neg Bool.false_ne_true,
      if_neg Bool.false_ne_true, if_pos rfl, show (s.tb.ticks :: []).take 5 = [s.tb.ticks] from rfl,
      show chatters [s.tb.ticks] = false from rfl, if_neg Bool.false_ne_true, moved]
    exact limitTrip_fault a.val hhome
  · rw [hh]
    dsimp only
    rw [ha, hs]
    rfl
  · rw [hm]
    dsimp only
    rw [hk]
  · rw [hm, show [m].filter (·.stopping) = [m] by rw [List.filter_cons, if_pos hst]; rfl]
    show (if s.mot.scan.stopping && _ then _ else moveStopped m s) = _
    rw [hsc, Bool.false_and, if_neg Bool.false_ne_true]
    unfold moveStopped
    rw [hk]

end Sys2Proof.Machine
end

section
/-!
PROOFS. Position words and their loss (R304, R305, R513), the control blocks of a lane (R274, R350), and setpoint frames (R307).
-/
namespace Sys2Proof.Machine

/-- A first fault cause of an axis, outside a homing, an arm and a loaf, stops the axis and is flagged. -/
theorem gainFault_first (a : Nat) (f : Fld) {s : State} (hf : s.bit f = false) (hhome : s.mot.home = none) (harm : s.mot.arm = none)
    (hc : s.core = .idle ∨ s.core = .job) :
    gainFault a f s = raise F.MOT_EVT_FAULT (stopMoves (· == a) (raise f s)) := by
  have home : (raise F.MOT_EVT_FAULT (stopMoves (· == a) (raise f s))).mot.home = none := by
    rw [raise_mot]
    show (raise f s).mot.home = none
    rw [raise_mot, hhome]
  have arm : (raise F.MOT_EVT_FAULT (stopMoves (· == a) (raise f s))).mot.arm = none := by
    rw [raise_mot]
    show (raise f s).mot.arm = none
    rw [raise_mot, harm]
  have core : (raise F.MOT_EVT_FAULT (stopMoves (· == a) (raise f s))).core = s.core := by
    rw [raise_core]
    exact raise_core _ _
  unfold gainFault
  rw [if_neg (by rw [hf]; exact Bool.false_ne_true)]
  dsimp only
  rw [abortHomeOf_no_home a home, core]
  obtain h | h := hc <;> rw [h] <;> exact armBroken_no_arm arm

/-- LANE_ID of a lane that carries an active lane names it. -/
theorem sendLaneId_carrying {g k m : Nat} {s : State} (h : carriedOn g k s = some m) :
    sendLaneId g k s = sendCtl g k (laneIdPayload g k (8 * g + m) true) s := by
  rw [sendLaneId, h]

/-- LANE_ID of a data lane that carries none names its own. -/
theorem sendLaneId_idle {g k : Nat} {s : State} (h : carriedOn g k s = none) (hk : k < 8) :
    sendLaneId g k s = sendCtl g k (laneIdPayload g k (8 * g + k) false) s := by
  rw [sendLaneId, h]
  exact if_pos hk

/-- Settles O48: a frame's two channels, the first cause of a fault, the cases of the lane's blocks and the four axes. -/
theorem positionsAndLaneBlocks : Obligations.PositionsAndLaneBlocks := by
  refine ⟨fun a e f q s hl => ⟨fun hv => done_outcome hl (if_pos (by rw [hv]; rfl)), fun hv he => ?_⟩,
    fun a s hl hb hhome harm hc => done_outcome hl (gainFault_first a.val _ hb hhome harm hc), fun g k s hl => ⟨fun hc => ?_, fun m hm ht => ?_,
      fun hm ht hk => ?_, fun ht => done_outcome hl (if_neg (by rw [ht]; exact Bool.false_ne_true))⟩,
    fun s hl hf => done_outcome hl (if_neg (by rw [hf]; exact Bool.false_ne_true))⟩
  · refine done_outcome hl ?_
    rw [if_neg (by rw [hv]; exact Bool.false_ne_true)]
    dsimp only
    rw [if_neg (by rw [beq_iff_eq]; exact he)]
    exact updAxis_congr (by cases e <;> rfl)
  · exact done_outcome hl (if_pos (by rw [hc]; rfl))
  · exact done_outcome hl ((if_pos ht).trans (sendLaneId_carrying hm))
  · exact done_outcome hl ((if_pos ht).trans (sendLaneId_idle hm hk))

end Sys2Proof.Machine
end

section
/-!
PROOFS. The clock's messages (R265 to R273, R374, R375).
-/
namespace Sys2Proof.Machine

/-- A whole number of quarter ns is taken as it is. -/
theorem wholeQuarters_int (d : Int) (s : State) : wholeQuarters (d : Rat) s = (d, s) := by
  rw [wholeQuarters, show (d : Rat).floor = d from Rat.floor_intCast d, if_pos rfl]

/-- A Sync of the slave port from the best master comes from its master. -/
theorem fromMaster_best {m : SyncMsg} {a : AnnounceMsg} {s : State} (hs : servesPtp m.domain m.udp s = true)
    (hp : m.port.val = s.fld F.TB_PTP_STATUS_PORT) (hst : s.fld F.TB_PTP_STATUS_STATE ≠ 0) (hb : bestMaster s = some (m.port.val, a))
    (hi : a.identity = m.identity) : fromMaster m s = true := by
  rw [fromMaster, hs, decide_eq_true hp, decide_eq_true hst, hb, Option.map_some, hi, beq_self_eq_true]
  rfl

/-- With whole numbers for the mean path delay and the offset, the servo takes them. -/
theorem measureSync_whole {m : SyncMsg} {req : Nat} {s : State} {o d : Int} (hd : meanDelay m req s = d) (ho : masterOffset m req s = o) :
    measureSync m req s = takeSync o d s := by
  rw [measureSync, ho, wholeQuarters_int]
  dsimp only
  rw [hd, wholeQuarters_int]

/-- The ingress stamp as a rational number. -/
theorem ingressStamp_rat (p t : Nat) (s : State) : (ingressStamp p t s : Rat) = (t : Rat) - (s.fld (F.TB_TS_TRIM_RX_Q p) : Rat) := by
  unfold ingressStamp
  push_cast
  rfl

/-- Block lock of a timing port, where none has it. -/
theorem blockLock_none (k : Nat) (up : Bool) {s : State} (h : s.lnk.eth = 0) :
    ({ s with lnk := { s.lnk with eth := (let rest := s.lnk.eth - (s.lnk.eth &&& 2 ^ k); if up then rest + 2 ^ k else rest) } } : State) =
      if up then { s with lnk := { s.lnk with eth := 2 ^ k } } else s := by
  cases up
  · refine Eq.trans (congrArg (fun n => ({ s with lnk := { s.lnk with eth := n } } : State)) (a₂ := s.lnk.eth) ?_) rfl
    rw [h]
    exact Nat.zero_sub _
  · refine congrArg (fun n => ({ s with lnk := { s.lnk with eth := n } } : State)) ?_
    rw [h, Nat.zero_sub]
    exact Nat.zero_add _

/-- Settles O51: each message takes its one branch; whole quarters are their own floor. -/
theorem clockMessages : Obligations.ClockMessages := by
  refine ⟨fun m a req s hl hs hp hst hb hi hreq => ?_, fun k m s hl hs => done_outcome hl (if_pos hs), fun s hl hen => ⟨fun hst => ?_, fun hst => ?_⟩,
    fun k f i e s hl => ⟨fun hf => done_outcome hl (if_pos (by rw [hf]; rfl)), fun hf htc => ?_⟩,
    fun k s hl heth => ⟨done_outcome hl (blockLock_none k.val true heth), done_outcome hl (blockLock_none k.val false heth)⟩⟩
  · have measured : exec (.sync m) s = .next (finish s (measureSync m req s)) := by
      refine done_outcome hl ?_
      rw [fromMaster_best hs hp hst hb hi, hreq]
    refine ⟨measured, fun o d hd ho => measured.trans ?_⟩
    have delay : meanDelay m req s = d := by
      rw [meanDelay, ingressStamp_rat]
      exact hd.symm
    have offset : masterOffset m req s = o := by
      rw [masterOffset, delay, ingressStamp_rat]
      exact ho.symm
    rw [measureSync_whole delay offset]
  · refine done_outcome hl ?_
    rw [hen, decide_eq_true hst, Bool.true_and, Bool.true_and]
    rfl
  · exact done_outcome hl (if_pos (by rw [hen, decide_eq_true hst]; rfl))
  · refine done_outcome hl ((if_neg (by rw [hf]; exact Bool.false_ne_true)).trans ?_)
    rw [htc, Bool.not_true, Bool.false_or]
    by_cases h : f.bytes.length ≤ 1522 ∧ vlanTags 2 (f.bytes.drop 12) ≤ 1
    · have accepted : ethAccepts f.bytes = true := decide_eq_true h
      rw [accepted, if_neg (by decide), if_pos h]
      rfl
    · have barred : ethAccepts f.bytes = false := decide_eq_false h
      rw [barred]
      exact (if_pos rfl).trans (if_neg h).symm

end Sys2Proof.Machine
end

section
/-!
PROOFS. Slices are built, sent, launched and crossed (R225 to R262, R276, R278, R279, R281, R284, R295).
-/
namespace Sys2Proof.Machine

/-! What the lines leave of the launch logic. -/

theorem emitSlice_lch (g k : Nat) (l : List (List Byte)) (s : State) : (emitSlice g k l s).lch = s.lch := by
  unfold emitSlice
  split
  · rfl
  · exact foldl_same (f := fun s p => sendBlock g k false p s) State.lch (fun _ _ => rfl) l s

theorem flushLane_lch (g k : Nat) (s : State) : (flushLane g k s).lch = s.lch := by
  unfold flushLane
  split
  · exact emitSlice_lch _ _ _ _
  · rfl

theorem flushSlice_lch (n : Nat) (s : State) : (flushSlice n s).lch = s.lch :=
  foldl_same (f := fun s (e : Nat × TxSlice) => flushLane (e.1 / 9) (e.1 % 9) s) State.lch (fun _ _ => flushLane_lch _ _ _) _ s

/-! The builds. -/

/-- While slices follow, a build is not the skip of the last one. -/
theorem lastSkipped_not_last {r : Run} {s : State} (h : s.slc.next < r.last) : lastSkipped r s = false := by
  rw [lastSkipped, decide_eq_false (p := r.last < s.slc.next) (by omega), Bool.and_false, Bool.false_and]

/-- A slice that no cancel reaches is not covered. -/
theorem covered_before {n : Nat} {s : State} (h : ∀ c, s.lch.cancel = some c → n < c.first) : covered n s = false := by
  unfold covered
  split
  next c hc => exact decide_eq_false (not_le.mpr (h c hc))
  next => rfl

/-! Launch and crossings. -/

/-- The launch logic after a slice that has been sent is launched with its crossing still to come. -/
theorem launchSlice_awaited {r : Run} {x : Slice} {l : List Slice} {s : State} (hr : s.lch.run = some r) (hs : s.lch.slices = x :: l)
    (hover : x.overspeed = false) (hsent : (x.lanes.any fun e => e.2 == .sent) = true) (htc : x.tc = none) :
    let t := (flushSlice x.n s).setFld F.TB_LAUNCH_STATUS_LAUNCHED x.n
    launchSlice r x s = disposeTo (x.n + 1) { t with lch := { t.lch with
        slices := l, run := some { r with reached := some (x.n, x.l), prevL := some x.l },
        crossings := t.lch.crossings ++ [{ n := x.n, l := x.l, pos := x.pos, displaced := false }] } } := by
  intro t
  have run : (flushSlice x.n s).lch.run = some r := by rw [flushSlice_lch, hr]
  have slices : (flushSlice x.n s).lch.slices = x :: l := by rw [flushSlice_lch, hs]
  have first : removeFirst (·.n == x.n) (x :: l) = l := by rw [removeFirst]; exact if_pos (beq_self_eq_true _)
  unfold launchSlice
  dsimp only
  rw [hover, hsent, htc]
  refine congrArg (fun k => disposeTo (x.n + 1) { t with lch := k }) ?_
  dsimp only [updRun]
  rw [run, slices, first]
  rfl

/-- No word has shown the crossing missed, and one could still come. -/
theorem crossingMissed_not_yet {c : Crossing} {s : State}
    (hw : ∀ p t, s.lch.word = some (p, t) → t < c.l + 4 * s.act F.TB_LAUNCH_CTL_WINDOW_NS)
    (hq : s.quarter < c.l + 4 * s.act F.TB_LAUNCH_CTL_WINDOW_NS + s.fld F.TB_POS_LAT_LAT_Q + 200) : crossingMissed c s = false := by
  unfold crossingMissed
  dsimp only
  rw [decide_eq_false (not_le.mpr hq), Bool.or_false]
  split
  next p t h => exact decide_eq_false (not_le.mpr (hw p t h))
  next => rfl

/-- A word sampled at the end of the window or later, or none that could have come, shows the crossing missed. -/
theorem crossingMissed_past {c : Crossing} {s : State}
    (h : (∃ p t, s.lch.word = some (p, t) ∧ c.l + 4 * s.act F.TB_LAUNCH_CTL_WINDOW_NS ≤ t) ∨
      c.l + 4 * s.act F.TB_LAUNCH_CTL_WINDOW_NS + s.fld F.TB_POS_LAT_LAT_Q + 200 ≤ s.quarter) : crossingMissed c s = true := by
  unfold crossingMissed
  dsimp only
  obtain ⟨p, t, hw, ht⟩ | hq := h
  · rw [hw]
    dsimp only
    rw [decide_eq_true ht, Bool.true_or]
  · rw [decide_eq_true hq, Bool.or_true]

/-- Settles O47: each event takes its one branch; a build leaves the slice after the one built as the next, so it is not the last. -/
theorem slicesAreBuiltAndLaunched : Obligations.SlicesAreBuiltAndLaunched := by
  refine ⟨fun r l s hl hr hh hdue hlast => done_outcome hl ?_, fun k r x s hl hr hw hms hphys hclose hlead hfit => done_outcome hl ?_,
    fun k r x s hl hr hw hp hc hlate => done_outcome hl ?_, fun r x l s hl hr hs hle hc hover hsent htc => done_outcome hl ?_,
    fun c s hl hc => ⟨fun h => done_outcome hl ?_, fun hw hq => done_outcome hl ?_⟩⟩
  · have current : currentLoaf s = some l := hh
    have follows : ¬r.last < (buildSlice r l s).slc.next := by rw [buildSlice_next]; omega
    rw [hr, current]
    dsimp only
    rw [lastSkipped_not_last hlast, hdue, decide_eq_false follows, Bool.not_true, Bool.false_and]
    exact (if_neg Bool.false_ne_true).trans ((if_neg Bool.false_ne_true).trans (congrArg blockedEnd (if_neg Bool.false_ne_true)))
  · rw [hr, hw]
    dsimp only
    rw [hms, beq_eq_false_iff_ne.mpr hphys, hclose, if_neg (by decide), if_neg Bool.false_ne_true, if_pos ⟨hlead, hfit⟩]
  · rw [hr, hw]
    dsimp only
    rw [hp, covered_before hc, decide_eq_false (not_le.mpr hlate)]
    rfl
  · rw [hr, hs]
    refine (if_neg ?_).trans (launchSlice_awaited hr hs hover hsent htc)
    rw [covered_before hc]
    exact fun h => h.elim (not_lt.mpr hle) Bool.false_ne_true
  · rw [hc]
    dsimp only
    rw [crossingMissed_past h]
    rfl
  · rw [hc]
    dsimp only
    rw [crossingMissed_not_yet hw hq]
    rfl

end Sys2Proof.Machine
end

section
/-!
PROOFS. Tiles are dispatched, taken, expanded and checked (R79, R97, R99 to R104, R112, R115, R117, R122, R123, R125, R130).
-/
namespace Sys2Proof.Machine

/-! A tile that changes. -/

/-- The first element that is found after a change of it that keeps what is looked for. -/
theorem find?_updateFirst {α : Type} {p : α → Bool} {f : α → α} (hf : ∀ x, p (f x) = p x) (l : List α) :
    (updateFirst p f l).find? p = (l.find? p).map f := by
  induction l with
  | nil => rfl
  | cons x r ih =>
    rw [updateFirst]
    cases h : p x
    · rw [if_neg Bool.false_ne_true, List.find?_cons, h, List.find?_cons, h, ih]
    · rw [if_pos rfl, List.find?_cons, hf, h, List.find?_cons, h, Option.map_some]

/-- A changed tile stands as the change leaves it. -/
theorem tileOf_updTile {t : Tile} {f : Tile → Tile} {s : State} (hf : ∀ x : Tile, (f x).same t.ord t.row t.col = x.same t.ord t.row t.col)
    (h : tileOf t.ord t.row t.col s = some t) : tileOf t.ord t.row t.col (updTile t f s) = some (f t) := by
  have found := find?_updateFirst (p := fun x : Tile => x.same t.ord t.row t.col) hf s.plc.tiles
  rw [show s.plc.tiles.find? (fun x => x.same t.ord t.row t.col) = some t from h] at found
  exact found

/-- A tile of which one sum is missing is not judged. -/
theorem judge_without_area {t : Tile} (b : Bool) (s : State) (h : t.asum = none) : judge b t s = s := by
  unfold judge
  split
  next ha => exact absurd (h.symm.trans ha) (by simp)
  next => rfl

theorem judge_without_expansion {t : Tile} (b : Bool) (s : State) (h : t.ksum = none) : judge b t s = s := by
  unfold judge
  split
  next hk _ => exact absurd (h.symm.trans hk) (by simp)
  next => rfl

/-- The judgement of a tile looks at the tile as a change of it has left it. -/
theorem judgeNow_changed {t : Tile} {f : Tile → Tile} {s u : State} (b : Bool) (hu : u.plc = (updTile t f s).plc)
    (hf : ∀ x : Tile, (f x).same t.ord t.row t.col = x.same t.ord t.row t.col) (ht : tileOf t.ord t.row t.col s = some t) :
    judgeNow b t u = judge b (f t) u := by
  have stands : tileOf t.ord t.row t.col u = some (f t) := by
    rw [tileOf, hu]
    exact tileOf_updTile hf ht
  rw [judgeNow, stands]

/-- An expansion that ends before its area check leaves its sum alone. -/
theorem judgeNow_expanded {t : Tile} {w : List Word} {ks : Nat} {s u : State} (b : Bool)
    (hu : u.plc = (updTile t (fun t => { t with words := w, ksum := some ks }) s).plc) (ht : tileOf t.ord t.row t.col s = some t)
    (ha : t.asum = none) : judgeNow b t u = u :=
  (judgeNow_changed b hu (fun _ => rfl) ht).trans (judge_without_area b u ha)

/-- An area check that ends before its expansion leaves its sum alone. -/
theorem judgeNow_checked {t : Tile} {a : Tile → Int × Nat} {s u : State} (b : Bool)
    (hu : u.plc = (updTile t (fun t => { t with asum := some (a t) }) s).plc) (ht : tileOf t.ord t.row t.col s = some t)
    (hk : t.ksum = none) : judgeNow b t u = u :=
  (judgeNow_changed b hu (fun _ => rfl) ht).trans (judge_without_expansion b u hk)

/-! The events. -/

/-- A cluster expands a tile when one stands on its kneaders without its sum. -/
theorem expanding_eq (c : Nat) (s : State) :
    expanding c s = s.plc.tiles.any fun t => t.cluster == c && t.stage == .taken && t.ksum.isNone :=
  congrArg (fun p => s.plc.tiles.any p) (funext fun _ => (Bool.and_assoc _ _ _).symm)

/-- A measured rate starts the next measurement. -/
theorem markRate_measured (c : Nat) (m : List (Nat × Nat)) (s : State) : markRate c { s with plc := { s.plc with rate := m } } =
    { s with plc := { s.plc with rate := m, mark := amPut (fun _ => 0) s.plc.mark c (s.fld (F.KNX_CL_CROSS_CROSSINGS c)) } } := (rfl)

/-- Settles O42: each event takes its one branch; a sum alone is not judged. -/
theorem tilesAreDispatchedAndExpanded : Obligations.TilesAreDispatchedAndExpanded := by
  refine ⟨fun t c s hl ht hc => done_outcome hl ?_, fun c t k s hl ht hk => done_outcome hl ?_, fun k r t s hl ha hf ht => done_outcome hl ?_,
    fun c r t s hl hk hf ht => done_outcome hl ?_, fun c s hl h => done_outcome hl (if_neg ?_), fun c s hl => done_outcome hl ?_⟩
  · rw [ht]
    dsimp only
    rw [dispatch, hc]
  · rw [ht, hk]
    dsimp only
    rw [expanding_eq]
    split <;> rfl
  · rw [hf]
    dsimp only [tileTables]
    refine judgeNow_expanded (s := s)
      (w := doseWordsOf ((tileDoses (tileTables t s).1 (tileTables t s).2 t.col (tileCovers t.figs)).map fun x => min x 4095))
      (ks := ((kneaderSum (tileCovers t.figs) : Int) + r.err).toNat) r.aborted ?_ ht ha
    rw [raiseIf_plc, setFld_plc, setFld_plc]
    rfl
  · rw [hf]
    dsimp only
    refine judgeNow_checked (s := s) (a := fun t => (checkerSum t.figs + r.err, partialCount t.figs)) r.aborted ?_ ht hk
    rw [setFld_plc]
  · rw [List.any_eq_true]
    rintro ⟨t, hm, hb⟩
    rw [Bool.and_eq_true, beq_iff_eq] at hb
    exact absurd hb.2 (by rw [h t hm hb.1]; exact Bool.false_ne_true)
  · dsimp only
    rw [expanding_eq, markRate_measured]
    by_cases h : (s.plc.tiles.any fun t => t.cluster == c.val && t.stage == .taken && t.ksum.isNone) = true
    · rw [if_pos h, if_neg (by rw [h]; exact Bool.false_ne_true), show rateDefault = fun _ => 800 from rfl]
    · rw [if_neg h, if_pos (by rw [eq_false_of_ne_true h]; rfl)]

end Sys2Proof.Machine
end

section
/-!
PROOFS. Proof blocks and the window (R131, R132, R140 to R144, R151, R153, R162, R165 to R167, R171, R172, R176 to R180).
-/
namespace Sys2Proof.Machine

/-! Compression. -/

/-- The first tile of a row is compressed without a history. -/
theorem histOf_first {t : Tile} (s : State) (h : t.col = 0) : histOf t s = none := by
  unfold histOf
  rw [if_pos]
  rw [h]
  simp

/-- The compressor starts on the first tile of a row, which has no predecessor whose tail it reads. -/
theorem startCompress_first {t : Tile} {s : State} (h : t.col = 0) :
    startCompress t s = updTile t (fun u => { u with stage := .compressing, hist := none, block := some (blockOf t none s) }) s := by
  unfold startCompress
  rw [histOf_first s h]
  exact if_neg (by rw [h]; exact Nat.lt_irrefl 0)

/-- A tile's block takes the page that the rotation gives. -/
theorem takePage_block {t : Tile} {b : Block} {s : State} (h : t.block = some b) :
    let b' : Block := { b with pages := b.pages ++ [(nextPc s, freePage (nextPc s) s)] }
    takePage t s = post (pageWrites t b') (updTile t (fun x => { x with stage := .compressing, block := some b' })
      { s with plc := { s.plc with lastPc := nextPc s } }) := by
  unfold takePage
  rw [h]

/-- A block of LEVEL 0 flags no stored span. -/
theorem flagStored_level_zero {b : Block} (s : State) (h : b.ctr.level = 0) : flagStored b s = s := by
  rw [flagStored, if_pos h]

/-- A kneader's tile completes when its writes are acknowledged. -/
theorem completeTile_written {k : Nat} {t : Tile} {b : Block} {s : State}
    (hf : s.plc.tiles.find? (fun t => t.kneader == some k && t.stage == .written) = some t) (hb : t.block = some b)
    (hout : writesOut t s = false) (hlev : b.ctr.level = 0) :
    completeTile s k = updTile t (fun x => { x with stage := .completed, words := if x.area.isSome then x.words else [] }) s := by
  unfold completeTile
  rw [hf]
  dsimp only
  rw [hb]
  dsimp only
  rw [hout, if_neg Bool.false_ne_true, flagStored_level_zero _ hlev]

/-- One kneader is the only one of its list. -/
theorem filter_one_kneader (k : Fin 1024) : ((List.range 1024).filter fun i => [k].any (·.val == i)) = [k.val] := by
  have one : (fun i => [k].any (·.val == i)) = fun i => i == k.val := by
    funext i
    rw [List.any_cons, List.any_nil, Bool.or_false, Bool.beq_comm]
  rw [one, List.filter_beq, List.count_range, if_pos k.isLt]
  rfl

/-! The window. -/

/-- Posted accesses leave the job, so its mode. -/
theorem streamMode_post (l : List TxnPost) (s : State) : streamMode (post l s) = streamMode s := by
  have job : (post l s).job = s.job := show (post l s).inner.job = s.inner.job by rw [inner_post]
  rw [streamMode, streamMode, jobBeams, jobBeams, job]

/-- A filler that unpacks every block of the row writes the row and advances the front. -/
theorem fillRow_ok {f : Nat} {l : Loaf} {forms : List (List Byte)} {s : State}
    (h : unpackRow (streamMode s) (rowTiles l.ord l.winFront s) 0 [] = .ok forms) :
    let t := writeRow l.ord l.half l.winFront (forms.map wordsOf) (post (blockReads f false (rowTiles l.ord l.winFront s)) s)
    let segs := (List.range 256).flatMap fun dy => (List.range 8).flatMap fun sub => segAccess 1 l.ord l.half (256 * l.winFront + dy) sub t
    fillRow f l s = setHold f none (updLoaf l.ord (fun x => { x with winFront := l.winFront + 1 })
      (post segs (t.setFld (winFrontFld l.half) (l.winFront + 1)))) := by
  unfold fillRow
  dsimp only
  rw [streamMode_post, h]

/-- A filler that unpacks every block of the row writes the segment anew. -/
theorem rebuildSeg_ok {f : Nat} {l : Loaf} {x : Nat × Nat × Nat} {forms : List (List Byte)} {s : State}
    (h : unpackRow (streamMode s) (rowTiles x.1 (x.2.1 / 256) s) 0 [] = .ok forms) :
    let t := post (blockReads f true (rowTiles x.1 (x.2.1 / 256) s)) s
    let u := writeSeg x.1 l.half x.2.1 x.2.2 (subRow (forms.map wordsOf) x.2.1 x.2.2)
      { t with prf := { t.prf with rebuilds := removeFirst (· == x) t.prf.rebuilds } }
    rebuildSeg f l x s = setHold f none (post (segAccess 1 x.1 l.half x.2.1 x.2.2 u) u) := by
  unfold rebuildSeg
  dsimp only
  rw [streamMode_post, h]

/-- Settles O43: each event takes its one branch. -/
theorem proofBlocksFillTheWindow : Obligations.ProofBlocksFillTheWindow := by
  refine ⟨fun c t s hl hf hfree hcol => done_outcome hl ?_, fun t b s hl hb hmay => ⟨fun c hf hneed hout n => done_outcome hl ?_,
      fun hf => done_outcome hl ?_⟩, fun k t b s hl hf hb hout hlev => done_outcome hl ?_, fun t s hl hfree hlast hst => done_outcome hl ?_,
    fun next f l forms s hl hh hready hroom hreb hfill hok => done_outcome hl ?_, fun f l x forms s hl hf hstep hloaf hfill hok => done_outcome hl ?_⟩
  · rw [hf]
    dsimp only
    rw [hfree, startCompress_first hcol]
    rfl
  · rw [hf]
    dsimp only
    rw [hb]
    dsimp only
    rw [if_neg (not_le.mpr hneed), hout, if_neg Bool.false_ne_true, if_pos hmay, takePage_block hb]
  · rw [hf]
    dsimp only
    rw [if_pos hmay, takePage_block hb]
  · rw [filter_one_kneader, List.foldl_cons, completeTile_written hf hb hout hlev, List.foldl_nil]
  · rw [hlast]
    dsimp only
    rw [abortTile, hst]
  · rw [hh]
    exact (if_pos ⟨hready, hroom, hreb, hfill⟩).trans (fillRow_ok hok)
  · rw [hf]
    dsimp only
    rw [hstep, hloaf]
    exact (if_pos hfill).trans (rebuildSeg_ok hok)

end Sys2Proof.Machine
end

section
/-!
PROOFS. Ring packets and SERVICE frames act as the commands they spell (R377, R381 to R383, R386, R387, R393).
-/
namespace Sys2Proof.Machine

/-! Requests by their opcode. -/

/-- What is taken depends on a body only at the request. -/
theorem takeReq_congr {body other : Req → State → State} {r : Req} (h : ∀ t, body r t = other r t) (s : State) :
    takeReq body r s = takeReq other r s := by
  have started (t : State) : start body r t = start other r t := by
    unfold start
    simp only [h]
  unfold takeReq
  simp only [started]

/-- A row that is a request does what the dispatch of its opcode does, but for NVM_STORE. -/
theorem exec_dispatchOp {c : Instr} {r : Req} {s : State} (hc : requestOf c = some r) (hop : r.op ≠ 0x42) (hl : s.live) :
    exec c s = .next (finish s (takeReq dispatchOp r s)) := by
  obtain ⟨body, he, hbody⟩ := exec_request hc s
  rw [he]
  exact done_outcome hl (takeReq_congr (hbody hop) s)

/-! The submission ring. -/

/-- A packet that has come whole, with room for its reply and for one command more, is read and taken. -/
theorem takeRing_whole {ring : List Byte} {s : State} :
    let k := s.fld F.CMD_Q_CTL_SQ_LOG2
    let p := s.fld F.CMD_SQ_HEAD_PTR
    let h := nth 0 (ringWords ring k p 1) 0
    let n := packetGroups (wbits h 17 6)
    let r := packetReq .host h ((ringWords ring k p n).drop 1)
    portUp .host s = true ∧ n ≤ ringWaiting s ∧ ringRoom r s = true ∧ (flightsOf .host s).length < 960 →
    takeRing ring s = takeReq dispatchOp r
      ((emit (.hostRead ((List.range n).map fun i => ringAddr (sqBase s) k (p + i))) s).setFld F.CMD_SQ_HEAD_PTR (ptrAdd p n)) := by
  intro k p h n r ⟨hup, hn, hroom, hlim⟩
  refine if_neg ?_
  rw [hup, decide_eq_false (not_lt.mpr hn), hroom, decide_eq_false (not_le.mpr hlim)]
  decide

/-- Else the ring is left as it is. -/
theorem takeRing_not {ring : List Byte} {s : State} :
    let k := s.fld F.CMD_Q_CTL_SQ_LOG2
    let p := s.fld F.CMD_SQ_HEAD_PTR
    let h := nth 0 (ringWords ring k p 1) 0
    let n := packetGroups (wbits h 17 6)
    let r := packetReq .host h ((ringWords ring k p n).drop 1)
    ¬(portUp .host s = true ∧ n ≤ ringWaiting s ∧ ringRoom r s = true ∧ (flightsOf .host s).length < 960) → takeRing ring s = s := by
  intro k p h n r hnot
  refine if_pos ?_
  simp only [Bool.or_eq_true, Bool.not_eq_true', decide_eq_true_eq]
  by_contra hall
  rw [not_or, not_or, not_or, not_lt, not_le, Bool.not_eq_false, Bool.not_eq_false] at hall
  obtain ⟨⟨⟨hup, hn⟩, hroom⟩, hlim⟩ := hall
  exact hnot ⟨hup, hn, hroom, hlim⟩

/-! Frames on the SERVICE line. -/

/-- The first word of a byte sequence that holds a group is that of its first nine bytes. -/
theorem wordsOf_first {b : List Byte} (hb : 9 ≤ b.length) : nth 0 (wordsOf b) 0 = nth 0 (unpackGroup (b.take 9)) 0 := by
  obtain ⟨n, hn⟩ : ∃ n, b.length = n + 1 := ⟨b.length - 1, by omega⟩
  rw [wordsOf, hn, unpackWords, if_neg (by omega)]
  rfl

/-- A packet takes one group or more. -/
theorem packetGroups_pos (n : Nat) : 1 ≤ packetGroups n := by
  unfold packetGroups ceilDiv
  omega

/-- A whole frame is taken where its CRC agrees, and hunted again after its start where it does not. -/
theorem serviceScan_frame {h : Word} {w : List Word} {b crc : List Byte} (fuel : Nat) (s : State) (hw : wordsOf b = h :: w)
    (hb : b.length = 9 * packetGroups (wbits h 17 6)) (hcrc : crc.length = 4) :
    serviceScan false (fuel + 1) (0x7E :: (b ++ crc)) s =
      if leNat crc = (crc32c b).toNat then keepRx [] (takeReq dispatchOp (packetReq .service h w) s)
      else serviceScan false fuel (b ++ crc) (frameErr .service s) := by
  have groups := packetGroups_pos (wbits h 17 6)
  have nine : 9 ≤ b.length := by omega
  have header : nth 0 (wordsOf ((b ++ crc).take 9)) 0 = h := by
    rw [wordsOf_first (by rw [List.length_take, List.length_append]; omega), List.take_take, Nat.min_self, List.take_append_of_le_length nine,
      ← wordsOf_first nine, hw]
    rfl
  have start : (0x7E :: (b ++ crc)).dropWhile (· != 0x7E) = 0x7E :: (b ++ crc) := rfl
  have whole : ¬((b ++ crc).length < 9 ∨ (b ++ crc).length < b.length + 4) := by rw [List.length_append]; omega
  rw [serviceScan, start]
  dsimp only
  rw [header, ← hb, if_neg whole, List.drop_left, List.take_left, List.take_of_length_le (by omega),
    List.drop_of_length_le (by rw [List.length_append]; omega), hw]
  rw [serviceScan_no_start false fuel _ List.not_mem_nil]
  rfl

/-- A frame of which the first group has not all come is kept. -/
theorem serviceScan_kept {b : List Byte} (fuel : Nat) (s : State) (hb : b.length < 9) :
    serviceScan false (fuel + 1) (0x7E :: b) s = keepRx (0x7E :: b) s := by
  have start : (0x7E :: b).dropWhile (· != 0x7E) = 0x7E :: b := rfl
  rw [serviceScan, start]
  exact (if_pos (.inl hb)).trans (if_neg Bool.false_ne_true)

/-- Settles O41: a packet taken from the ring or from a frame is the request of the row it spells, which goes by its opcode. -/
theorem packetsActAsTheirCommands : Obligations.PacketsActAsTheirCommands := by
  refine ⟨?_, fun bytes s hl => ⟨fun hu => done_outcome hl (if_neg (by rw [hu]; exact Bool.false_ne_true)), fun hu =>
    ⟨fun h w b crc hrx hw hb hcrc => ⟨fun hgood => ?_, fun hbad hno => ?_⟩, fun b hrx hb => ?_⟩⟩⟩
  · intro ring s hl k p h n r t may
    have live : t.live := hl
    refine ⟨fun hmay => ?_, fun hnot => done_outcome hl (takeRing_not hnot)⟩
    have taken : exec (.hostRequestTake ring) s = .next (finish s (takeReq dispatchOp r t)) := done_outcome hl (takeRing_whole hmay)
    exact ⟨taken, fun c hc hop => ⟨_, exec_dispatchOp hc hop live, taken⟩⟩
  · have taken : exec (.serviceFrame bytes) s = .next (finish s (keepRx [] (takeReq dispatchOp (packetReq .service h w) s))) := by
      refine done_outcome hl ((if_pos hu).trans ?_)
      rw [hrx, serviceScan_frame _ s hw hb hcrc, if_pos hgood]
    exact ⟨taken, fun c hc hop => ⟨_, exec_dispatchOp hc hop hl, taken⟩⟩
  · refine done_outcome hl ((if_pos hu).trans ?_)
    rw [hrx, serviceScan_frame _ s hw hb hcrc, if_neg hbad, serviceScan_no_start _ _ _ hno]
    rfl
  · refine done_outcome hl ((if_pos hu).trans ?_)
    rw [hrx]
    exact serviceScan_kept _ s hb

end Sys2Proof.Machine
end
